-- ==== Sys2Proof/Word.lean ====
section
/-!
DEFINITION. The word types of the ZH96 (00_scope.md R3, 07_isa_scalar.md R157) and their plainest readings.
-/
namespace Sys2Proof


/-- A 64-bit scalar register, address or CSR value (R157). -/
abbrev Word := BitVec 64

/-- A byte of memory. -/
abbrev Byte := BitVec 8

/-- The low 64 bits of an exact natural number (R8). -/
def Word.ofNat (n : Nat) : Word := BitVec.ofNat 64 n

/-- The low 64 bits of an exact integer (R8). -/
def Word.ofInt (n : Int) : Word := BitVec.ofInt 64 n

end Sys2Proof
end

