-- ==== Sys2Proof/Machine/Bits.lean ====
section
/-!
DEFINITION. Bit fields, sign readings and byte order (00_scope.md R3, R8): the helpers every family shares.
-/
namespace Sys2Proof.Machine

/-- `bits(x, hi, lo)` of R8 on a natural number. -/
def bitsOf (x hi lo : Nat) : Nat := x / 2 ^ lo % 2 ^ (hi + 1 - lo)

/-- Bit `i` of a natural number. -/
def bitAt (x i : Nat) : Bool := x.testBit i

/-- `sext(x, w)` of R8: the low `w` bits read as two's complement. -/
def sextN (w x : Nat) : Int :=
  if x % 2 ^ w < 2 ^ (w - 1) then (x % 2 ^ w : Nat) else (x % 2 ^ w : Nat) - (2 ^ w : Nat)

/-- An integer modulo 2^w (R8). -/
def wrapN (w : Nat) (x : Int) : Nat := (x % (2 ^ w : Nat)).toNat

/-- `mod(x, q)` of R8, with q > 0. -/
def modQ (x : Int) (q : Nat) : Nat := (x % (q : Int)).toNat

/-- `sat_s(x, w)` of R8. -/
def satS (w : Nat) (x : Int) : Int :=
  if x < -(2 ^ (w - 1) : Nat) then -(2 ^ (w - 1) : Nat)
  else if x > (2 ^ (w - 1) : Nat) - 1 then (2 ^ (w - 1) : Nat) - 1 else x

/-- `sat_u(x, w)` of R8. -/
def satU (w : Nat) (x : Int) : Int :=
  if x < 0 then 0 else if x > (2 ^ w : Nat) - 1 then (2 ^ w : Nat) - 1 else x

/-- Field `i` of width `w` in a bit image (R45, R69). -/
def getField (img w i : Nat) : Nat := (img >>> (i * w)) % 2 ^ w

/-- A bit image with field `i` of width `w` replaced. -/
def setField (img w i x : Nat) : Nat := img ^^^ ((getField img w i ^^^ (x % 2 ^ w)) <<< (i * w))

/-- A bit image with one bit replaced. -/
def setBit (img i : Nat) (b : Bool) : Nat := setField img 1 i (if b then 1 else 0)

/-- Little-endian value of bytes (R3). -/
def leNat : List Byte → Nat
  | [] => 0
  | b :: bs => b.toNat + 256 * leNat bs

/-- The `n` little-endian bytes of a value (R3). -/
def leBytes : Nat → Nat → List Byte
  | 0, _ => []
  | n + 1, x => BitVec.ofNat 8 x :: leBytes n (x / 256)

/-- The number of one bits among the low `n` bits. -/
def popN : Nat → Nat → Nat
  | 0, _ => 0
  | n + 1, x => x % 2 + popN n (x / 2)

/-- Trailing zero bits among the low `n` bits. -/
def ctzN : Nat → Nat → Nat
  | 0, _ => 0
  | n + 1, x => if x % 2 = 1 then 0 else 1 + ctzN n (x / 2)

/-- Leading zero bits of a value of width `n`. -/
def clzN : Nat → Nat → Nat
  | 0, _ => 0
  | n + 1, x => if x.testBit n then 0 else 1 + clzN n x

/-- `k` with its low `n` bits reversed (R252). -/
def revBits : Nat → Nat → Nat
  | 0, _ => 0
  | n + 1, k => (k % 2) * 2 ^ n + revBits n (k / 2)

/-- The ceiling of a quotient. -/
def ceilDiv (a b : Nat) : Nat := (a + b - 1) / b

/-- The indices `lo`, …, `hi - 1`, in ascending order (R8). -/
def indices (lo hi : Nat) : List Nat := (List.range (hi - lo)).map (· + lo)

/-- The little-endian value of a fixed number of bytes taken from an offset of a byte list. -/
def fieldAt (bs : List Byte) (off n : Nat) : Nat := leNat ((bs.drop off).take n)

/-- Whether every byte of a stretch is 0. -/
def zeroAt (bs : List Byte) (off n : Nat) : Bool := ((bs.drop off).take n).all (· == 0)

end Sys2Proof.Machine
end

