-- ==== Sys2Proof/Machine/Float.lean ====
section
/-!
DEFINITION. FP32 arithmetic (03_numbers.md R63 to R66, R73 to R75): every result is the exact value rounded once to
nearest, ties to even, with the canonical NaN of R64.
-/
namespace Sys2Proof.Machine

/-- An FP32 pattern. -/
abbrev F32 := BitVec 32

/-- The value of a pattern: a NaN, an infinity, or the exact number m * 2^e with its sign. -/
inductive FVal where
  | nan
  | inf (neg : Bool)
  | fin (neg : Bool) (m : Nat) (e : Int)
  deriving DecidableEq, Repr

/-- R64: the canonical NaN. -/
def F32.nan : F32 := 0x7FC00000

/-- An infinity. -/
def F32.inf (neg : Bool) : F32 := if neg then 0xFF800000 else 0x7F800000

/-- A zero. -/
def F32.zero (neg : Bool) : F32 := if neg then 0x80000000 else 0

/-- R63: the value of a pattern; subnormals are used as they are. -/
def F32.val (x : F32) : FVal :=
  let n := x.toNat
  let neg := n.testBit 31
  let e := bitsOf n 30 23
  let f := bitsOf n 22 0
  if e = 255 then (if f = 0 then .inf neg else .nan)
  else if e = 0 then .fin neg f (-149)
  else .fin neg (f + 2 ^ 23) ((e : Int) - 150)

/-- Whether a pattern is a NaN. -/
def F32.isNan (x : F32) : Bool := x.val == FVal.nan

/-- Division by 2^d rounded to nearest, ties to even. -/
def rneShift (m d : Nat) : Nat :=
  let q := m / 2 ^ d
  let r := m % 2 ^ d
  if 2 * r > 2 ^ d ∨ (2 * r = 2 ^ d ∧ q % 2 = 1) then q + 1 else q

/-- R63: the exact number m * 2^e rounded to FP32. -/
def roundF (neg : Bool) (m : Nat) (e : Int) : F32 :=
  if m = 0 then F32.zero neg else
    let top := (Nat.log2 m : Int) + e
    let q := max (top - 23) (-149)
    let mant := if q ≤ e then m * 2 ^ (e - q).toNat else rneShift m (q - e).toNat
    let code := if mant < 2 ^ 23 then mant else ((q + 150).toNat * 2 ^ 23 + (mant - 2 ^ 23))
    if 127 < top ∨ 255 * 2 ^ 23 ≤ code then F32.inf neg
    else BitVec.ofNat 32 (code + if neg then 2 ^ 31 else 0)

/-- The exact signed number x * 2^e rounded to FP32, a zero taking the sign given. -/
def roundI (zeroNeg : Bool) (x : Int) (e : Int) : F32 :=
  if x = 0 then F32.zero zeroNeg else roundF (decide (x < 0)) x.natAbs e

/-- The signed significand of a finite value, scaled to an exponent at or below its own. -/
def scaled (neg : Bool) (m : Nat) (e t : Int) : Int :=
  let v : Int := (m * 2 ^ (e - t).toNat : Nat)
  if neg then -v else v

/-- R63, R64: the sum of two values, rounded once. -/
def addV (a b : FVal) : F32 :=
  match a, b with
  | .nan, _ => F32.nan
  | _, .nan => F32.nan
  | .inf s, .inf t => if s = t then F32.inf s else F32.nan
  | .inf s, _ => F32.inf s
  | _, .inf t => F32.inf t
  | .fin s m e, .fin t n f =>
    let low := min e f
    roundI (s && t) (scaled s m e low + scaled t n f low) low

/-- The exact product of two values. -/
def mulV (a b : FVal) : FVal :=
  match a, b with
  | .nan, _ => .nan
  | _, .nan => .nan
  | .inf s, .inf t => .inf (s != t)
  | .inf s, .fin t n _ => if n = 0 then .nan else .inf (s != t)
  | .fin s m _, .inf t => if m = 0 then .nan else .inf (s != t)
  | .fin s m e, .fin t n f => .fin (s != t) (m * n) (e + f)

/-- A value rounded to FP32. -/
def FVal.round : FVal → F32
  | .nan => F32.nan
  | .inf s => F32.inf s
  | .fin s m e => roundF s m e

/-- The negative of a value. -/
def FVal.neg : FVal → FVal
  | .nan => .nan
  | .inf s => .inf (!s)
  | .fin s m e => .fin (!s) m e

/-- VFADD (R187). -/
def fadd (a b : F32) : F32 := addV a.val b.val
/-- VFSUB (R187). -/
def fsub (a b : F32) : F32 := addV a.val b.val.neg
/-- VFMUL (R187). -/
def fmul (a b : F32) : F32 := (mulV a.val b.val).round
/-- VFMA (R63): a * b + c with one rounding. -/
def ffma (a b c : F32) : F32 := addV (mulV a.val b.val) c.val
/-- A value times a power of two, rounded once. -/
def fscale (a : F32) (k : Int) : F32 :=
  match a.val with
  | .fin s m e => roundF s m (e + k)
  | v => v.round
/-- The magnitude of a pattern. -/
def fabs (a : F32) : F32 := a &&& 0x7FFFFFFF

/-- R65: a < b; false with a NaN, and the zeros are equal. -/
def flt (a b : F32) : Bool :=
  match a.val, b.val with
  | .nan, _ => false
  | _, .nan => false
  | .inf s, .inf t => s && !t
  | .inf s, .fin _ _ _ => s
  | .fin _ _ _, .inf t => !t
  | .fin s m e, .fin t n f => decide (scaled s m e (min e f) < scaled t n f (min e f))

/-- R65: a == b. -/
def feq (a b : F32) : Bool := !a.isNan && !b.isNan && !flt a b && !flt b a

/-- R65: a ≤ b. -/
def fle (a b : F32) : Bool := flt a b || feq a b

/-- R65: a counts as below b in VFMIN and VFMAX, where -0 is below +0. -/
def fbelow (a b : F32) : Bool := flt a b || (feq a b && a.getLsbD 31 && !b.getLsbD 31)

/-- VFMIN (R65). -/
def fmin (a b : F32) : F32 :=
  if a.isNan then (if b.isNan then F32.nan else b) else if b.isNan then a else if fbelow b a then b else a

/-- VFMAX (R65). -/
def fmax (a b : F32) : F32 :=
  if a.isNan then (if b.isNan then F32.nan else b) else if b.isNan then a else if fbelow a b then b else a

/-- R8, R66: the nearest integer of m * 2^e, ties to even. -/
def rneInt (neg : Bool) (m : Nat) (e : Int) : Int :=
  let v : Int := if 0 ≤ e then (m * 2 ^ e.toNat : Nat) else (rneShift m (-e).toNat : Nat)
  if neg then -v else v

/-- VFCVTIF (R66): a signed 32-bit integer. -/
def fOfInt (x : Int) : F32 := roundI false x 0

/-- R8, R66: an FP32 value rounded to an integer and saturated by `sat`; an infinity saturates, a NaN gives 0. -/
def fToInt (sat : Int → Int) (a : F32) : Int :=
  match a.val with
  | .nan => 0
  | .inf s => sat (if s then -(2 ^ 200 : Nat) else (2 ^ 200 : Nat))
  | .fin s m e => sat (rneInt s m e)

/-- R75: a narrow integer under an E8M0 code. -/
def scaleInt (y : Int) (code : Nat) : F32 :=
  if code = 0xFF then F32.nan else roundI false y ((code : Int) - 127)

/-- R78: the residual read from ECARRY and left by an element: clamped to [-0.5, 0.5]. -/
def clampHalf (x : F32) : F32 :=
  if flt x 0xBF000000 then 0xBF000000 else if flt 0x3F000000 x then 0x3F000000 else x

/-- R78: the residual an instruction starts from; a NaN counts as 0. -/
def residIn (x : F32) : F32 := if x.isNan then 0 else clampHalf x

/-- R78: one element: the narrow value and the residual after it, from x, the code and the residual before. -/
def narrowStep (sgn : Bool) (w : Nat) (x : F32) (code : Nat) (e : F32) : Int × F32 :=
  if code = 0xFF ∨ x.isNan then (0, 0) else
    let t := fscale x (127 - (code : Int))
    let u := fadd t e
    let y := fToInt (if sgn then satS w else satU w) u
    (y, clampHalf (fsub u (fOfInt y)))

/-- R194: the E8M0 code of a block whose largest magnitude is `m`: the least code that brings it to at most
`maxmag`, searched upward, or 254. -/
def scaleCode (m : F32) (maxmag : Nat) : Nat :=
  if m.isNan then 0xFF
  else if feq m 0 then 127
  else ((List.range 255).find? fun (c : Nat) => fle (fscale m (127 - (c : Int))) (fOfInt maxmag)).getD 254

end Sys2Proof.Machine
end

