-- ==== Sys2Proof/Machine/Flags.lean ====
section
/-!
DEFINITION. The machine has no flags register: no integer or FP32 instruction sets a flag (R58, R59, R67, R158). What
other machines keep in flags are here comparisons that answer a bit: of integers at a width (R158, R186), and the
results of the integer instructions at a width (R58 to R62, R185).
-/
namespace Sys2Proof.Machine

/-- R186: the compare conditions of VCMPcc at W bits. -/
inductive Cond where
  | eq | ne | lt | ltu | le | leu
  deriving DecidableEq, Repr

/-- R186: a condition on two W-bit values. -/
def Cond.holds (c : Cond) (w a b : Nat) : Bool :=
  match c with
  | .eq => a % 2 ^ w == b % 2 ^ w
  | .ne => a % 2 ^ w != b % 2 ^ w
  | .lt => decide (sextN w a < sextN w b)
  | .ltu => decide (a % 2 ^ w < b % 2 ^ w)
  | .le => decide (sextN w a ≤ sextN w b)
  | .leu => decide (a % 2 ^ w ≤ b % 2 ^ w)

/-- R60: a left shift by the low 6 bits of the amount. -/
def shlW (w a b : Nat) : Nat := if b % 64 < w then a * 2 ^ (b % 64) % 2 ^ w else 0

/-- R60: a logical right shift. -/
def shrW (w a b : Nat) : Nat := if b % 64 < w then a % 2 ^ w / 2 ^ (b % 64) else 0

/-- R60: an arithmetic right shift; all ones for a negative operand when the amount reaches the width. -/
def sraW (w a b : Nat) : Nat :=
  if b % 64 < w then wrapN w (sextN w a / (2 ^ (b % 64) : Nat)) else if sextN w a < 0 then 2 ^ w - 1 else 0

/-- R61: the high half of a product of signed operands. -/
def mulhW (w a b : Nat) : Nat := wrapN w (sextN w a * sextN w b / (2 ^ w : Nat))

/-- R61: the high half of a product of unsigned operands. -/
def mulhuW (w a b : Nat) : Nat := (a % 2 ^ w) * (b % 2 ^ w) / 2 ^ w

/-- R158, R185: the signed lesser. -/
def minW (w a b : Nat) : Nat := if sextN w b < sextN w a then b % 2 ^ w else a % 2 ^ w
/-- R158, R185: the signed greater. -/
def maxW (w a b : Nat) : Nat := if sextN w a < sextN w b then b % 2 ^ w else a % 2 ^ w
/-- R158, R185: the unsigned lesser. -/
def minuW (w a b : Nat) : Nat := if b % 2 ^ w < a % 2 ^ w then b % 2 ^ w else a % 2 ^ w
/-- R158, R185: the unsigned greater. -/
def maxuW (w a b : Nat) : Nat := if a % 2 ^ w < b % 2 ^ w then b % 2 ^ w else a % 2 ^ w

/-- R62: signed division, with its corner values. -/
def divS (a b : Nat) : Nat :=
  if b % 2 ^ 64 = 0 then 2 ^ 64 - 1 else wrapN 64 ((sextN 64 a).tdiv (sextN 64 b))
/-- R62: unsigned division. -/
def divU (a b : Nat) : Nat := if b % 2 ^ 64 = 0 then 2 ^ 64 - 1 else a % 2 ^ 64 / (b % 2 ^ 64)
/-- R62: signed remainder. -/
def remS (a b : Nat) : Nat :=
  if b % 2 ^ 64 = 0 then a % 2 ^ 64 else wrapN 64 ((sextN 64 a).tmod (sextN 64 b))
/-- R62: unsigned remainder. -/
def remU (a b : Nat) : Nat := if b % 2 ^ 64 = 0 then a % 2 ^ 64 else a % 2 ^ 64 % (b % 2 ^ 64)

end Sys2Proof.Machine
end

