-- ==== Sys2Proof/Syntax.lean ====
section
/-!
DEFINITION. The instructions and events of the ZH96 as syntax: one constructor for every row of
spec/opcode_table.json (06_encoding.md R137 to R153 for the encoded words, whose fields bear the table's
names; the rows without an encoding are the device's own steps and take as arguments what the outside
or another unit chooses). `e` is the E bit of a word that may share a convoy (R27).
-/
namespace Sys2Proof

/-- Every row of the table of operations and events. -/
inductive Instr where
  /-- R158. Writes the sum of two X registers modulo 2^64 into Xd. -/
  | add (d : Fin 32) (a : Fin 32) (b : Fin 32)
  /-- R158. Writes Xa minus Xb modulo 2^64 into Xd. -/
  | sub (d : Fin 32) (a : Fin 32) (b : Fin 32)
  /-- R158. Writes the bitwise AND of two X registers into Xd. -/
  | and (d : Fin 32) (a : Fin 32) (b : Fin 32)
  /-- R158. Writes the bitwise OR of two X registers into Xd. -/
  | or (d : Fin 32) (a : Fin 32) (b : Fin 32)
  /-- R158. Writes the bitwise XOR of two X registers into Xd. -/
  | xor (d : Fin 32) (a : Fin 32) (b : Fin 32)
  /-- R158. Shifts Xa left by the low 6 bits of Xb. -/
  | sll (d : Fin 32) (a : Fin 32) (b : Fin 32)
  /-- R158. Shifts Xa right logically by the low 6 bits of Xb. -/
  | srl (d : Fin 32) (a : Fin 32) (b : Fin 32)
  /-- R158. Shifts Xa right arithmetically by the low 6 bits of Xb. -/
  | sra (d : Fin 32) (a : Fin 32) (b : Fin 32)
  /-- R158. Writes 1 when Xa is less than Xb as signed values, else 0. -/
  | slt (d : Fin 32) (a : Fin 32) (b : Fin 32)
  /-- R158. Writes 1 when Xa is less than Xb as unsigned values, else 0. -/
  | sltu (d : Fin 32) (a : Fin 32) (b : Fin 32)
  /-- R158. Writes the signed lesser of two X registers. -/
  | min (d : Fin 32) (a : Fin 32) (b : Fin 32)
  /-- R158. Writes the signed greater of two X registers. -/
  | max (d : Fin 32) (a : Fin 32) (b : Fin 32)
  /-- R158. Writes the unsigned lesser of two X registers. -/
  | minu (d : Fin 32) (a : Fin 32) (b : Fin 32)
  /-- R158. Writes the unsigned greater of two X registers. -/
  | maxu (d : Fin 32) (a : Fin 32) (b : Fin 32)
  /-- R158. Writes the low 64 bits of the product. -/
  | mul (d : Fin 32) (a : Fin 32) (b : Fin 32)
  /-- R158. Writes the high 64 bits of the signed product. -/
  | mulh (d : Fin 32) (a : Fin 32) (b : Fin 32)
  /-- R158. Writes the high 64 bits of the unsigned product. -/
  | mulhu (d : Fin 32) (a : Fin 32) (b : Fin 32)
  /-- R62. Writes the signed quotient, with the corner values of R62. -/
  | div (d : Fin 32) (a : Fin 32) (b : Fin 32)
  /-- R62. Writes the unsigned quotient, with the corner values of R62. -/
  | divu (d : Fin 32) (a : Fin 32) (b : Fin 32)
  /-- R62. Writes the signed remainder, with the corner values of R62. -/
  | rem (d : Fin 32) (a : Fin 32) (b : Fin 32)
  /-- R62. Writes the unsigned remainder, with the corner values of R62. -/
  | remu (d : Fin 32) (a : Fin 32) (b : Fin 32)
  /-- R158. Writes the number of leading zero bits of Xa. -/
  | clz (d : Fin 32) (a : Fin 32)
  /-- R158. Writes the number of one bits of Xa. -/
  | popc (d : Fin 32) (a : Fin 32)
  /-- R158. Writes the number of trailing zero bits of Xa. -/
  | ctz (d : Fin 32) (a : Fin 32)
  /-- R159. Adds a sign-extended 15-bit immediate to Xa. -/
  | addi (d : Fin 32) (a : Fin 32) (i : Fin 32768)
  /-- R159. ANDs Xa with a zero-extended 15-bit immediate. -/
  | andi (d : Fin 32) (a : Fin 32) (i : Fin 32768)
  /-- R159. ORs Xa with a zero-extended 15-bit immediate. -/
  | ori (d : Fin 32) (a : Fin 32) (i : Fin 32768)
  /-- R159. XORs Xa with a zero-extended 15-bit immediate. -/
  | xori (d : Fin 32) (a : Fin 32) (i : Fin 32768)
  /-- R159. Writes 1 when Xa is below the signed immediate. -/
  | slti (d : Fin 32) (a : Fin 32) (i : Fin 32768)
  /-- R159. Writes 1 when Xa is below the sign-extended immediate as unsigned values. -/
  | sltiu (d : Fin 32) (a : Fin 32) (i : Fin 32768)
  /-- R159. Shifts Xa left by an immediate amount. -/
  | slli (d : Fin 32) (a : Fin 32) (h : Fin 64)
  /-- R159. Shifts Xa right logically by an immediate amount. -/
  | srli (d : Fin 32) (a : Fin 32) (h : Fin 64)
  /-- R159. Shifts Xa right arithmetically by an immediate amount. -/
  | srai (d : Fin 32) (a : Fin 32) (h : Fin 64)
  /-- R160. Writes the 20-bit immediate shifted left by 12, sign-extended. -/
  | lui (d : Fin 32) (i : Fin 1048576)
  /-- R160. Writes the AUIPC address plus the shifted, sign-extended immediate. -/
  | auipc (d : Fin 32) (i : Fin 1048576)
  /-- R161. Loads a sign-extended byte. -/
  | ldb (d : Fin 32) (a : Fin 32) (o : Fin 4096)
  /-- R161. Loads a sign-extended halfword. -/
  | ldh (d : Fin 32) (a : Fin 32) (o : Fin 4096)
  /-- R161. Loads a sign-extended word. -/
  | ldw (d : Fin 32) (a : Fin 32) (o : Fin 4096)
  /-- R161. Loads a doubleword. -/
  | ldd (d : Fin 32) (a : Fin 32) (o : Fin 4096)
  /-- R161. Loads a zero-extended byte. -/
  | ldbu (d : Fin 32) (a : Fin 32) (o : Fin 4096)
  /-- R161. Loads a zero-extended halfword. -/
  | ldhu (d : Fin 32) (a : Fin 32) (o : Fin 4096)
  /-- R161. Loads a zero-extended word. -/
  | ldwu (d : Fin 32) (a : Fin 32) (o : Fin 4096)
  /-- R162. Stores the low byte of Xs. -/
  | stb (s : Fin 32) (a : Fin 32) (o : Fin 4096)
  /-- R162. Stores the low halfword of Xs. -/
  | sth (s : Fin 32) (a : Fin 32) (o : Fin 4096)
  /-- R162. Stores the low word of Xs. -/
  | stw (s : Fin 32) (a : Fin 32) (o : Fin 4096)
  /-- R162. Stores the doubleword Xs. -/
  | std (s : Fin 32) (a : Fin 32) (o : Fin 4096)
  /-- R164. Branches when Xa equals Xb. -/
  | beq (a : Fin 32) (b : Fin 32) (o : Fin 32768)
  /-- R164. Branches when Xa differs from Xb. -/
  | bne (a : Fin 32) (b : Fin 32) (o : Fin 32768)
  /-- R164. Branches when Xa is signed-less than Xb. -/
  | blt (a : Fin 32) (b : Fin 32) (o : Fin 32768)
  /-- R164. Branches when Xa is signed-greater or equal to Xb. -/
  | bge (a : Fin 32) (b : Fin 32) (o : Fin 32768)
  /-- R164. Branches when Xa is unsigned-less than Xb. -/
  | bltu (a : Fin 32) (b : Fin 32) (o : Fin 32768)
  /-- R164. Branches when Xa is unsigned-greater or equal to Xb. -/
  | bgeu (a : Fin 32) (b : Fin 32) (o : Fin 32768)
  /-- R165. Writes the return address and jumps by a signed word offset. -/
  | jal (d : Fin 32) (i : Fin 1048576)
  /-- R165. Writes the return address and jumps to Xa plus an offset with bits [1:0] cleared. -/
  | jalr (d : Fin 32) (a : Fin 32) (i : Fin 32768)
  /-- R166. Atomically swaps a memory word or doubleword with Xb and returns the old value. -/
  | amoswap (d : Fin 32) (a : Fin 32) (b : Fin 32) (x : Bool) (q : Bool) (l : Bool) (s : Fin 8)
  /-- R166. Atomically adds Xb to memory and returns the old value. -/
  | amoadd (d : Fin 32) (a : Fin 32) (b : Fin 32) (x : Bool) (q : Bool) (l : Bool) (s : Fin 8)
  /-- R166. Atomically ANDs Xb into memory and returns the old value. -/
  | amoand (d : Fin 32) (a : Fin 32) (b : Fin 32) (x : Bool) (q : Bool) (l : Bool) (s : Fin 8)
  /-- R166. Atomically ORs Xb into memory and returns the old value. -/
  | amoor (d : Fin 32) (a : Fin 32) (b : Fin 32) (x : Bool) (q : Bool) (l : Bool) (s : Fin 8)
  /-- R166. Atomically XORs Xb into memory and returns the old value. -/
  | amoxor (d : Fin 32) (a : Fin 32) (b : Fin 32) (x : Bool) (q : Bool) (l : Bool) (s : Fin 8)
  /-- R166. Atomically stores the signed minimum and returns the old value. -/
  | amomin (d : Fin 32) (a : Fin 32) (b : Fin 32) (x : Bool) (q : Bool) (l : Bool) (s : Fin 8)
  /-- R166. Atomically stores the signed maximum and returns the old value. -/
  | amomax (d : Fin 32) (a : Fin 32) (b : Fin 32) (x : Bool) (q : Bool) (l : Bool) (s : Fin 8)
  /-- R166. Atomically stores the unsigned minimum and returns the old value. -/
  | amominu (d : Fin 32) (a : Fin 32) (b : Fin 32) (x : Bool) (q : Bool) (l : Bool) (s : Fin 8)
  /-- R166. Atomically stores the unsigned maximum and returns the old value. -/
  | amomaxu (d : Fin 32) (a : Fin 32) (b : Fin 32) (x : Bool) (q : Bool) (l : Bool) (s : Fin 8)
  /-- R166. Atomically compares memory with Xd and stores Xb on a match, returning the old value. -/
  | amocas (d : Fin 32) (a : Fin 32) (b : Fin 32) (x : Bool) (q : Bool) (l : Bool) (s : Fin 8)
  /-- R42. Starts a hardware loop on LCk with a count taken from Xa modulo 2^24. -/
  | loop (k : Fin 2) (a : Fin 32) (i : Fin 32768)
  /-- R173. Requests service from the next privilege level with cause 0x18 or 0x19. -/
  | ecall
  /-- R173. Raises cause 0x1A. -/
  | ebreak
  /-- R174. Returns from a delegated handler, ends the task at U, or returns from a trap at S or M. -/
  | tret
  /-- R175. Stops the scalar side until the hart's wake latch is set. -/
  | park
  /-- R176. Seals the outgoing world's state into a shroud and switches the hart to another world. -/
  | wsw (a : Fin 32)
  /-- R169. Writes the live counter of a hardware loop. -/
  | mvlc (k : Fin 2) (a : Fin 32)
  /-- R177. Orders earlier S accesses before later V accesses at the scope. -/
  | fenceSv (s : Fin 8)
  /-- R177. Orders earlier V accesses before later S accesses at the scope. -/
  | fenceVs (s : Fin 8)
  /-- R177. Orders earlier V accesses before later V accesses at the scope. -/
  | fenceVv (s : Fin 8)
  /-- R177. Orders all earlier S and V accesses before all later ones at the scope. -/
  | fenceAll (s : Fin 8)
  /-- R170. Reads a CSR into Xd. -/
  | csrr (d : Fin 32) (c : Fin 4096)
  /-- R170. Writes Xa to a CSR and returns the old value; covers writes to registers with no row of their own. -/
  | csrw (d : Fin 32) (a : Fin 32) (c : Fin 4096)
  /-- R170. Sets CSR bits named by Xa and returns the old value. -/
  | csrs (d : Fin 32) (a : Fin 32) (c : Fin 4096)
  /-- R170. Clears CSR bits named by Xa and returns the old value. -/
  | csrc (d : Fin 32) (a : Fin 32) (c : Fin 4096)
  /-- R116. A TLBINV write with ALL set removes every TLB entry, keeping global ones with KEEPG. -/
  | tlbinvAll (keepg : Bool)
  /-- R116. A TLBINV write with ALL clear removes every entry whose page contains VPN. -/
  | tlbinvPage (vpn : Nat)
  /-- R393. A PREQ write sets a pending pre-emption on the named hart when permitted. -/
  | preqWrite (h : Fin 512)
  /-- R124. A VICTQ write sets the die's victim ring and restarts its write position at slot 0. -/
  | victqWrite (v : BitVec 64)
  /-- R324. A GGROUP write of a new value leaves the old clock group and joins the new one. -/
  | ggroupWrite (gid : Fin 4096)
  /-- R183. Writes VTYPE, obtains a lane-group grant, sets VL and replies it. -/
  | setvl (d : Fin 32) (a : Fin 32) (v : Fin 4096)
  /-- R47. A hart waiting at SETVL or at a ciphertext floor is served groups as they become free. -/
  | laneGroupGrant (h : Nat)
  /-- R48. A released lane group finishes scrubbing and becomes grantable. -/
  | laneGroupScrubbed (c : Nat) (g : Fin 8)
  /-- R184. Branches when any bit of the mask below VL is 1. -/
  | vbany (m : Fin 8) (o : Fin 32768)
  /-- R184. Branches when no bit of the mask below VL is 1. -/
  | vbnone (m : Fin 8) (o : Fin 32768)
  /-- R41. A VBANY or VBNONE resolves 6 cycles after its dispatch and the drains it depends on. -/
  | vbranchResolve (h : Nat)
  /-- R185. Adds elements. -/
  | vadd (e : Bool) (d : Fin 32) (a : Fin 32) (b : Fin 32) (p : Fin 8) (s : Bool)
  /-- R185. Subtracts elements. -/
  | vsub (e : Bool) (d : Fin 32) (a : Fin 32) (b : Fin 32) (p : Fin 8) (s : Bool)
  /-- R185. Subtracts A from B element-wise. -/
  | vrsub (e : Bool) (d : Fin 32) (a : Fin 32) (b : Fin 32) (p : Fin 8) (s : Bool)
  /-- R185. Low W bits of element products. -/
  | vmul (e : Bool) (d : Fin 32) (a : Fin 32) (b : Fin 32) (p : Fin 8) (s : Bool)
  /-- R185. High W bits of signed element products. -/
  | vmulh (e : Bool) (d : Fin 32) (a : Fin 32) (b : Fin 32) (p : Fin 8) (s : Bool)
  /-- R185. High W bits of unsigned element products. -/
  | vmulhu (e : Bool) (d : Fin 32) (a : Fin 32) (b : Fin 32) (p : Fin 8) (s : Bool)
  /-- R185. Bitwise AND of elements. -/
  | vand (e : Bool) (d : Fin 32) (a : Fin 32) (b : Fin 32) (p : Fin 8) (s : Bool)
  /-- R185. Bitwise OR of elements. -/
  | vor (e : Bool) (d : Fin 32) (a : Fin 32) (b : Fin 32) (p : Fin 8) (s : Bool)
  /-- R185. Bitwise XOR of elements. -/
  | vxor (e : Bool) (d : Fin 32) (a : Fin 32) (b : Fin 32) (p : Fin 8) (s : Bool)
  /-- R185. Left shift of elements. -/
  | vsll (e : Bool) (d : Fin 32) (a : Fin 32) (b : Fin 32) (p : Fin 8) (s : Bool)
  /-- R185. Logical right shift of elements. -/
  | vsrl (e : Bool) (d : Fin 32) (a : Fin 32) (b : Fin 32) (p : Fin 8) (s : Bool)
  /-- R185. Arithmetic right shift of elements. -/
  | vsra (e : Bool) (d : Fin 32) (a : Fin 32) (b : Fin 32) (p : Fin 8) (s : Bool)
  /-- R185. Signed minimum of elements. -/
  | vmin (e : Bool) (d : Fin 32) (a : Fin 32) (b : Fin 32) (p : Fin 8) (s : Bool)
  /-- R185. Signed maximum of elements. -/
  | vmax (e : Bool) (d : Fin 32) (a : Fin 32) (b : Fin 32) (p : Fin 8) (s : Bool)
  /-- R185. Unsigned minimum of elements. -/
  | vminu (e : Bool) (d : Fin 32) (a : Fin 32) (b : Fin 32) (p : Fin 8) (s : Bool)
  /-- R185. Unsigned maximum of elements. -/
  | vmaxu (e : Bool) (d : Fin 32) (a : Fin 32) (b : Fin 32) (p : Fin 8) (s : Bool)
  /-- R59. Signed saturating add of elements. -/
  | vsadd (e : Bool) (d : Fin 32) (a : Fin 32) (b : Fin 32) (p : Fin 8) (s : Bool)
  /-- R59. Signed saturating subtract of elements. -/
  | vssub (e : Bool) (d : Fin 32) (a : Fin 32) (b : Fin 32) (p : Fin 8) (s : Bool)
  /-- R59. Unsigned saturating add of elements. -/
  | vsaddu (e : Bool) (d : Fin 32) (a : Fin 32) (b : Fin 32) (p : Fin 8) (s : Bool)
  /-- R59. Unsigned saturating subtract of elements. -/
  | vssubu (e : Bool) (d : Fin 32) (a : Fin 32) (b : Fin 32) (p : Fin 8) (s : Bool)
  /-- R185. Selects B or A per element by M0. -/
  | vmerge (e : Bool) (d : Fin 32) (a : Fin 32) (b : Fin 32) (p : Fin 8) (s : Bool)
  /-- R185. Copies B into each active element. -/
  | vmv (e : Bool) (d : Fin 32) (b : Fin 32) (p : Fin 8) (s : Bool)
  /-- R185. Writes the element index modulo 2^W. -/
  | vid (e : Bool) (d : Fin 32) (p : Fin 8)
  /-- R186. Sets mask bits where elements are equal. -/
  | vcmpeq (e : Bool) (d : Fin 8) (a : Fin 32) (b : Fin 32) (p : Fin 8) (s : Bool)
  /-- R186. Sets mask bits where elements differ. -/
  | vcmpne (e : Bool) (d : Fin 8) (a : Fin 32) (b : Fin 32) (p : Fin 8) (s : Bool)
  /-- R186. Sets mask bits where A is signed-less than B. -/
  | vcmplt (e : Bool) (d : Fin 8) (a : Fin 32) (b : Fin 32) (p : Fin 8) (s : Bool)
  /-- R186. Sets mask bits where A is unsigned-less than B. -/
  | vcmpltu (e : Bool) (d : Fin 8) (a : Fin 32) (b : Fin 32) (p : Fin 8) (s : Bool)
  /-- R186. Sets mask bits where A is signed-less or equal to B. -/
  | vcmple (e : Bool) (d : Fin 8) (a : Fin 32) (b : Fin 32) (p : Fin 8) (s : Bool)
  /-- R186. Sets mask bits where A is unsigned-less or equal to B. -/
  | vcmpleu (e : Bool) (d : Fin 8) (a : Fin 32) (b : Fin 32) (p : Fin 8) (s : Bool)
  /-- R187. FP32 addition of elements. -/
  | vfadd (e : Bool) (d : Fin 32) (a : Fin 32) (b : Fin 32) (p : Fin 8) (s : Bool)
  /-- R187. FP32 subtraction of elements. -/
  | vfsub (e : Bool) (d : Fin 32) (a : Fin 32) (b : Fin 32) (p : Fin 8) (s : Bool)
  /-- R187. FP32 multiplication of elements. -/
  | vfmul (e : Bool) (d : Fin 32) (a : Fin 32) (b : Fin 32) (p : Fin 8) (s : Bool)
  /-- R187. FP32 fused multiply-add into Vd. -/
  | vfma (e : Bool) (d : Fin 32) (a : Fin 32) (b : Fin 32) (p : Fin 8) (s : Bool)
  /-- R187. FP32 minimum per R65. -/
  | vfmin (e : Bool) (d : Fin 32) (a : Fin 32) (b : Fin 32) (p : Fin 8) (s : Bool)
  /-- R187. FP32 maximum per R65. -/
  | vfmax (e : Bool) (d : Fin 32) (a : Fin 32) (b : Fin 32) (p : Fin 8) (s : Bool)
  /-- R187. Sets mask bits where FP32 elements are equal. -/
  | vfcmpeq (e : Bool) (d : Fin 8) (a : Fin 32) (b : Fin 32) (p : Fin 8) (s : Bool)
  /-- R187. Sets mask bits where FP32 A is less than B. -/
  | vfcmplt (e : Bool) (d : Fin 8) (a : Fin 32) (b : Fin 32) (p : Fin 8) (s : Bool)
  /-- R187. Sets mask bits where FP32 A is less or equal to B. -/
  | vfcmple (e : Bool) (d : Fin 8) (a : Fin 32) (b : Fin 32) (p : Fin 8) (s : Bool)
  /-- R66. Converts signed 32-bit integers to FP32. -/
  | vfcvtif (e : Bool) (d : Fin 32) (a : Fin 32) (p : Fin 8)
  /-- R66. Converts FP32 to saturated signed integers. -/
  | vfcvtfi (e : Bool) (d : Fin 32) (a : Fin 32) (p : Fin 8)
  /-- R188. Slides Va up by Xb elements. -/
  | vslideup (e : Bool) (d : Fin 32) (a : Fin 32) (b : Fin 32) (p : Fin 8)
  /-- R188. Slides Va down by Xb elements, filling with zeros. -/
  | vslidedn (e : Bool) (d : Fin 32) (a : Fin 32) (b : Fin 32) (p : Fin 8)
  /-- R188. Gathers Va elements by the indices in Vb. -/
  | vshuf (e : Bool) (d : Fin 32) (a : Fin 32) (b : Fin 32) (p : Fin 8)
  /-- R189. Packs the selected elements of Va into the low positions of Vd. -/
  | vcompress (e : Bool) (d : Fin 32) (a : Fin 32) (b : Fin 8) (p : Fin 8)
  /-- R189. Spreads consecutive Va elements to the selected positions of Vd. -/
  | vexpand (e : Bool) (d : Fin 32) (a : Fin 32) (b : Fin 8) (p : Fin 8)
  /-- R190. Sum reduction into element 0 of Vd. -/
  | vredsum (e : Bool) (d : Fin 32) (a : Fin 32) (b : Fin 32) (p : Fin 8)
  /-- R190. Signed maximum reduction into element 0 of Vd. -/
  | vredmax (e : Bool) (d : Fin 32) (a : Fin 32) (b : Fin 32) (p : Fin 8)
  /-- R190. Signed minimum reduction into element 0 of Vd. -/
  | vredmin (e : Bool) (d : Fin 32) (a : Fin 32) (b : Fin 32) (p : Fin 8)
  /-- R190. Bitwise AND reduction into element 0 of Vd. -/
  | vredand (e : Bool) (d : Fin 32) (a : Fin 32) (b : Fin 32) (p : Fin 8)
  /-- R190. Bitwise OR reduction into element 0 of Vd. -/
  | vredor (e : Bool) (d : Fin 32) (a : Fin 32) (b : Fin 32) (p : Fin 8)
  /-- R191. Replies the index of the first active set mask bit, or VL. -/
  | vmfirst (e : Bool) (d : Fin 32) (a : Fin 8) (p : Fin 8)
  /-- R191. Replies the count of active set mask bits. -/
  | vmpopc (e : Bool) (d : Fin 32) (a : Fin 8) (p : Fin 8)
  /-- R191. ANDs two masks. -/
  | vmand (e : Bool) (d : Fin 8) (a : Fin 8) (b : Fin 8) (p : Fin 8)
  /-- R191. ORs two masks. -/
  | vmor (e : Bool) (d : Fin 8) (a : Fin 8) (b : Fin 8) (p : Fin 8)
  /-- R191. XORs two masks. -/
  | vmxor (e : Bool) (d : Fin 8) (a : Fin 8) (b : Fin 8) (p : Fin 8)
  /-- R191. Inverts a mask. -/
  | vmnot (e : Bool) (d : Fin 8) (a : Fin 8) (p : Fin 8)
  /-- R192. Replies element Xb of Va into an X register. -/
  | vmvxs (e : Bool) (d : Fin 32) (a : Fin 32) (b : Fin 32)
  /-- R192. Broadcasts the low W bits of Xa into active elements. -/
  | vsplat (e : Bool) (d : Fin 32) (a : Fin 32) (p : Fin 8)
  /-- R195. Narrows FP32 elements to w-bit integers with error feedback through ECARRY. -/
  | vnarrow (e : Bool) (d : Fin 32) (a : Fin 32) (b : Fin 32) (p : Fin 8)
  /-- R196. Widens narrow elements to FP32 under block scales. -/
  | vwiden (e : Bool) (d : Fin 32) (a : Fin 32) (b : Fin 32) (p : Fin 8)
  /-- R194. Chooses the E8M0 scale code of each block. -/
  | vscale (e : Bool) (d : Fin 32) (a : Fin 32) (p : Fin 8)
  /-- R205. Modular addition of elements. -/
  | vmadd (e : Bool) (d : Fin 32) (a : Fin 32) (b : Fin 32) (p : Fin 8) (q : Fin 4)
  /-- R205. Modular subtraction of elements. -/
  | vmsub (e : Bool) (d : Fin 32) (a : Fin 32) (b : Fin 32) (p : Fin 8) (q : Fin 4)
  /-- R205. Modular multiplication of elements. -/
  | vmmul (e : Bool) (d : Fin 32) (a : Fin 32) (b : Fin 32) (p : Fin 8) (q : Fin 4)
  /-- R205. Modular multiply-accumulate into Vd. -/
  | vmmac (e : Bool) (d : Fin 32) (a : Fin 32) (b : Fin 32) (p : Fin 8) (q : Fin 4)
  /-- R205. Modular negation of elements. -/
  | vmneg (e : Bool) (d : Fin 32) (a : Fin 32) (p : Fin 8) (q : Fin 4)
  /-- R205. Modular reduction of elements. -/
  | vmred (e : Bool) (d : Fin 32) (a : Fin 32) (p : Fin 8) (q : Fin 4)
  /-- R206. Forward butterfly writing Vd and Va. -/
  | vbfly (e : Bool) (d : Fin 32) (a : Fin 32) (b : Fin 32) (p : Fin 8) (q : Fin 4)
  /-- R206. Inverse butterfly writing Vd and Va. -/
  | vibfly (e : Bool) (d : Fin 32) (a : Fin 32) (b : Fin 32) (p : Fin 8) (q : Fin 4)
  /-- R208. Negacyclic rotation of polynomial blocks. -/
  | vnegrot (e : Bool) (d : Fin 32) (a : Fin 32) (b : Fin 32) (p : Fin 8) (q : Fin 4)
  /-- R208. Applies an automorphism to polynomial blocks. -/
  | vauto (e : Bool) (d : Fin 32) (a : Fin 32) (b : Fin 32) (p : Fin 8) (q : Fin 4)
  /-- R210. Writes one signed gadget digit of each element. -/
  | vdecomp (e : Bool) (d : Fin 32) (a : Fin 32) (b : Fin 32) (p : Fin 8) (q : Fin 4)
  /-- R211. Rescales each element from q to a new modulus. -/
  | vmswitch (e : Bool) (d : Fin 32) (a : Fin 32) (b : Fin 32) (p : Fin 8) (q : Fin 4)
  /-- R198. Unit-stride vector load. -/
  | vld (e : Bool) (d : Fin 32) (a : Fin 32) (p : Fin 8) (o : Bool)
  /-- R198. Strided vector load. -/
  | vlds (e : Bool) (d : Fin 32) (a : Fin 32) (b : Fin 32) (p : Fin 8) (o : Bool)
  /-- R198. Indexed vector load (gather). -/
  | vldx (e : Bool) (d : Fin 32) (a : Fin 32) (b : Fin 32) (p : Fin 8) (o : Bool)
  /-- R200. Unit-stride load that trims VL at the first unreadable element. -/
  | vldff (e : Bool) (d : Fin 32) (a : Fin 32) (p : Fin 8) (o : Bool)
  /-- R198. Bit-stream load of narrow elements from a bit offset. -/
  | vldb (e : Bool) (d : Fin 32) (a : Fin 32) (b : Fin 32) (p : Fin 8) (o : Bool)
  /-- R199. Unit-stride vector store. -/
  | vst (e : Bool) (d : Fin 32) (a : Fin 32) (p : Fin 8) (o : Bool)
  /-- R199. Strided vector store. -/
  | vsts (e : Bool) (d : Fin 32) (a : Fin 32) (b : Fin 32) (p : Fin 8) (o : Bool)
  /-- R199. Indexed vector store (scatter). -/
  | vstx (e : Bool) (d : Fin 32) (a : Fin 32) (b : Fin 32) (p : Fin 8) (o : Bool)
  /-- R71. Bit-stream store of narrow elements with bit-masked writes. -/
  | vstb (e : Bool) (d : Fin 32) (a : Fin 32) (b : Fin 32) (p : Fin 8) (o : Bool)
  /-- R203. Writes one vector register into a spill frame. -/
  | vspill (s : Fin 32) (a : Fin 32)
  /-- R203. Restores a vector register, VL and VTYPE from a spill frame. -/
  | vfill (d : Fin 32) (a : Fin 32)
  /-- R257. Unordered vector atomic add. -/
  | vamoadd (d : Fin 32) (a : Fin 32) (b : Fin 32) (p : Fin 8) (q : Bool) (l : Bool) (s : Fin 4)
  /-- R257. Unordered vector atomic AND. -/
  | vamoand (d : Fin 32) (a : Fin 32) (b : Fin 32) (p : Fin 8) (q : Bool) (l : Bool) (s : Fin 4)
  /-- R257. Unordered vector atomic OR. -/
  | vamoor (d : Fin 32) (a : Fin 32) (b : Fin 32) (p : Fin 8) (q : Bool) (l : Bool) (s : Fin 4)
  /-- R257. Unordered vector atomic XOR. -/
  | vamoxor (d : Fin 32) (a : Fin 32) (b : Fin 32) (p : Fin 8) (q : Bool) (l : Bool) (s : Fin 4)
  /-- R257. Unordered vector atomic signed minimum. -/
  | vamomin (d : Fin 32) (a : Fin 32) (b : Fin 32) (p : Fin 8) (q : Bool) (l : Bool) (s : Fin 4)
  /-- R257. Unordered vector atomic signed maximum. -/
  | vamomax (d : Fin 32) (a : Fin 32) (b : Fin 32) (p : Fin 8) (q : Bool) (l : Bool) (s : Fin 4)
  /-- R257. Unordered vector atomic unsigned minimum. -/
  | vamominu (d : Fin 32) (a : Fin 32) (b : Fin 32) (p : Fin 8) (q : Bool) (l : Bool) (s : Fin 4)
  /-- R257. Unordered vector atomic swap. -/
  | vamoswap (d : Fin 32) (a : Fin 32) (b : Fin 32) (p : Fin 8) (q : Bool) (l : Bool) (s : Fin 4)
  /-- R258. Element-ordered vector atomic add. -/
  | vamooadd (d : Fin 32) (a : Fin 32) (b : Fin 32) (p : Fin 8) (q : Bool) (l : Bool) (s : Fin 4)
  /-- R258. Element-ordered vector atomic AND. -/
  | vamooand (d : Fin 32) (a : Fin 32) (b : Fin 32) (p : Fin 8) (q : Bool) (l : Bool) (s : Fin 4)
  /-- R258. Element-ordered vector atomic OR. -/
  | vamooor (d : Fin 32) (a : Fin 32) (b : Fin 32) (p : Fin 8) (q : Bool) (l : Bool) (s : Fin 4)
  /-- R258. Element-ordered vector atomic XOR. -/
  | vamooxor (d : Fin 32) (a : Fin 32) (b : Fin 32) (p : Fin 8) (q : Bool) (l : Bool) (s : Fin 4)
  /-- R258. Element-ordered vector atomic signed minimum. -/
  | vamoomin (d : Fin 32) (a : Fin 32) (b : Fin 32) (p : Fin 8) (q : Bool) (l : Bool) (s : Fin 4)
  /-- R258. Element-ordered vector atomic signed maximum. -/
  | vamoomax (d : Fin 32) (a : Fin 32) (b : Fin 32) (p : Fin 8) (q : Bool) (l : Bool) (s : Fin 4)
  /-- R258. Element-ordered vector atomic unsigned minimum. -/
  | vamoominu (d : Fin 32) (a : Fin 32) (b : Fin 32) (p : Fin 8) (q : Bool) (l : Bool) (s : Fin 4)
  /-- R258. Element-ordered vector atomic swap. -/
  | vamooswap (d : Fin 32) (a : Fin 32) (b : Fin 32) (p : Fin 8) (q : Bool) (l : Bool) (s : Fin 4)
  /-- R260. Parks until every element's location equals its comparand, then acquires. -/
  | vwaiteq (d : Fin 32) (a : Fin 32) (b : Fin 32) (p : Fin 8) (s : Fin 4)
  /-- R260. Parks until every element's location differs from its comparand. -/
  | vwaitne (d : Fin 32) (a : Fin 32) (b : Fin 32) (p : Fin 8) (s : Fin 4)
  /-- R260. Parks until every location is signed-less than its comparand. -/
  | vwaitlt (d : Fin 32) (a : Fin 32) (b : Fin 32) (p : Fin 8) (s : Fin 4)
  /-- R260. Parks until every location is unsigned-less than its comparand. -/
  | vwaitltu (d : Fin 32) (a : Fin 32) (b : Fin 32) (p : Fin 8) (s : Fin 4)
  /-- R260. Parks until every location is signed-greater or equal to its comparand. -/
  | vwaitge (d : Fin 32) (a : Fin 32) (b : Fin 32) (p : Fin 8) (s : Fin 4)
  /-- R260. Parks until every location is unsigned-greater or equal to its comparand. -/
  | vwaitgeu (d : Fin 32) (a : Fin 32) (b : Fin 32) (p : Fin 8) (s : Fin 4)
  /-- R261. A parked VWAIT completes once every element is satisfied, and acquires. -/
  | vwaitComplete (h : Nat)
  /-- R237. Claims and configures the matrix unit, or releases the claim with a zero word. -/
  | mmode (a : Fin 32)
  /-- R237. A waiting MMODE obtains the matrix claim when it is released. -/
  | matrixClaimGrant (h : Nat)
  /-- R245. Zeroes a tile, its partial sums and block position. -/
  | mzero (t : Fin 2)
  /-- R250. Writes a whole tile to a save area. -/
  | msave (t : Fin 2) (a : Fin 32)
  /-- R250. Restores a whole tile from a save area. -/
  | mrstr (t : Fin 2) (a : Fin 32)
  /-- R243. Accumulates count outer products into a tile. -/
  | mopa (t : Fin 2) (k : Bool) (a : Fin 32) (j : Bool) (b : Fin 32) (r : Fin 16) (l : Bool)
  /-- R243. Subtracts count outer products from a tile. -/
  | mops (t : Fin 2) (k : Bool) (a : Fin 32) (j : Bool) (b : Fin 32) (r : Fin 16) (l : Bool)
  /-- R248. Reads a tile row into Vd. -/
  | mdrain (e : Bool) (d : Fin 32) (t : Fin 2) (b : Fin 32)
  /-- R248. Reads a tile row into Vd and clears the cells read. -/
  | mdrainc (e : Bool) (d : Fin 32) (t : Fin 2) (b : Fin 32)
  /-- R249. Writes a tile row from Va. -/
  | mfill (t : Fin 2) (a : Fin 32) (b : Fin 32)
  /-- R246. Sets a port's base and resets its dimensions and position. -/
  | pcfgBase (p : Fin 8) (a : Fin 32)
  /-- R246. Sets one dimension's count and stride of a port. -/
  | pcfgDim (p : Fin 8) (a : Fin 32) (b : Fin 32)
  /-- R246. Returns a port to its reset state. -/
  | pclr (p : Fin 8)
  /-- R222. Loads and verifies a ciphertext image into Cd. -/
  | cload (d : Fin 16) (x : Fin 32)
  /-- R223. Writes Ca's MACed image to memory. -/
  | cstore (a : Fin 16) (x : Fin 32)
  /-- R216. Adds two ciphertexts. -/
  | cadd (d : Fin 16) (a : Fin 16) (b : Fin 16)
  /-- R216. Subtracts two ciphertexts. -/
  | csub (d : Fin 16) (a : Fin 16) (b : Fin 16)
  /-- R216. Negates a ciphertext. -/
  | cneg (d : Fin 16) (a : Fin 16)
  /-- R216. Multiplies a ciphertext by a plaintext weight. -/
  | cmulp (d : Fin 16) (a : Fin 16) (x : Fin 32)
  /-- R216. Adds a plaintext to a ciphertext. -/
  | caddp (d : Fin 16) (a : Fin 16) (x : Fin 32)
  /-- R216. Adds a weighted ciphertext into Cd. -/
  | cmacc (d : Fin 16) (a : Fin 16) (x : Fin 32)
  /-- R217. Drops the last prime of a ciphertext. -/
  | cmodsw (d : Fin 16) (a : Fin 16)
  /-- R218. Switches a ciphertext from the truncated key to s. -/
  | ckeysw (d : Fin 16) (a : Fin 16)
  /-- R219. Replies the noise budget of Ca. -/
  | cbudget (a : Fin 16) (x : Fin 32)
  /-- R220. Replies bits [63:0] of Ca's header. -/
  | chdrLo (a : Fin 16) (x : Fin 32)
  /-- R220. Replies bits [127:64] of Ca's header. -/
  | chdrHi (a : Fin 16) (x : Fin 32)
  /-- R221. Zeroes Cd's header and clears its recorded refresh failure. -/
  | cinv (d : Fin 16)
  /-- R216. Copies a ciphertext. -/
  | cmov (d : Fin 16) (a : Fin 16)
  /-- R224. Imports a client image verified under the import key. -/
  | cimport (d : Fin 16) (x : Fin 32)
  /-- R226. Enqueues a refresh of Ca through table Tt into Cd. -/
  | cref (d : Fin 16) (a : Fin 16) (t : Fin 4)
  /-- R227. Starts a pass for every open batch of the hart. -/
  | crgo
  /-- R228. Starts open batches and holds the vector queue until no refresh is pending. -/
  | crwait
  /-- R107. A forming pass stops accepting joins 2,048 cycles after its trigger or at element 0. -/
  | passFormingEnd (c : Nat) (n : Nat)
  /-- R108. A subscription reaches the Halyard engine and joins or opens a pass. -/
  | halyardSubscribe (c : Nat) (n : Nat)
  /-- R108. The engine issues the next key element once every subscriber has buffer room. -/
  | halyardElementIssue (d : Nat) (n : Nat)
  /-- R108. A key element reaches a core and every accumulator of the pass takes its step. -/
  | keyElementArrival (c : Nat) (n : Nat)
  /-- R109. After the last step the core extracts and key-switches each accumulator in enqueue order. -/
  | keyPassEnd (c : Nat) (n : Nat)
  /-- R231. Binds a key slot to a key set table entry. -/
  | kbind (k : Fin 4) (a : Fin 32)
  /-- R232. Unbinds a key slot. -/
  | kunbind (k : Fin 4)
  /-- R233. Builds a table register's test polynomial from function values. -/
  | tload (t : Fin 4) (a : Fin 32) (k : Fin 4)
  /-- R234. Makes a table register invalid. -/
  | tclr (t : Fin 4)
  /-- R235. Writes a modulus register and computes its constants. -/
  | qmset (j : Fin 4) (a : Fin 32)
  /-- R255. Loads a stream control block into a slot. -/
  | sopen (k : Fin 4) (a : Fin 32)
  /-- R255. Starts an open stream at its progress pointer. -/
  | srun (k : Fin 4)
  /-- R255. Holds the vector queue until a running stream is done. -/
  | swait (k : Fin 4)
  /-- R255. Writes a stream's block back to memory and empties the slot. -/
  | ssave (k : Fin 4) (a : Fin 32)
  /-- R251. A running stream completes one element and advances PROG. -/
  | streamElementComplete (h : Nat) (k : Fin 4)
  /-- R262. Copies bytes with the copy engine. -/
  | cpy (d : Fin 32) (a : Fin 32) (b : Fin 32)
  /-- R263. Copies a two-dimensional block of rows. -/
  | cpy2d (d : Fin 32) (a : Fin 32) (b : Fin 32)
  /-- R266. Copies bytes then decrements a signal counter. -/
  | puts (d : Fin 32) (a : Fin 32) (b : Fin 32)
  /-- R265. Copies bytes and deposits their count into a barrier. -/
  | cpyb (d : Fin 32) (a : Fin 32) (b : Fin 32)
  /-- R263. A background copy finishes landing its bytes. -/
  | copyComplete (h : Nat) (n : Nat)
  /-- R266. After the transfer is performed the engine decrements the signal word. -/
  | putsSignal (h : Nat) (n : Nat)
  /-- R265. A landed piece's byte count is subtracted from the barrier's BYTES. -/
  | cpybDeposit (h : Nat) (n : Nat)
  /-- R418. An engine transfer faults at offset f and reports with ENGINE set. -/
  | engineFault (h : Nat)
  /-- R268. Initialises a barrier object. -/
  | binit (a : Fin 32) (b : Fin 32)
  /-- R268. Releases and arrives at a barrier. -/
  | barv (a : Fin 32)
  /-- R268. Releases, arrives and drops one expected arrival. -/
  | bard (a : Fin 32)
  /-- R268. Adds an expected byte count to the barrier's BYTES. -/
  | bexp (a : Fin 32) (b : Fin 32)
  /-- R268. Parks until the barrier's PHASE differs from the operand. -/
  | bwait (a : Fin 32) (b : Fin 32)
  /-- R268. Replies the barrier's PHASE and PEND. -/
  | btest (d : Fin 32) (a : Fin 32)
  /-- R270. A parked BWAIT completes once PHASE differs, and acquires. -/
  | bwaitComplete (h : Nat)
  /-- R271. Binds a vector register to a fabric stream. -/
  | sbind (d : Fin 32) (a : Fin 32)
  /-- R271. Ends a stream binding. -/
  | sunbind (d : Fin 32)
  /-- R273. The stream engine fetches a strip ahead of a bound register's position. -/
  | streamRegisterFetch (h : Nat) (v : Fin 32)
  /-- R274. Allocates grotto units and replies their aperture address. -/
  | galloc (d : Fin 32) (a : Fin 32) (b : Fin 32)
  /-- R275. Frees the partition's grotto units in a range. -/
  | gfree (a : Fin 32) (b : Fin 32)
  /-- R276. Sets the die's voluntary clock ceiling. -/
  | reef (a : Fin 32)
  /-- R280. Asks a work pool for one grant. -/
  | wqry (a : Fin 32) (b : Fin 32)
  /-- R278. Pushes a launch record into a queue or a task record into a pool. -/
  | wpush (a : Fin 32) (b : Fin 32)
  /-- R281. Retires the hart after draining its work. -/
  | wdone
  /-- R282. Declares a strip farm and replies its handle. -/
  | farm (d : Fin 32) (a : Fin 32) (b : Fin 32)
  /-- R283. Takes the next strip of a farm. -/
  | fstrip (d : Fin 32) (a : Fin 32)
  /-- R280. The distributor writes a grant answer into the scratchpad and wakes the core's harts. -/
  | wqryAnswer (part : Nat) (pool : Fin 16)
  /-- R286. Opens an Echo region invocation and resolves true or surrogate execution. -/
  | apxb (r : Fin 8) (l : Fin 32768)
  /-- R286. Closes an open Echo invocation of the region. -/
  | apxe (r : Fin 8)
  /-- R287. Makes an Echo region INVALID and unbound. -/
  | apxinv (r : Fin 8)
  /-- R291. Writes the held context into a vector frame. -/
  | fsave (a : Fin 32)
  /-- R291. Verifies a vector frame and makes it the held context. -/
  | frstr (a : Fin 32)
  /-- R35. Lends a predicate and/or destination copy to the next instruction. -/
  | pfx (p : Fin 8) (d : Fin 32) (c : Bool)
  /-- R35. Lends a negated predicate and optional destination copy to the next instruction. -/
  | pfxn (p : Fin 8) (d : Fin 32) (c : Bool)
  /-- R31. A queued vector convoy starts once the convoy before it has drained. -/
  | vectorConvoyStart (h : Nat)
  /-- R38. A reply is written into its pending X register in program order. -/
  | replyWrite (h : Nat)
  /-- R381. The vector side finds a fault in a running convoy and stops the scalar side. -/
  | vectorSideFault (h : Nat) (cause : Fin 256) (tval : BitVec 64) (member : Fin 4)
  /-- R393. A hart with a pending request takes cause 0x20 at a convoy boundary after its refreshes complete. -/
  | preemption (h : Nat)
  /-- R394. The oldest queued clock group event is delivered as cause 0x21. -/
  | clockGroupEvent (h : Nat)
  /-- R433. The oldest queued link event is delivered as cause 0x22. -/
  | linkEvent (h : Nat)
  /-- R175. A parked hart whose wake latch is set resumes. -/
  | parkWake (h : Nat)
  /-- R175. A PARK that has lasted 65,536 ns sets the wake latch. -/
  | parkTimeout (h : Nat)
  /-- R323. A put with signal on a queue's POSTED field posts launch records. -/
  | postLaunchRecord (ep : Nat) (part : Nat) (q : Fin 16) (records : List (List (BitVec 8)))
  /-- R304. The scheduler takes the next posted record of a queue and checks it. -/
  | takeLaunchRecord (part : Nat) (q : Fin 16)
  /-- R304. The scheduler finds the head's DEPADDR counter at 0 and the head becomes ready. -/
  | dependenceSatisfied (part : Nat) (q : Fin 16)
  /-- R306. The scheduler stages a head's record and code into an empty shadow slot. -/
  | shadowSlotFill (c : Nat) (k : Fin 2) (part : Nat)
  /-- R305. The scheduler binds the highest-ranked unbound hart into a free hart slot. -/
  | bindHart (part : Nat)
  /-- R56. After its refreshes and convoys finish, the retiring hart releases its lane groups. -/
  | hartRetirement (h : Nat)
  /-- R444. A decrement with no answer within the remote timeout is sent again. -/
  | doneaddrResend (addr : Nat)
  /-- R309. At each microsecond of TIME a core's bucket is set to ISSUECAP. -/
  | tokenBucketRefill (c : Nat)
  /-- R310. Every 10 µs the partition governor recomputes ISSUECAP from power. -/
  | governorPeriod (part : Nat)
  /-- R303. A host or M write to a partition block changes its configuration. -/
  | partitionBlockWrite (ep : Nat) (part : Nat) (off : Nat) (data : List (BitVec 8))
  /-- R134. A load waiting 4 µs on a locked copy is sent to the home. -/
  | lockedLoadRedirect (h : Nat)
  /-- R423. A commit lacking its locks after 64 µs releases them and raises 0x12. -/
  | replicaLockTimeout (h : Nat)
  /-- R424. A remote access unanswered after 500 µs raises 0x11. -/
  | remoteTimeout (h : Nat)
  /-- R422. A link failing 8 retries, or whose module stops answering, goes down. -/
  | memoryLinkDown (m : Fin 24)
  /-- R398. A lane with an uncorrectable or repeated error is retired in LANEMAP. -/
  | laneRetirement (c : Nat) (lane : Fin 64)
  /-- R427. A silent or failed leaf switch is lost, losing or degrading units. -/
  | grottoSwitchLost (pod : Fin 4) (plane : Fin 64)
  /-- R427. A returned switch reads zero and degraded lines are copied back into it. -/
  | grottoSwitchReturn (pod : Fin 4) (plane : Fin 64)
  /-- R427. When copy-back ends the unit is mirrored again. -/
  | mirrorResyncComplete (pod : Fin 4) (plane : Fin 64)
  /-- R426. A freed unit is zeroed once every accepted access to it is performed. -/
  | grottoUnitZero (pod : Fin 4) (u : Nat)
  /-- R429. A receiver checks a flit's sequence and tag and accepts or discards it. -/
  | flitReceive (port : Fin 64) (flit : List (BitVec 8))
  /-- R429. A retry request makes the sender resend flits from the named SEQ. -/
  | flitRetryRequest (port : Fin 64) (seq : Nat)
  /-- R430. Sixteen tag failures in 1 ms take the port down and re-key it. -/
  | portRekey (port : Fin 64)
  /-- R321. A slot counter reaching 2^48 − 2^20 requests a new key for the other slot. -/
  | keySwitchoverRequest (port : Fin 64)
  /-- R320. The trust controllers install a key and salt into a link slot. -/
  | linkKeyInstall (port : Fin 64) (recv : Bool) (slot : Fin 2) (key : Nat) (salt : Nat)
  /-- R431. A counter reaching 2^48 − 2^16 takes the port down for re-keying. -/
  | keyCounterExhausted (port : Fin 64)
  /-- R432. A port comes back up and raises a link event. -/
  | portUp (port : Fin 64)
  /-- R322. A plane-0 beacon steers the endpoint's TIME. -/
  | timeBeacon (t : Nat)
  /-- R325. The monitor predicts a new own limit for the die. -/
  | ownLimitChange (d : Nat) (mhz : Nat)
  /-- R327. A member's notice of a lower ceiling arrives. -/
  | reefNotice (d : Nat) (m : Nat) (v : Nat) (t : Nat)
  /-- R327. At a notice's effective time the member's announced limit falls. -/
  | reefNoticeEffective (d : Nat)
  /-- R328. A member proposes raising the group's ceiling. -/
  | shakeoutProposal (d : Nat) (m : Nat)
  /-- R328. A member's agreement value reaches the proposer. -/
  | shakeoutAnswer (d : Nat) (m : Nat) (v : Nat)
  /-- R328. The proposer's commit arrives with an effective time. -/
  | shakeoutCommit (d : Nat) (t : Nat) (values : List (Nat × Nat))
  /-- R328. At the commit's time every announced limit is set to its agreement value. -/
  | shakeoutCommitEffective (d : Nat)
  /-- R329. A member sends a heartbeat at least every 20 µs. -/
  | heartbeatSend (d : Nat)
  /-- R329. A member's heartbeat arrives and ends its silence. -/
  | heartbeat (d : Nat) (m : Nat) (limit : Nat)
  /-- R330. A joining die's request reaches the group. -/
  | joinRequest (d : Nat) (m : Nat) (limit : Nat)
  /-- R330. The joiner receives the group's ceiling and limits. -/
  | joinAnswer (d c : Nat) (members : List (Nat × Nat)) (notices : List (Nat × Nat × Nat))
      (shake : Option (Nat × List (Nat × Nat) × Option Nat))
  /-- R330. With no answer in 200 µs the die founds the group alone. -/
  | joinTimeout (d : Nat)
  /-- R331. A leaver's message drops it from the minimum. -/
  | leaveMessage (d : Nat) (m : Nat)
  /-- R332. After 200 µs without messages a member's announced limit drops to 800. -/
  | memberSilence (d : Nat) (m : Nat)
  /-- R332. After 1 ms of silence the member is evicted and a shake-out proposed. -/
  | memberEviction (d : Nat) (m : Nat)
  /-- R339. Answers a signed attestation report. -/
  | attest (slot : Fin 16)
  /-- R341. Opens a confidential context under a policy. -/
  | ctxopen (slot : Fin 16)
  /-- R341. Delivers a wrapped key share and derives keys when both are present. -/
  | ctxshare (slot : Fin 16)
  /-- R343. Stops binding harts of the context's worlds. -/
  | ctxend (slot : Fin 16)
  /-- R343. Once none of its harts is bound, the context's keys are erased and worlds unbound. -/
  | contextErase (ctx : Nat)
  /-- R342. Binds a world id to a context with its constant-time flag. -/
  | wbind (slot : Fin 16)
  /-- R348. Builds a signed migration package and erases the source's keys. -/
  | ctxexport (slot : Fin 16)
  /-- R348. Verifies a migration package and installs the context. -/
  | ctxaccept (slot : Fin 16)
  /-- R439. The destination's confirmation reaches the source, which marks the context moved. -/
  | migrationConfirmation (ctx : Nat) (signature : List (BitVec 8))
  /-- R439. The destination resends the confirmation every 100 µs until acknowledged. -/
  | confirmationResend (ctx : Nat)
  /-- R340. Copies a firmware image into the inactive bank and verifies it. -/
  | fwstage (slot : Fin 16)
  /-- R340. Starts the live activation of a staged firmware image. -/
  | fwact (slot : Fin 16)
  /-- R340. The activation raises the counter and updates the measurement set. -/
  | fwActivationComplete (success : Bool)
  /-- R349. After reset the device comes up through the ordered bring-up steps. -/
  | deviceReset
  /-- R331. A solitary die applies a lower own limit at the time its monitor or REEF names, at least 50 µs after the prediction. -/
  | solitaryLimitEffective (d : Nat)
  /-- R125. The copy engine migrates a page: it keeps the source authoritative, re-copies lines written during the copy, and performs no flip if the copy faults. -/
  | pageMigration (h : Nat) (va : Nat) (dest : Nat) (stores : List (Nat × BitVec 8))
  /-- R122. A load, store, atomic, put or signal from a host or another accelerator reaches this device's main memory, key store or scratchpad and is performed or refused there. `kind`: 0 a load, 1 a store of a hart or host, 2 a put of an engine, 3 a signal (`data` its 8-byte decrement), 4 to 13 an atomic of R166: SWAP, ADD, AND, OR, XOR, MIN, MAX, MINU, MAXU, CAS (`data` the operand; for CAS the expected value, then the new one), 14 a GALLOC and 15 a GFREE that another accelerator makes (`data` 4 bytes of units, and for a GALLOC a byte with MIRROR at bit 0 and OPENAT at bit 1). `ep` is its endpoint and the PARTID of its hart; `off` is an offset here below 2^44, and else a global address, to which 2^56 may be added. -/
  | remoteEndpointAccess (ep : Nat × Fin 96) (kind : Fin 16) (off : Nat) (data : List (BitVec 8))
  deriving DecidableEq, Repr

end Sys2Proof
end

