-- ==== Sys2Proof/WellFormed.lean ====
section
/-!
DEFINITION. Which instruction terms have a word (06_encoding.md R141, R145 to R153): the limits a field's
own width does not express. Rows without an encoding carry the ranges of the units they name.
-/
namespace Sys2Proof


/-- A scope field of AMO and FENCE: HART 0 to SYSTEM 6; 7 is reserved (R146). -/
def scopeOk (s : Fin 8) : Bool := s.val ≤ 6

/-- The group of n consecutive X registers from Xd lies within X0 to X31 (R141). -/
def groupOk (d : Fin 32) (n : Nat) : Bool := d.val + n ≤ 32

/-- VTYPE.W of a SETVL image is not a reserved width (R147). -/
def vtypeOk (v : Fin 4096) : Bool := v.val / 4 % 32 ≤ 16

/-- A MOPA operand: a port number uses the low three bits of its field (R150). -/
def mopaOperandOk (isPort : Bool) (r : Fin 32) : Bool := !isPort || r.val < 8

/-- HARTIDs run from 0 to 383, COREIDs from 0 to 95, dies from 0 to 3, partitions from 0 to 95 (R12, R301). -/
def hartOk (h : Nat) : Bool := h < 384
/-- A core number of the device (R12). -/
def coreOk (c : Nat) : Bool := c < 96
/-- A die number of the package (R10). -/
def dieOk (d : Nat) : Bool := d < 4
/-- A partition number (R301). -/
def partOk (p : Nat) : Bool := p < 96

/-- The word-level conditions of R141 and R153, and for the rows without a word the ranges of R12 and R301. -/
def Instr.wellFormed : Instr → Bool
  | .add _ _ _ => true
  | .sub _ _ _ => true
  | .and _ _ _ => true
  | .or _ _ _ => true
  | .xor _ _ _ => true
  | .sll _ _ _ => true
  | .srl _ _ _ => true
  | .sra _ _ _ => true
  | .slt _ _ _ => true
  | .sltu _ _ _ => true
  | .min _ _ _ => true
  | .max _ _ _ => true
  | .minu _ _ _ => true
  | .maxu _ _ _ => true
  | .mul _ _ _ => true
  | .mulh _ _ _ => true
  | .mulhu _ _ _ => true
  | .div _ _ _ => true
  | .divu _ _ _ => true
  | .rem _ _ _ => true
  | .remu _ _ _ => true
  | .clz _ _ => true
  | .popc _ _ => true
  | .ctz _ _ => true
  | .addi _ _ _ => true
  | .andi _ _ _ => true
  | .ori _ _ _ => true
  | .xori _ _ _ => true
  | .slti _ _ _ => true
  | .sltiu _ _ _ => true
  | .slli _ _ _ => true
  | .srli _ _ _ => true
  | .srai _ _ _ => true
  | .lui _ _ => true
  | .auipc _ _ => true
  | .ldb _ _ _ => true
  | .ldh _ _ _ => true
  | .ldw _ _ _ => true
  | .ldd _ _ _ => true
  | .ldbu _ _ _ => true
  | .ldhu _ _ _ => true
  | .ldwu _ _ _ => true
  | .stb _ _ _ => true
  | .sth _ _ _ => true
  | .stw _ _ _ => true
  | .std _ _ _ => true
  | .beq _ _ _ => true
  | .bne _ _ _ => true
  | .blt _ _ _ => true
  | .bge _ _ _ => true
  | .bltu _ _ _ => true
  | .bgeu _ _ _ => true
  | .jal _ _ => true
  | .jalr _ _ _ => true
  | .amoswap _ _ _ _ _ _ s => scopeOk s
  | .amoadd _ _ _ _ _ _ s => scopeOk s
  | .amoand _ _ _ _ _ _ s => scopeOk s
  | .amoor _ _ _ _ _ _ s => scopeOk s
  | .amoxor _ _ _ _ _ _ s => scopeOk s
  | .amomin _ _ _ _ _ _ s => scopeOk s
  | .amomax _ _ _ _ _ _ s => scopeOk s
  | .amominu _ _ _ _ _ _ s => scopeOk s
  | .amomaxu _ _ _ _ _ _ s => scopeOk s
  | .amocas _ _ _ _ _ _ s => scopeOk s
  | .loop _ _ i => i.val != 0
  | .ecall => true
  | .ebreak => true
  | .tret => true
  | .park => true
  | .wsw _ => true
  | .mvlc _ _ => true
  | .fenceSv s => scopeOk s
  | .fenceVs s => scopeOk s
  | .fenceVv s => scopeOk s
  | .fenceAll s => scopeOk s
  | .csrr _ _ => true
  | .csrw _ _ _ => true
  | .csrs _ _ _ => true
  | .csrc _ _ _ => true
  | .tlbinvAll _ => true
  | .tlbinvPage _ => true
  | .preqWrite _ => true
  | .victqWrite _ => true
  | .ggroupWrite _ => true
  | .setvl _ _ v => vtypeOk v
  | .laneGroupGrant h => hartOk h
  | .laneGroupScrubbed c _ => coreOk c
  | .vbany _ _ => true
  | .vbnone _ _ => true
  | .vbranchResolve h => hartOk h
  | .vadd _ _ _ _ _ _ => true
  | .vsub _ _ _ _ _ _ => true
  | .vrsub _ _ _ _ _ _ => true
  | .vmul _ _ _ _ _ _ => true
  | .vmulh _ _ _ _ _ _ => true
  | .vmulhu _ _ _ _ _ _ => true
  | .vand _ _ _ _ _ _ => true
  | .vor _ _ _ _ _ _ => true
  | .vxor _ _ _ _ _ _ => true
  | .vsll _ _ _ _ _ _ => true
  | .vsrl _ _ _ _ _ _ => true
  | .vsra _ _ _ _ _ _ => true
  | .vmin _ _ _ _ _ _ => true
  | .vmax _ _ _ _ _ _ => true
  | .vminu _ _ _ _ _ _ => true
  | .vmaxu _ _ _ _ _ _ => true
  | .vsadd _ _ _ _ _ _ => true
  | .vssub _ _ _ _ _ _ => true
  | .vsaddu _ _ _ _ _ _ => true
  | .vssubu _ _ _ _ _ _ => true
  | .vmerge _ _ _ _ _ _ => true
  | .vmv _ _ _ _ _ => true
  | .vid _ _ _ => true
  | .vcmpeq _ _ _ _ _ _ => true
  | .vcmpne _ _ _ _ _ _ => true
  | .vcmplt _ _ _ _ _ _ => true
  | .vcmpltu _ _ _ _ _ _ => true
  | .vcmple _ _ _ _ _ _ => true
  | .vcmpleu _ _ _ _ _ _ => true
  | .vfadd _ _ _ _ _ _ => true
  | .vfsub _ _ _ _ _ _ => true
  | .vfmul _ _ _ _ _ _ => true
  | .vfma _ _ _ _ _ _ => true
  | .vfmin _ _ _ _ _ _ => true
  | .vfmax _ _ _ _ _ _ => true
  | .vfcmpeq _ _ _ _ _ _ => true
  | .vfcmplt _ _ _ _ _ _ => true
  | .vfcmple _ _ _ _ _ _ => true
  | .vfcvtif _ _ _ _ => true
  | .vfcvtfi _ _ _ _ => true
  | .vslideup _ _ _ _ _ => true
  | .vslidedn _ _ _ _ _ => true
  | .vshuf _ _ _ _ _ => true
  | .vcompress _ _ _ _ _ => true
  | .vexpand _ _ _ _ _ => true
  | .vredsum _ _ _ _ _ => true
  | .vredmax _ _ _ _ _ => true
  | .vredmin _ _ _ _ _ => true
  | .vredand _ _ _ _ _ => true
  | .vredor _ _ _ _ _ => true
  | .vmfirst _ _ _ _ => true
  | .vmpopc _ _ _ _ => true
  | .vmand _ _ _ _ _ => true
  | .vmor _ _ _ _ _ => true
  | .vmxor _ _ _ _ _ => true
  | .vmnot _ _ _ _ => true
  | .vmvxs _ _ _ _ => true
  | .vsplat _ _ _ _ => true
  | .vnarrow _ _ _ _ _ => true
  | .vwiden _ _ _ _ _ => true
  | .vscale _ _ _ _ => true
  | .vmadd _ _ _ _ _ _ => true
  | .vmsub _ _ _ _ _ _ => true
  | .vmmul _ _ _ _ _ _ => true
  | .vmmac _ _ _ _ _ _ => true
  | .vmneg _ _ _ _ _ => true
  | .vmred _ _ _ _ _ => true
  | .vbfly _ _ _ _ _ _ => true
  | .vibfly _ _ _ _ _ _ => true
  | .vnegrot _ _ _ _ _ _ => true
  | .vauto _ _ _ _ _ _ => true
  | .vdecomp _ _ _ _ _ _ => true
  | .vmswitch _ _ _ _ _ _ => true
  | .vld _ _ _ _ _ => true
  | .vlds _ _ _ _ _ _ => true
  | .vldx _ _ _ _ _ _ => true
  | .vldff _ _ _ _ _ => true
  | .vldb _ _ _ _ _ _ => true
  | .vst _ _ _ _ _ => true
  | .vsts _ _ _ _ _ _ => true
  | .vstx _ _ _ _ _ _ => true
  | .vstb _ _ _ _ _ _ => true
  | .vspill _ _ => true
  | .vfill _ _ => true
  | .vamoadd _ _ _ _ _ _ _ => true
  | .vamoand _ _ _ _ _ _ _ => true
  | .vamoor _ _ _ _ _ _ _ => true
  | .vamoxor _ _ _ _ _ _ _ => true
  | .vamomin _ _ _ _ _ _ _ => true
  | .vamomax _ _ _ _ _ _ _ => true
  | .vamominu _ _ _ _ _ _ _ => true
  | .vamoswap _ _ _ _ _ _ _ => true
  | .vamooadd _ _ _ _ _ _ _ => true
  | .vamooand _ _ _ _ _ _ _ => true
  | .vamooor _ _ _ _ _ _ _ => true
  | .vamooxor _ _ _ _ _ _ _ => true
  | .vamoomin _ _ _ _ _ _ _ => true
  | .vamoomax _ _ _ _ _ _ _ => true
  | .vamoominu _ _ _ _ _ _ _ => true
  | .vamooswap _ _ _ _ _ _ _ => true
  | .vwaiteq _ _ _ _ _ => true
  | .vwaitne _ _ _ _ _ => true
  | .vwaitlt _ _ _ _ _ => true
  | .vwaitltu _ _ _ _ _ => true
  | .vwaitge _ _ _ _ _ => true
  | .vwaitgeu _ _ _ _ _ => true
  | .vwaitComplete h => hartOk h
  | .mmode _ => true
  | .matrixClaimGrant h => hartOk h
  | .mzero _ => true
  | .msave _ _ => true
  | .mrstr _ _ => true
  | .mopa _ k a j b _ _ => mopaOperandOk k a && mopaOperandOk j b
  | .mops _ k a j b _ _ => mopaOperandOk k a && mopaOperandOk j b
  | .mdrain _ _ _ _ => true
  | .mdrainc _ _ _ _ => true
  | .mfill _ _ _ => true
  | .pcfgBase _ _ => true
  | .pcfgDim _ _ _ => true
  | .pclr _ => true
  | .cload _ _ => true
  | .cstore _ _ => true
  | .cadd _ _ _ => true
  | .csub _ _ _ => true
  | .cneg _ _ => true
  | .cmulp _ _ _ => true
  | .caddp _ _ _ => true
  | .cmacc _ _ _ => true
  | .cmodsw _ _ => true
  | .ckeysw _ _ => true
  | .cbudget _ _ => true
  | .chdrLo _ _ => true
  | .chdrHi _ _ => true
  | .cinv _ => true
  | .cmov _ _ => true
  | .cimport _ _ => true
  | .cref _ _ _ => true
  | .crgo => true
  | .crwait => true
  | .passFormingEnd c _ => coreOk c
  | .halyardSubscribe c _ => coreOk c
  | .halyardElementIssue d _ => dieOk d
  | .keyElementArrival c _ => coreOk c
  | .keyPassEnd c _ => coreOk c
  | .kbind _ _ => true
  | .kunbind _ => true
  | .tload _ _ _ => true
  | .tclr _ => true
  | .qmset _ _ => true
  | .sopen _ _ => true
  | .srun _ => true
  | .swait _ => true
  | .ssave _ _ => true
  | .streamElementComplete h _ => hartOk h
  | .cpy _ _ _ => true
  | .cpy2d d _ _ => groupOk d 3
  | .puts d _ _ => groupOk d 3
  | .cpyb d _ _ => groupOk d 2
  | .copyComplete h _ => hartOk h
  | .putsSignal h _ => hartOk h
  | .cpybDeposit h _ => hartOk h
  | .engineFault h => hartOk h
  | .binit _ _ => true
  | .barv _ => true
  | .bard _ => true
  | .bexp _ _ => true
  | .bwait _ _ => true
  | .btest _ _ => true
  | .bwaitComplete h => hartOk h
  | .sbind _ _ => true
  | .sunbind _ => true
  | .streamRegisterFetch h _ => hartOk h
  | .galloc _ _ _ => true
  | .gfree _ _ => true
  | .reef _ => true
  | .wqry _ _ => true
  | .wpush _ _ => true
  | .wdone => true
  | .farm _ _ _ => true
  | .fstrip d _ => groupOk d 2 && d.val != 0
  | .wqryAnswer part _ => partOk part
  | .apxb _ l => l.val != 0
  | .apxe _ => true
  | .apxinv _ => true
  | .fsave _ => true
  | .frstr _ => true
  | .pfx _ d c => c || d == 0
  | .pfxn _ d c => c || d == 0
  | .vectorConvoyStart h => hartOk h
  | .replyWrite h => hartOk h
  | .vectorSideFault h _ _ _ => hartOk h
  | .preemption h => hartOk h
  | .clockGroupEvent h => hartOk h
  | .linkEvent h => hartOk h
  | .parkWake h => hartOk h
  | .parkTimeout h => hartOk h
  | .postLaunchRecord _ part _ _ => partOk part
  | .takeLaunchRecord part _ => partOk part
  | .dependenceSatisfied part _ => partOk part
  | .shadowSlotFill c _ part => coreOk c && partOk part
  | .bindHart part => partOk part
  | .hartRetirement h => hartOk h
  | .doneaddrResend _ => true
  | .tokenBucketRefill c => coreOk c
  | .governorPeriod part => partOk part
  | .partitionBlockWrite _ part _ _ => partOk part
  | .lockedLoadRedirect h => hartOk h
  | .replicaLockTimeout h => hartOk h
  | .remoteTimeout h => hartOk h
  | .memoryLinkDown _ => true
  | .laneRetirement c _ => coreOk c
  | .grottoSwitchLost _ _ => true
  | .grottoSwitchReturn _ _ => true
  | .mirrorResyncComplete _ _ => true
  | .grottoUnitZero _ _ => true
  | .flitReceive _ _ => true
  | .flitRetryRequest _ _ => true
  | .portRekey _ => true
  | .keySwitchoverRequest _ => true
  | .linkKeyInstall _ _ _ _ _ => true
  | .keyCounterExhausted _ => true
  | .portUp _ => true
  | .timeBeacon _ => true
  | .ownLimitChange d _ => dieOk d
  | .reefNotice d _ _ _ => dieOk d
  | .reefNoticeEffective d => dieOk d
  | .shakeoutProposal d _ => dieOk d
  | .shakeoutAnswer d _ _ => dieOk d
  | .shakeoutCommit d _ _ => dieOk d
  | .shakeoutCommitEffective d => dieOk d
  | .heartbeatSend d => dieOk d
  | .heartbeat d _ _ => dieOk d
  | .joinRequest d _ _ => dieOk d
  | .joinAnswer d _ _ _ _ => dieOk d
  | .joinTimeout d => dieOk d
  | .leaveMessage d _ => dieOk d
  | .memberSilence d _ => dieOk d
  | .memberEviction d _ => dieOk d
  | .attest _ => true
  | .ctxopen _ => true
  | .ctxshare _ => true
  | .ctxend _ => true
  | .contextErase _ => true
  | .wbind _ => true
  | .ctxexport _ => true
  | .ctxaccept _ => true
  | .migrationConfirmation _ _ => true
  | .confirmationResend _ => true
  | .fwstage _ => true
  | .fwact _ => true
  | .fwActivationComplete _ => true
  | .deviceReset => true
  | .solitaryLimitEffective d => dieOk d
  | .pageMigration h _ _ _ => hartOk h
  | .remoteEndpointAccess _ _ _ _ => true

end Sys2Proof
end

