-- ==== Sys2Proof/Decode.lean ====
section
/-!
DEFINITION. Decoding and encoding of instruction words (06_encoding.md R137 to R153, 02_execution.md R34).
The decoder is total on words and on bytes and says by name why it refuses. The encoder is written from the
match value and the field places of spec/opcode_table.json, which follow R139 to R152.

The section is noncomputable for a reason of Lean's compiled code only: it cannot build a constructor with
fields past the 245th of one inductive. Lean's kernel evaluates every definition here.
-/
noncomputable section

namespace Sys2Proof


/-- Why a word is a non-instruction (R153), or why bytes hold none. -/
inductive DecodeError where
  /-- Fewer than four bytes are left. -/
  | truncated
  /-- Major 0x00, 0x19 to 0x1F, 0x2E, 0x2F or 0x3E. -/
  | reservedMajor
  /-- A function code or subfield selector that no form of the major lists. -/
  | reservedFunction
  /-- A field that R141 requires to be zero is not, or a register field names no register. -/
  | fieldNotZero
  /-- The word's fields break `Instr.wellFormed` (a group past X31, scope 7, W 17 to 31, a zero length). -/
  | illFormed
  /-- A PFX word with E = 1. -/
  | prefixEndsConvoy
  /-- A scalar or solo instruction with E = 0: an instruction, but never part of a legal convoy (R29). -/
  | endBitClear
  deriving DecidableEq, Repr



/-- The 1-bit field of w whose lowest bit is bit lo. -/
def fld1 (w lo : Nat) : Fin 2 := ⟨w / 2 ^ lo % 2, Nat.mod_lt _ (by decide)⟩

/-- The 2-bit field of w whose lowest bit is bit lo. -/
def fld2 (w lo : Nat) : Fin 4 := ⟨w / 2 ^ lo % 4, Nat.mod_lt _ (by decide)⟩

/-- The 3-bit field of w whose lowest bit is bit lo. -/
def fld3 (w lo : Nat) : Fin 8 := ⟨w / 2 ^ lo % 8, Nat.mod_lt _ (by decide)⟩

/-- The 4-bit field of w whose lowest bit is bit lo. -/
def fld4 (w lo : Nat) : Fin 16 := ⟨w / 2 ^ lo % 16, Nat.mod_lt _ (by decide)⟩

/-- The 5-bit field of w whose lowest bit is bit lo. -/
def fld5 (w lo : Nat) : Fin 32 := ⟨w / 2 ^ lo % 32, Nat.mod_lt _ (by decide)⟩

/-- The 6-bit field of w whose lowest bit is bit lo. -/
def fld6 (w lo : Nat) : Fin 64 := ⟨w / 2 ^ lo % 64, Nat.mod_lt _ (by decide)⟩

/-- The 12-bit field of w whose lowest bit is bit lo. -/
def fld12 (w lo : Nat) : Fin 4096 := ⟨w / 2 ^ lo % 4096, Nat.mod_lt _ (by decide)⟩

/-- The 15-bit field of w whose lowest bit is bit lo. -/
def fld15 (w lo : Nat) : Fin 32768 := ⟨w / 2 ^ lo % 32768, Nat.mod_lt _ (by decide)⟩

/-- The 20-bit field of w whose lowest bit is bit lo. -/
def fld20 (w lo : Nat) : Fin 1048576 := ⟨w / 2 ^ lo % 1048576, Nat.mod_lt _ (by decide)⟩

/-- Bit lo of w. -/
def flag (w lo : Nat) : Bool := w / 2 ^ lo % 2 == 1

/-- The value of a flag in a word. -/
def bit (b : Bool) : Nat := if b then 1 else 0

/-- Goes on when the n-bit field at lo holds v, the value R139 to R152 require of it. -/
def need (w lo n v : Nat) (k : Except DecodeError Instr) : Except DecodeError Instr :=
  if w / 2 ^ lo % 2 ^ n = v then k else .error .fieldNotZero

/-- Major 0x01 (R158 and its neighbours; 06_encoding.md R143 to R153). -/
def decAlu (w : Nat) : Except DecodeError Instr :=
  match w % 1024 with
  | 0 => pure (.add (fld5 w 20) (fld5 w 15) (fld5 w 10))
  | 1 => pure (.sub (fld5 w 20) (fld5 w 15) (fld5 w 10))
  | 2 => pure (.and (fld5 w 20) (fld5 w 15) (fld5 w 10))
  | 3 => pure (.or (fld5 w 20) (fld5 w 15) (fld5 w 10))
  | 4 => pure (.xor (fld5 w 20) (fld5 w 15) (fld5 w 10))
  | 5 => pure (.sll (fld5 w 20) (fld5 w 15) (fld5 w 10))
  | 6 => pure (.srl (fld5 w 20) (fld5 w 15) (fld5 w 10))
  | 7 => pure (.sra (fld5 w 20) (fld5 w 15) (fld5 w 10))
  | 8 => pure (.slt (fld5 w 20) (fld5 w 15) (fld5 w 10))
  | 9 => pure (.sltu (fld5 w 20) (fld5 w 15) (fld5 w 10))
  | 10 => pure (.min (fld5 w 20) (fld5 w 15) (fld5 w 10))
  | 11 => pure (.max (fld5 w 20) (fld5 w 15) (fld5 w 10))
  | 12 => pure (.minu (fld5 w 20) (fld5 w 15) (fld5 w 10))
  | 13 => pure (.maxu (fld5 w 20) (fld5 w 15) (fld5 w 10))
  | 16 => pure (.mul (fld5 w 20) (fld5 w 15) (fld5 w 10))
  | 17 => pure (.mulh (fld5 w 20) (fld5 w 15) (fld5 w 10))
  | 18 => pure (.mulhu (fld5 w 20) (fld5 w 15) (fld5 w 10))
  | 20 => pure (.div (fld5 w 20) (fld5 w 15) (fld5 w 10))
  | 21 => pure (.divu (fld5 w 20) (fld5 w 15) (fld5 w 10))
  | 22 => pure (.rem (fld5 w 20) (fld5 w 15) (fld5 w 10))
  | 23 => pure (.remu (fld5 w 20) (fld5 w 15) (fld5 w 10))
  | 32 => need w 10 5 0 (pure (.clz (fld5 w 20) (fld5 w 15)))
  | 33 => need w 10 5 0 (pure (.popc (fld5 w 20) (fld5 w 15)))
  | 34 => need w 10 5 0 (pure (.ctz (fld5 w 20) (fld5 w 15)))
  | _ => .error .reservedFunction

/-- Major 0x02 (R159 and its neighbours; 06_encoding.md R143 to R153). -/
def decAddi (w : Nat) : Except DecodeError Instr :=
  pure (.addi (fld5 w 20) (fld5 w 15) (fld15 w 0))

/-- Major 0x03 (R159 and its neighbours; 06_encoding.md R143 to R153). -/
def decAndi (w : Nat) : Except DecodeError Instr :=
  pure (.andi (fld5 w 20) (fld5 w 15) (fld15 w 0))

/-- Major 0x04 (R159 and its neighbours; 06_encoding.md R143 to R153). -/
def decOri (w : Nat) : Except DecodeError Instr :=
  pure (.ori (fld5 w 20) (fld5 w 15) (fld15 w 0))

/-- Major 0x05 (R159 and its neighbours; 06_encoding.md R143 to R153). -/
def decXori (w : Nat) : Except DecodeError Instr :=
  pure (.xori (fld5 w 20) (fld5 w 15) (fld15 w 0))

/-- Major 0x06 (R159 and its neighbours; 06_encoding.md R143 to R153). -/
def decSlti (w : Nat) : Except DecodeError Instr :=
  pure (.slti (fld5 w 20) (fld5 w 15) (fld15 w 0))

/-- Major 0x07 (R159 and its neighbours; 06_encoding.md R143 to R153). -/
def decSltiu (w : Nat) : Except DecodeError Instr :=
  pure (.sltiu (fld5 w 20) (fld5 w 15) (fld15 w 0))

/-- Major 0x08 (R159 and its neighbours; 06_encoding.md R143 to R153). -/
def decShi (w : Nat) : Except DecodeError Instr :=
  match w / 8192 % 4 with
  | 0 => need w 6 7 0 (pure (.slli (fld5 w 20) (fld5 w 15) (fld6 w 0)))
  | 1 => need w 6 7 0 (pure (.srli (fld5 w 20) (fld5 w 15) (fld6 w 0)))
  | 2 => need w 6 7 0 (pure (.srai (fld5 w 20) (fld5 w 15) (fld6 w 0)))
  | _ => .error .reservedFunction

/-- Major 0x09 (R160 and its neighbours; 06_encoding.md R143 to R153). -/
def decLui (w : Nat) : Except DecodeError Instr :=
  pure (.lui (fld5 w 20) (fld20 w 0))

/-- Major 0x0A (R160 and its neighbours; 06_encoding.md R143 to R153). -/
def decAuipc (w : Nat) : Except DecodeError Instr :=
  pure (.auipc (fld5 w 20) (fld20 w 0))

/-- Major 0x0B (R161 and its neighbours; 06_encoding.md R143 to R153). -/
def decLd (w : Nat) : Except DecodeError Instr :=
  match w / 4096 % 8 with
  | 0 => pure (.ldb (fld5 w 20) (fld5 w 15) (fld12 w 0))
  | 1 => pure (.ldh (fld5 w 20) (fld5 w 15) (fld12 w 0))
  | 2 => pure (.ldw (fld5 w 20) (fld5 w 15) (fld12 w 0))
  | 3 => pure (.ldd (fld5 w 20) (fld5 w 15) (fld12 w 0))
  | 4 => pure (.ldbu (fld5 w 20) (fld5 w 15) (fld12 w 0))
  | 5 => pure (.ldhu (fld5 w 20) (fld5 w 15) (fld12 w 0))
  | 6 => pure (.ldwu (fld5 w 20) (fld5 w 15) (fld12 w 0))
  | _ => .error .reservedFunction

/-- Major 0x0C (R162 and its neighbours; 06_encoding.md R143 to R153). -/
def decSt (w : Nat) : Except DecodeError Instr :=
  match w / 4096 % 8 with
  | 0 => pure (.stb (fld5 w 20) (fld5 w 15) (fld12 w 0))
  | 1 => pure (.sth (fld5 w 20) (fld5 w 15) (fld12 w 0))
  | 2 => pure (.stw (fld5 w 20) (fld5 w 15) (fld12 w 0))
  | 3 => pure (.std (fld5 w 20) (fld5 w 15) (fld12 w 0))
  | _ => .error .reservedFunction

/-- Major 0x0D (R164 and its neighbours; 06_encoding.md R143 to R153). -/
def decBeq (w : Nat) : Except DecodeError Instr :=
  pure (.beq (fld5 w 20) (fld5 w 15) (fld15 w 0))

/-- Major 0x0E (R164 and its neighbours; 06_encoding.md R143 to R153). -/
def decBne (w : Nat) : Except DecodeError Instr :=
  pure (.bne (fld5 w 20) (fld5 w 15) (fld15 w 0))

/-- Major 0x0F (R164 and its neighbours; 06_encoding.md R143 to R153). -/
def decBlt (w : Nat) : Except DecodeError Instr :=
  pure (.blt (fld5 w 20) (fld5 w 15) (fld15 w 0))

/-- Major 0x10 (R164 and its neighbours; 06_encoding.md R143 to R153). -/
def decBge (w : Nat) : Except DecodeError Instr :=
  pure (.bge (fld5 w 20) (fld5 w 15) (fld15 w 0))

/-- Major 0x11 (R164 and its neighbours; 06_encoding.md R143 to R153). -/
def decBltu (w : Nat) : Except DecodeError Instr :=
  pure (.bltu (fld5 w 20) (fld5 w 15) (fld15 w 0))

/-- Major 0x12 (R164 and its neighbours; 06_encoding.md R143 to R153). -/
def decBgeu (w : Nat) : Except DecodeError Instr :=
  pure (.bgeu (fld5 w 20) (fld5 w 15) (fld15 w 0))

/-- Major 0x13 (R165 and its neighbours; 06_encoding.md R143 to R153). -/
def decJal (w : Nat) : Except DecodeError Instr :=
  pure (.jal (fld5 w 20) (fld20 w 0))

/-- Major 0x14 (R165 and its neighbours; 06_encoding.md R143 to R153). -/
def decJalr (w : Nat) : Except DecodeError Instr :=
  pure (.jalr (fld5 w 20) (fld5 w 15) (fld15 w 0))

/-- Major 0x15 (R166 and its neighbours; 06_encoding.md R143 to R153). -/
def decAmo (w : Nat) : Except DecodeError Instr :=
  match w / 64 % 16 with
  | 0 => pure (.amoswap (fld5 w 20) (fld5 w 15) (fld5 w 10) (flag w 5) (flag w 4) (flag w 3) (fld3 w 0))
  | 1 => pure (.amoadd (fld5 w 20) (fld5 w 15) (fld5 w 10) (flag w 5) (flag w 4) (flag w 3) (fld3 w 0))
  | 2 => pure (.amoand (fld5 w 20) (fld5 w 15) (fld5 w 10) (flag w 5) (flag w 4) (flag w 3) (fld3 w 0))
  | 3 => pure (.amoor (fld5 w 20) (fld5 w 15) (fld5 w 10) (flag w 5) (flag w 4) (flag w 3) (fld3 w 0))
  | 4 => pure (.amoxor (fld5 w 20) (fld5 w 15) (fld5 w 10) (flag w 5) (flag w 4) (flag w 3) (fld3 w 0))
  | 5 => pure (.amomin (fld5 w 20) (fld5 w 15) (fld5 w 10) (flag w 5) (flag w 4) (flag w 3) (fld3 w 0))
  | 6 => pure (.amomax (fld5 w 20) (fld5 w 15) (fld5 w 10) (flag w 5) (flag w 4) (flag w 3) (fld3 w 0))
  | 7 => pure (.amominu (fld5 w 20) (fld5 w 15) (fld5 w 10) (flag w 5) (flag w 4) (flag w 3) (fld3 w 0))
  | 8 => pure (.amomaxu (fld5 w 20) (fld5 w 15) (fld5 w 10) (flag w 5) (flag w 4) (flag w 3) (fld3 w 0))
  | 9 => pure (.amocas (fld5 w 20) (fld5 w 15) (fld5 w 10) (flag w 5) (flag w 4) (flag w 3) (fld3 w 0))
  | _ => .error .reservedFunction

/-- Major 0x16 (R42 and its neighbours; 06_encoding.md R143 to R153). -/
def decLoop (w : Nat) : Except DecodeError Instr :=
  need w 21 4 0 (pure (.loop (fld1 w 20) (fld5 w 15) (fld15 w 0)))

/-- Major 0x17 (R173 and its neighbours; 06_encoding.md R143 to R153). -/
def decSys (w : Nat) : Except DecodeError Instr :=
  match w % 1024 with
  | 0 => need w 10 15 0 (pure (.ecall))
  | 1 => need w 10 15 0 (pure (.ebreak))
  | 2 => need w 10 15 0 (pure (.tret))
  | 3 => need w 10 15 0 (pure (.park))
  | 4 => need w 10 5 0 <| need w 20 5 0 (pure (.wsw (fld5 w 15)))
  | 5 => need w 10 5 0 <| need w 21 4 0 (pure (.mvlc (fld1 w 20) (fld5 w 15)))
  | _ =>
    match w / 8 % 128 with
    | 32 => need w 10 15 0 (pure (.fenceSv (fld3 w 0)))
    | 33 => need w 10 15 0 (pure (.fenceVs (fld3 w 0)))
    | 34 => need w 10 15 0 (pure (.fenceVv (fld3 w 0)))
    | 35 => need w 10 15 0 (pure (.fenceAll (fld3 w 0)))
    | _ => .error .reservedFunction

/-- Major 0x18 (R170 and its neighbours; 06_encoding.md R143 to R153). -/
def decCsr (w : Nat) : Except DecodeError Instr :=
  match w / 4096 % 8 with
  | 0 => need w 15 5 0 (pure (.csrr (fld5 w 20) (fld12 w 0)))
  | 1 => pure (.csrw (fld5 w 20) (fld5 w 15) (fld12 w 0))
  | 2 => pure (.csrs (fld5 w 20) (fld5 w 15) (fld12 w 0))
  | 3 => pure (.csrc (fld5 w 20) (fld5 w 15) (fld12 w 0))
  | _ => .error .reservedFunction

/-- Major 0x20 (R183 and its neighbours; 06_encoding.md R143 to R153). -/
def decSetvl (w : Nat) : Except DecodeError Instr :=
  need w 12 3 0 (pure (.setvl (fld5 w 20) (fld5 w 15) (fld12 w 0)))

/-- Major 0x21 (R184 and its neighbours; 06_encoding.md R143 to R153). -/
def decVbany (w : Nat) : Except DecodeError Instr :=
  need w 15 5 0 <| need w 23 2 0 (pure (.vbany (fld3 w 20) (fld15 w 0)))

/-- Major 0x22 (R184 and its neighbours; 06_encoding.md R143 to R153). -/
def decVbnone (w : Nat) : Except DecodeError Instr :=
  need w 15 5 0 <| need w 23 2 0 (pure (.vbnone (fld3 w 20) (fld15 w 0)))

/-- Major 0x23 (R185 and its neighbours; 06_encoding.md R143 to R153). -/
def decValu (w : Nat) : Except DecodeError Instr :=
  match w % 64 with
  | 0 => pure (.vadd (flag w 31) (fld5 w 20) (fld5 w 15) (fld5 w 10) (fld3 w 7) (flag w 6))
  | 1 => pure (.vsub (flag w 31) (fld5 w 20) (fld5 w 15) (fld5 w 10) (fld3 w 7) (flag w 6))
  | 2 => pure (.vrsub (flag w 31) (fld5 w 20) (fld5 w 15) (fld5 w 10) (fld3 w 7) (flag w 6))
  | 3 => pure (.vmul (flag w 31) (fld5 w 20) (fld5 w 15) (fld5 w 10) (fld3 w 7) (flag w 6))
  | 4 => pure (.vmulh (flag w 31) (fld5 w 20) (fld5 w 15) (fld5 w 10) (fld3 w 7) (flag w 6))
  | 5 => pure (.vmulhu (flag w 31) (fld5 w 20) (fld5 w 15) (fld5 w 10) (fld3 w 7) (flag w 6))
  | 6 => pure (.vand (flag w 31) (fld5 w 20) (fld5 w 15) (fld5 w 10) (fld3 w 7) (flag w 6))
  | 7 => pure (.vor (flag w 31) (fld5 w 20) (fld5 w 15) (fld5 w 10) (fld3 w 7) (flag w 6))
  | 8 => pure (.vxor (flag w 31) (fld5 w 20) (fld5 w 15) (fld5 w 10) (fld3 w 7) (flag w 6))
  | 9 => pure (.vsll (flag w 31) (fld5 w 20) (fld5 w 15) (fld5 w 10) (fld3 w 7) (flag w 6))
  | 10 => pure (.vsrl (flag w 31) (fld5 w 20) (fld5 w 15) (fld5 w 10) (fld3 w 7) (flag w 6))
  | 11 => pure (.vsra (flag w 31) (fld5 w 20) (fld5 w 15) (fld5 w 10) (fld3 w 7) (flag w 6))
  | 12 => pure (.vmin (flag w 31) (fld5 w 20) (fld5 w 15) (fld5 w 10) (fld3 w 7) (flag w 6))
  | 13 => pure (.vmax (flag w 31) (fld5 w 20) (fld5 w 15) (fld5 w 10) (fld3 w 7) (flag w 6))
  | 14 => pure (.vminu (flag w 31) (fld5 w 20) (fld5 w 15) (fld5 w 10) (fld3 w 7) (flag w 6))
  | 15 => pure (.vmaxu (flag w 31) (fld5 w 20) (fld5 w 15) (fld5 w 10) (fld3 w 7) (flag w 6))
  | 16 => pure (.vsadd (flag w 31) (fld5 w 20) (fld5 w 15) (fld5 w 10) (fld3 w 7) (flag w 6))
  | 17 => pure (.vssub (flag w 31) (fld5 w 20) (fld5 w 15) (fld5 w 10) (fld3 w 7) (flag w 6))
  | 18 => pure (.vsaddu (flag w 31) (fld5 w 20) (fld5 w 15) (fld5 w 10) (fld3 w 7) (flag w 6))
  | 19 => pure (.vssubu (flag w 31) (fld5 w 20) (fld5 w 15) (fld5 w 10) (fld3 w 7) (flag w 6))
  | 20 => pure (.vmerge (flag w 31) (fld5 w 20) (fld5 w 15) (fld5 w 10) (fld3 w 7) (flag w 6))
  | 21 => need w 15 5 0 (pure (.vmv (flag w 31) (fld5 w 20) (fld5 w 10) (fld3 w 7) (flag w 6)))
  | 22 => need w 6 1 0 <| need w 10 10 0 (pure (.vid (flag w 31) (fld5 w 20) (fld3 w 7)))
  | 32 => need w 23 2 0 (pure (.vcmpeq (flag w 31) (fld3 w 20) (fld5 w 15) (fld5 w 10) (fld3 w 7) (flag w 6)))
  | 33 => need w 23 2 0 (pure (.vcmpne (flag w 31) (fld3 w 20) (fld5 w 15) (fld5 w 10) (fld3 w 7) (flag w 6)))
  | 34 => need w 23 2 0 (pure (.vcmplt (flag w 31) (fld3 w 20) (fld5 w 15) (fld5 w 10) (fld3 w 7) (flag w 6)))
  | 35 => need w 23 2 0 (pure (.vcmpltu (flag w 31) (fld3 w 20) (fld5 w 15) (fld5 w 10) (fld3 w 7) (flag w 6)))
  | 36 => need w 23 2 0 (pure (.vcmple (flag w 31) (fld3 w 20) (fld5 w 15) (fld5 w 10) (fld3 w 7) (flag w 6)))
  | 37 => need w 23 2 0 (pure (.vcmpleu (flag w 31) (fld3 w 20) (fld5 w 15) (fld5 w 10) (fld3 w 7) (flag w 6)))
  | _ => .error .reservedFunction

/-- Major 0x24 (R187 and its neighbours; 06_encoding.md R143 to R153). -/
def decVfp (w : Nat) : Except DecodeError Instr :=
  match w % 64 with
  | 0 => pure (.vfadd (flag w 31) (fld5 w 20) (fld5 w 15) (fld5 w 10) (fld3 w 7) (flag w 6))
  | 1 => pure (.vfsub (flag w 31) (fld5 w 20) (fld5 w 15) (fld5 w 10) (fld3 w 7) (flag w 6))
  | 2 => pure (.vfmul (flag w 31) (fld5 w 20) (fld5 w 15) (fld5 w 10) (fld3 w 7) (flag w 6))
  | 3 => pure (.vfma (flag w 31) (fld5 w 20) (fld5 w 15) (fld5 w 10) (fld3 w 7) (flag w 6))
  | 4 => pure (.vfmin (flag w 31) (fld5 w 20) (fld5 w 15) (fld5 w 10) (fld3 w 7) (flag w 6))
  | 5 => pure (.vfmax (flag w 31) (fld5 w 20) (fld5 w 15) (fld5 w 10) (fld3 w 7) (flag w 6))
  | 8 => need w 23 2 0 (pure (.vfcmpeq (flag w 31) (fld3 w 20) (fld5 w 15) (fld5 w 10) (fld3 w 7) (flag w 6)))
  | 9 => need w 23 2 0 (pure (.vfcmplt (flag w 31) (fld3 w 20) (fld5 w 15) (fld5 w 10) (fld3 w 7) (flag w 6)))
  | 10 => need w 23 2 0 (pure (.vfcmple (flag w 31) (fld3 w 20) (fld5 w 15) (fld5 w 10) (fld3 w 7) (flag w 6)))
  | 12 => need w 6 1 0 <| need w 10 5 0 (pure (.vfcvtif (flag w 31) (fld5 w 20) (fld5 w 15) (fld3 w 7)))
  | 13 => need w 6 1 0 <| need w 10 5 0 (pure (.vfcvtfi (flag w 31) (fld5 w 20) (fld5 w 15) (fld3 w 7)))
  | _ => .error .reservedFunction

/-- Major 0x25 (R188 and its neighbours; 06_encoding.md R143 to R153). -/
def decVperm (w : Nat) : Except DecodeError Instr :=
  match w % 128 with
  | 0 => pure (.vslideup (flag w 31) (fld5 w 20) (fld5 w 15) (fld5 w 10) (fld3 w 7))
  | 1 => pure (.vslidedn (flag w 31) (fld5 w 20) (fld5 w 15) (fld5 w 10) (fld3 w 7))
  | 2 => pure (.vshuf (flag w 31) (fld5 w 20) (fld5 w 15) (fld5 w 10) (fld3 w 7))
  | 3 => need w 13 2 0 (pure (.vcompress (flag w 31) (fld5 w 20) (fld5 w 15) (fld3 w 10) (fld3 w 7)))
  | 4 => need w 13 2 0 (pure (.vexpand (flag w 31) (fld5 w 20) (fld5 w 15) (fld3 w 10) (fld3 w 7)))
  | 5 => pure (.vredsum (flag w 31) (fld5 w 20) (fld5 w 15) (fld5 w 10) (fld3 w 7))
  | 6 => pure (.vredmax (flag w 31) (fld5 w 20) (fld5 w 15) (fld5 w 10) (fld3 w 7))
  | 7 => pure (.vredmin (flag w 31) (fld5 w 20) (fld5 w 15) (fld5 w 10) (fld3 w 7))
  | 8 => pure (.vredand (flag w 31) (fld5 w 20) (fld5 w 15) (fld5 w 10) (fld3 w 7))
  | 9 => pure (.vredor (flag w 31) (fld5 w 20) (fld5 w 15) (fld5 w 10) (fld3 w 7))
  | 10 => need w 10 5 0 <| need w 18 2 0 (pure (.vmfirst (flag w 31) (fld5 w 20) (fld3 w 15) (fld3 w 7)))
  | 11 => need w 10 5 0 <| need w 18 2 0 (pure (.vmpopc (flag w 31) (fld5 w 20) (fld3 w 15) (fld3 w 7)))
  | 12 => need w 13 2 0 <| need w 18 2 0 <| need w 23 2 0 (pure (.vmand (flag w 31) (fld3 w 20) (fld3 w 15) (fld3 w 10) (fld3 w 7)))
  | 13 => need w 13 2 0 <| need w 18 2 0 <| need w 23 2 0 (pure (.vmor (flag w 31) (fld3 w 20) (fld3 w 15) (fld3 w 10) (fld3 w 7)))
  | 14 => need w 13 2 0 <| need w 18 2 0 <| need w 23 2 0 (pure (.vmxor (flag w 31) (fld3 w 20) (fld3 w 15) (fld3 w 10) (fld3 w 7)))
  | 15 => need w 10 5 0 <| need w 18 2 0 <| need w 23 2 0 (pure (.vmnot (flag w 31) (fld3 w 20) (fld3 w 15) (fld3 w 7)))
  | 16 => need w 7 3 0 (pure (.vmvxs (flag w 31) (fld5 w 20) (fld5 w 15) (fld5 w 10)))
  | 17 => need w 10 5 0 (pure (.vsplat (flag w 31) (fld5 w 20) (fld5 w 15) (fld3 w 7)))
  | _ => .error .reservedFunction

/-- Major 0x26 (R195 and its neighbours; 06_encoding.md R143 to R153). -/
def decVnar (w : Nat) : Except DecodeError Instr :=
  match w % 128 with
  | 0 => pure (.vnarrow (flag w 31) (fld5 w 20) (fld5 w 15) (fld5 w 10) (fld3 w 7))
  | 1 => pure (.vwiden (flag w 31) (fld5 w 20) (fld5 w 15) (fld5 w 10) (fld3 w 7))
  | 2 => need w 10 5 0 (pure (.vscale (flag w 31) (fld5 w 20) (fld5 w 15) (fld3 w 7)))
  | _ => .error .reservedFunction

/-- Major 0x27 (R205 and its neighbours; 06_encoding.md R143 to R153). -/
def decVmod (w : Nat) : Except DecodeError Instr :=
  match w % 32 with
  | 0 => pure (.vmadd (flag w 31) (fld5 w 20) (fld5 w 15) (fld5 w 10) (fld3 w 7) (fld2 w 5))
  | 1 => pure (.vmsub (flag w 31) (fld5 w 20) (fld5 w 15) (fld5 w 10) (fld3 w 7) (fld2 w 5))
  | 2 => pure (.vmmul (flag w 31) (fld5 w 20) (fld5 w 15) (fld5 w 10) (fld3 w 7) (fld2 w 5))
  | 3 => pure (.vmmac (flag w 31) (fld5 w 20) (fld5 w 15) (fld5 w 10) (fld3 w 7) (fld2 w 5))
  | 4 => need w 10 5 0 (pure (.vmneg (flag w 31) (fld5 w 20) (fld5 w 15) (fld3 w 7) (fld2 w 5)))
  | 5 => need w 10 5 0 (pure (.vmred (flag w 31) (fld5 w 20) (fld5 w 15) (fld3 w 7) (fld2 w 5)))
  | 6 => pure (.vbfly (flag w 31) (fld5 w 20) (fld5 w 15) (fld5 w 10) (fld3 w 7) (fld2 w 5))
  | 7 => pure (.vibfly (flag w 31) (fld5 w 20) (fld5 w 15) (fld5 w 10) (fld3 w 7) (fld2 w 5))
  | 8 => pure (.vnegrot (flag w 31) (fld5 w 20) (fld5 w 15) (fld5 w 10) (fld3 w 7) (fld2 w 5))
  | 9 => pure (.vauto (flag w 31) (fld5 w 20) (fld5 w 15) (fld5 w 10) (fld3 w 7) (fld2 w 5))
  | 10 => pure (.vdecomp (flag w 31) (fld5 w 20) (fld5 w 15) (fld5 w 10) (fld3 w 7) (fld2 w 5))
  | 11 => pure (.vmswitch (flag w 31) (fld5 w 20) (fld5 w 15) (fld5 w 10) (fld3 w 7) (fld2 w 5))
  | _ => .error .reservedFunction

/-- Major 0x28 (R198 and its neighbours; 06_encoding.md R143 to R153). -/
def decVld (w : Nat) : Except DecodeError Instr :=
  match w % 8 with
  | 0 => need w 4 3 0 <| need w 10 5 0 (pure (.vld (flag w 31) (fld5 w 20) (fld5 w 15) (fld3 w 7) (flag w 3)))
  | 1 => need w 4 3 0 (pure (.vlds (flag w 31) (fld5 w 20) (fld5 w 15) (fld5 w 10) (fld3 w 7) (flag w 3)))
  | 2 => need w 4 3 0 (pure (.vldx (flag w 31) (fld5 w 20) (fld5 w 15) (fld5 w 10) (fld3 w 7) (flag w 3)))
  | 3 => need w 4 3 0 <| need w 10 5 0 (pure (.vldff (flag w 31) (fld5 w 20) (fld5 w 15) (fld3 w 7) (flag w 3)))
  | 4 => need w 4 3 0 (pure (.vldb (flag w 31) (fld5 w 20) (fld5 w 15) (fld5 w 10) (fld3 w 7) (flag w 3)))
  | _ => .error .reservedFunction

/-- Major 0x29 (R199 and its neighbours; 06_encoding.md R143 to R153). -/
def decVst (w : Nat) : Except DecodeError Instr :=
  match w % 8 with
  | 0 => need w 4 3 0 <| need w 10 5 0 (pure (.vst (flag w 31) (fld5 w 20) (fld5 w 15) (fld3 w 7) (flag w 3)))
  | 1 => need w 4 3 0 (pure (.vsts (flag w 31) (fld5 w 20) (fld5 w 15) (fld5 w 10) (fld3 w 7) (flag w 3)))
  | 2 => need w 4 3 0 (pure (.vstx (flag w 31) (fld5 w 20) (fld5 w 15) (fld5 w 10) (fld3 w 7) (flag w 3)))
  | 4 => need w 4 3 0 (pure (.vstb (flag w 31) (fld5 w 20) (fld5 w 15) (fld5 w 10) (fld3 w 7) (flag w 3)))
  | _ => .error .reservedFunction

/-- Major 0x2A (R203 and its neighbours; 06_encoding.md R143 to R153). -/
def decVspill (w : Nat) : Except DecodeError Instr :=
  match w % 1024 with
  | 0 => need w 10 5 0 (pure (.vspill (fld5 w 20) (fld5 w 15)))
  | 1 => need w 10 5 0 (pure (.vfill (fld5 w 20) (fld5 w 15)))
  | _ => .error .reservedFunction

/-- Major 0x2B (R257 and its neighbours; 06_encoding.md R143 to R153). -/
def decVamo (w : Nat) : Except DecodeError Instr :=
  match w / 16 % 8 with
  | 0 => pure (.vamoadd (fld5 w 20) (fld5 w 15) (fld5 w 10) (fld3 w 7) (flag w 3) (flag w 2) (fld2 w 0))
  | 1 => pure (.vamoand (fld5 w 20) (fld5 w 15) (fld5 w 10) (fld3 w 7) (flag w 3) (flag w 2) (fld2 w 0))
  | 2 => pure (.vamoor (fld5 w 20) (fld5 w 15) (fld5 w 10) (fld3 w 7) (flag w 3) (flag w 2) (fld2 w 0))
  | 3 => pure (.vamoxor (fld5 w 20) (fld5 w 15) (fld5 w 10) (fld3 w 7) (flag w 3) (flag w 2) (fld2 w 0))
  | 4 => pure (.vamomin (fld5 w 20) (fld5 w 15) (fld5 w 10) (fld3 w 7) (flag w 3) (flag w 2) (fld2 w 0))
  | 5 => pure (.vamomax (fld5 w 20) (fld5 w 15) (fld5 w 10) (fld3 w 7) (flag w 3) (flag w 2) (fld2 w 0))
  | 6 => pure (.vamominu (fld5 w 20) (fld5 w 15) (fld5 w 10) (fld3 w 7) (flag w 3) (flag w 2) (fld2 w 0))
  | 7 => pure (.vamoswap (fld5 w 20) (fld5 w 15) (fld5 w 10) (fld3 w 7) (flag w 3) (flag w 2) (fld2 w 0))
  | _ => .error .reservedFunction

/-- Major 0x2C (R258 and its neighbours; 06_encoding.md R143 to R153). -/
def decVamoo (w : Nat) : Except DecodeError Instr :=
  match w / 16 % 8 with
  | 0 => pure (.vamooadd (fld5 w 20) (fld5 w 15) (fld5 w 10) (fld3 w 7) (flag w 3) (flag w 2) (fld2 w 0))
  | 1 => pure (.vamooand (fld5 w 20) (fld5 w 15) (fld5 w 10) (fld3 w 7) (flag w 3) (flag w 2) (fld2 w 0))
  | 2 => pure (.vamooor (fld5 w 20) (fld5 w 15) (fld5 w 10) (fld3 w 7) (flag w 3) (flag w 2) (fld2 w 0))
  | 3 => pure (.vamooxor (fld5 w 20) (fld5 w 15) (fld5 w 10) (fld3 w 7) (flag w 3) (flag w 2) (fld2 w 0))
  | 4 => pure (.vamoomin (fld5 w 20) (fld5 w 15) (fld5 w 10) (fld3 w 7) (flag w 3) (flag w 2) (fld2 w 0))
  | 5 => pure (.vamoomax (fld5 w 20) (fld5 w 15) (fld5 w 10) (fld3 w 7) (flag w 3) (flag w 2) (fld2 w 0))
  | 6 => pure (.vamoominu (fld5 w 20) (fld5 w 15) (fld5 w 10) (fld3 w 7) (flag w 3) (flag w 2) (fld2 w 0))
  | 7 => pure (.vamooswap (fld5 w 20) (fld5 w 15) (fld5 w 10) (fld3 w 7) (flag w 3) (flag w 2) (fld2 w 0))
  | _ => .error .reservedFunction

/-- Major 0x2D (R260 and its neighbours; 06_encoding.md R143 to R153). -/
def decVwait (w : Nat) : Except DecodeError Instr :=
  match w / 16 % 8 with
  | 0 => need w 2 2 0 (pure (.vwaiteq (fld5 w 20) (fld5 w 15) (fld5 w 10) (fld3 w 7) (fld2 w 0)))
  | 1 => need w 2 2 0 (pure (.vwaitne (fld5 w 20) (fld5 w 15) (fld5 w 10) (fld3 w 7) (fld2 w 0)))
  | 2 => need w 2 2 0 (pure (.vwaitlt (fld5 w 20) (fld5 w 15) (fld5 w 10) (fld3 w 7) (fld2 w 0)))
  | 3 => need w 2 2 0 (pure (.vwaitltu (fld5 w 20) (fld5 w 15) (fld5 w 10) (fld3 w 7) (fld2 w 0)))
  | 4 => need w 2 2 0 (pure (.vwaitge (fld5 w 20) (fld5 w 15) (fld5 w 10) (fld3 w 7) (fld2 w 0)))
  | 5 => need w 2 2 0 (pure (.vwaitgeu (fld5 w 20) (fld5 w 15) (fld5 w 10) (fld3 w 7) (fld2 w 0)))
  | _ => .error .reservedFunction

/-- Major 0x30 (R237 and its neighbours; 06_encoding.md R143 to R153). -/
def decMctl (w : Nat) : Except DecodeError Instr :=
  match w % 1024 with
  | 0 => need w 10 5 0 <| need w 20 5 0 (pure (.mmode (fld5 w 15)))
  | 1 => need w 10 10 0 <| need w 21 4 0 (pure (.mzero (fld1 w 20)))
  | 2 => need w 10 5 0 <| need w 21 4 0 (pure (.msave (fld1 w 20) (fld5 w 15)))
  | 3 => need w 10 5 0 <| need w 21 4 0 (pure (.mrstr (fld1 w 20) (fld5 w 15)))
  | _ => .error .reservedFunction

/-- Major 0x31 (R243 and its neighbours; 06_encoding.md R143 to R153). -/
def decMopa (w : Nat) : Except DecodeError Instr :=
  match w / 64 % 2 with
  | 0 => need w 0 6 0 (pure (.mopa (fld1 w 24) (flag w 23) (fld5 w 18) (flag w 17) (fld5 w 12) (fld4 w 8) (flag w 7)))
  | 1 => need w 0 6 0 (pure (.mops (fld1 w 24) (flag w 23) (fld5 w 18) (flag w 17) (fld5 w 12) (fld4 w 8) (flag w 7)))
  | _ => .error .reservedFunction

/-- Major 0x32 (R248 and its neighbours; 06_encoding.md R143 to R153). -/
def decMrow (w : Nat) : Except DecodeError Instr :=
  match w % 1024 with
  | 0 => need w 16 4 0 (pure (.mdrain (flag w 31) (fld5 w 20) (fld1 w 15) (fld5 w 10)))
  | 1 => need w 16 4 0 (pure (.mdrainc (flag w 31) (fld5 w 20) (fld1 w 15) (fld5 w 10)))
  | 2 => need w 21 4 0 (pure (.mfill (fld1 w 20) (fld5 w 15) (fld5 w 10)))
  | _ => .error .reservedFunction

/-- Major 0x33 (R246 and its neighbours; 06_encoding.md R143 to R153). -/
def decPcfg (w : Nat) : Except DecodeError Instr :=
  match w % 1024 with
  | 0 => need w 10 5 0 <| need w 23 2 0 (pure (.pcfgBase (fld3 w 20) (fld5 w 15)))
  | 1 => need w 23 2 0 (pure (.pcfgDim (fld3 w 20) (fld5 w 15) (fld5 w 10)))
  | 2 => need w 10 10 0 <| need w 23 2 0 (pure (.pclr (fld3 w 20)))
  | _ => .error .reservedFunction

/-- Major 0x34 (R222 and its neighbours; 06_encoding.md R143 to R153). -/
def decCiph (w : Nat) : Except DecodeError Instr :=
  match w % 256 with
  | 0 => need w 13 8 0 (pure (.cload (fld4 w 21) (fld5 w 8)))
  | 1 => need w 13 4 0 <| need w 21 4 0 (pure (.cstore (fld4 w 17) (fld5 w 8)))
  | 2 => need w 8 5 0 (pure (.cadd (fld4 w 21) (fld4 w 17) (fld4 w 13)))
  | 3 => need w 8 5 0 (pure (.csub (fld4 w 21) (fld4 w 17) (fld4 w 13)))
  | 4 => need w 8 9 0 (pure (.cneg (fld4 w 21) (fld4 w 17)))
  | 5 => need w 13 4 0 (pure (.cmulp (fld4 w 21) (fld4 w 17) (fld5 w 8)))
  | 6 => need w 13 4 0 (pure (.caddp (fld4 w 21) (fld4 w 17) (fld5 w 8)))
  | 7 => need w 13 4 0 (pure (.cmacc (fld4 w 21) (fld4 w 17) (fld5 w 8)))
  | 8 => need w 8 9 0 (pure (.cmodsw (fld4 w 21) (fld4 w 17)))
  | 9 => need w 8 9 0 (pure (.ckeysw (fld4 w 21) (fld4 w 17)))
  | 10 => need w 13 4 0 <| need w 21 4 0 (pure (.cbudget (fld4 w 17) (fld5 w 8)))
  | 12 => need w 8 13 0 (pure (.cinv (fld4 w 21)))
  | 13 => need w 8 9 0 (pure (.cmov (fld4 w 21) (fld4 w 17)))
  | 14 => need w 13 8 0 (pure (.cimport (fld4 w 21) (fld5 w 8)))
  | 11 =>
    match w / 8192 % 16 with
    | 0 => need w 21 4 0 (pure (.chdrLo (fld4 w 17) (fld5 w 8)))
    | 1 => need w 21 4 0 (pure (.chdrHi (fld4 w 17) (fld5 w 8)))
    | _ => .error .reservedFunction
  | _ => .error .reservedFunction

/-- Major 0x35 (R226 and its neighbours; 06_encoding.md R143 to R153). -/
def decCref (w : Nat) : Except DecodeError Instr :=
  match w % 1024 with
  | 0 => need w 10 3 0 <| need w 15 2 0 (pure (.cref (fld4 w 21) (fld4 w 17) (fld2 w 13)))
  | 1 => need w 10 15 0 (pure (.crgo))
  | 2 => need w 10 15 0 (pure (.crwait))
  | _ => .error .reservedFunction

/-- Major 0x36 (R231 and its neighbours; 06_encoding.md R143 to R153). -/
def decCkey (w : Nat) : Except DecodeError Instr :=
  match w % 1024 with
  | 0 => need w 10 5 0 <| need w 22 3 0 (pure (.kbind (fld2 w 20) (fld5 w 15)))
  | 1 => need w 10 10 0 <| need w 22 3 0 (pure (.kunbind (fld2 w 20)))
  | 2 => need w 12 3 0 <| need w 22 3 0 (pure (.tload (fld2 w 20) (fld5 w 15) (fld2 w 10)))
  | 3 => need w 10 10 0 <| need w 22 3 0 (pure (.tclr (fld2 w 20)))
  | 4 => need w 10 5 0 <| need w 22 3 0 (pure (.qmset (fld2 w 20) (fld5 w 15)))
  | _ => .error .reservedFunction

/-- Major 0x37 (R255 and its neighbours; 06_encoding.md R143 to R153). -/
def decStrm (w : Nat) : Except DecodeError Instr :=
  match w % 1024 with
  | 0 => need w 10 5 0 <| need w 22 3 0 (pure (.sopen (fld2 w 20) (fld5 w 15)))
  | 1 => need w 10 10 0 <| need w 22 3 0 (pure (.srun (fld2 w 20)))
  | 2 => need w 10 10 0 <| need w 22 3 0 (pure (.swait (fld2 w 20)))
  | 3 => need w 10 5 0 <| need w 22 3 0 (pure (.ssave (fld2 w 20) (fld5 w 15)))
  | _ => .error .reservedFunction

/-- Major 0x38 (R262 and its neighbours; 06_encoding.md R143 to R153). -/
def decCopy (w : Nat) : Except DecodeError Instr :=
  match w % 1024 with
  | 0 => pure (.cpy (fld5 w 20) (fld5 w 15) (fld5 w 10))
  | 1 => pure (.cpy2d (fld5 w 20) (fld5 w 15) (fld5 w 10))
  | 2 => pure (.puts (fld5 w 20) (fld5 w 15) (fld5 w 10))
  | 3 => pure (.cpyb (fld5 w 20) (fld5 w 15) (fld5 w 10))
  | _ => .error .reservedFunction

/-- Major 0x39 (R268 and its neighbours; 06_encoding.md R143 to R153). -/
def decBar (w : Nat) : Except DecodeError Instr :=
  match w % 1024 with
  | 0 => need w 20 5 0 (pure (.binit (fld5 w 15) (fld5 w 10)))
  | 1 => need w 10 5 0 <| need w 20 5 0 (pure (.barv (fld5 w 15)))
  | 2 => need w 10 5 0 <| need w 20 5 0 (pure (.bard (fld5 w 15)))
  | 3 => need w 20 5 0 (pure (.bexp (fld5 w 15) (fld5 w 10)))
  | 4 => need w 20 5 0 (pure (.bwait (fld5 w 15) (fld5 w 10)))
  | 5 => need w 10 5 0 (pure (.btest (fld5 w 20) (fld5 w 15)))
  | _ => .error .reservedFunction

/-- Major 0x3A (R271 and its neighbours; 06_encoding.md R143 to R153). -/
def decFab (w : Nat) : Except DecodeError Instr :=
  match w % 1024 with
  | 0 => need w 10 5 0 (pure (.sbind (fld5 w 20) (fld5 w 15)))
  | 1 => need w 10 10 0 (pure (.sunbind (fld5 w 20)))
  | 2 => pure (.galloc (fld5 w 20) (fld5 w 15) (fld5 w 10))
  | 3 => need w 20 5 0 (pure (.gfree (fld5 w 15) (fld5 w 10)))
  | 4 => need w 10 5 0 <| need w 20 5 0 (pure (.reef (fld5 w 15)))
  | _ => .error .reservedFunction

/-- Major 0x3B (R280 and its neighbours; 06_encoding.md R143 to R153). -/
def decWork (w : Nat) : Except DecodeError Instr :=
  match w % 1024 with
  | 0 => need w 20 5 0 (pure (.wqry (fld5 w 15) (fld5 w 10)))
  | 1 => need w 20 5 0 (pure (.wpush (fld5 w 15) (fld5 w 10)))
  | 2 => need w 10 15 0 (pure (.wdone))
  | 3 => pure (.farm (fld5 w 20) (fld5 w 15) (fld5 w 10))
  | 4 => need w 10 5 0 (pure (.fstrip (fld5 w 20) (fld5 w 15)))
  | _ => .error .reservedFunction

/-- Major 0x3C (R286 and its neighbours; 06_encoding.md R143 to R153). -/
def decApxb (w : Nat) : Except DecodeError Instr :=
  need w 15 5 0 <| need w 23 2 0 (pure (.apxb (fld3 w 20) (fld15 w 0)))

/-- Major 0x3D (R286 and its neighbours; 06_encoding.md R143 to R153). -/
def decCtl2 (w : Nat) : Except DecodeError Instr :=
  match w % 1024 with
  | 0 => need w 10 10 0 <| need w 23 2 0 (pure (.apxe (fld3 w 20)))
  | 1 => need w 10 10 0 <| need w 23 2 0 (pure (.apxinv (fld3 w 20)))
  | 2 => need w 10 5 0 <| need w 20 5 0 (pure (.fsave (fld5 w 15)))
  | 3 => need w 10 5 0 <| need w 20 5 0 (pure (.frstr (fld5 w 15)))
  | _ => .error .reservedFunction

/-- Major 0x3F (R35 and its neighbours; 06_encoding.md R143 to R153). -/
def decPfx (w : Nat) : Except DecodeError Instr :=
  match w / 2097152 % 2 with
  | 0 => need w 0 15 0 (pure (.pfx (fld3 w 22) (fld5 w 16) (flag w 15)))
  | 1 => need w 0 15 0 (pure (.pfxn (fld3 w 22) (fld5 w 16) (flag w 15)))
  | _ => .error .reservedFunction
/-- The decoder of the major opcode (R143). -/
def decodeMajor (w : Nat) : Except DecodeError Instr :=
  match w / 33554432 % 64 with
  | 1 => decAlu w
  | 2 => decAddi w
  | 3 => decAndi w
  | 4 => decOri w
  | 5 => decXori w
  | 6 => decSlti w
  | 7 => decSltiu w
  | 8 => decShi w
  | 9 => decLui w
  | 10 => decAuipc w
  | 11 => decLd w
  | 12 => decSt w
  | 13 => decBeq w
  | 14 => decBne w
  | 15 => decBlt w
  | 16 => decBge w
  | 17 => decBltu w
  | 18 => decBgeu w
  | 19 => decJal w
  | 20 => decJalr w
  | 21 => decAmo w
  | 22 => decLoop w
  | 23 => decSys w
  | 24 => decCsr w
  | 32 => decSetvl w
  | 33 => decVbany w
  | 34 => decVbnone w
  | 35 => decValu w
  | 36 => decVfp w
  | 37 => decVperm w
  | 38 => decVnar w
  | 39 => decVmod w
  | 40 => decVld w
  | 41 => decVst w
  | 42 => decVspill w
  | 43 => decVamo w
  | 44 => decVamoo w
  | 45 => decVwait w
  | 48 => decMctl w
  | 49 => decMopa w
  | 50 => decMrow w
  | 51 => decPcfg w
  | 52 => decCiph w
  | 53 => decCref w
  | 54 => decCkey w
  | 55 => decStrm w
  | 56 => decCopy w
  | 57 => decBar w
  | 58 => decFab w
  | 59 => decWork w
  | 60 => decApxb w
  | 61 => decCtl2 w
  | 63 => decPfx w
  | _ => .error .reservedMajor

/-- Majors whose words may have E = 0: the ALU, modular, load, store and permute classes and the drain
instructions (R28). MFILL (major 0x32, fn 2) and every scalar or solo word end their convoy. -/
def mayShare (w : Nat) : Bool :=
  let m := w / 33554432 % 64
  (35 ≤ m && m ≤ 41) || (m == 50 && w % 1024 != 2)

/-- The decoder of one 32-bit word (R137, R153). -/
def decodeWord (w : Nat) : Except DecodeError Instr := do
  let i ← decodeMajor w
  if !i.wellFormed then .error .illFormed
  else if w / 33554432 % 64 == 63 then
    if flag w 31 then .error .prefixEndsConvoy else pure i
  else if !flag w 31 && !mayShare w then .error .endBitClear
  else pure i

/-- The word four little-endian bytes make (R137). -/
def wordOfBytes (b0 b1 b2 b3 : Byte) : Nat :=
  b0.toNat + b1.toNat * 256 + b2.toNat * 65536 + b3.toNat * 16777216

/-- The decoder on bytes: the instruction and the bytes after it. -/
def decode : List Byte → Except DecodeError (Instr × List Byte)
  | b0 :: b1 :: b2 :: b3 :: rest => do
    let i ← decodeWord (wordOfBytes b0 b1 b2 b3)
    pure (i, rest)
  | _ => .error .truncated

/-- The n low bytes of w, lowest first. -/
def bytesOfWord : Nat → Nat → List Byte
  | 0, _ => []
  | n + 1, w => BitVec.ofNat 8 w :: bytesOfWord n (w / 256)

/-- The instruction the decoder reads from a word numbered as the opcode table numbers it: the word is
stored little-endian (R137) and given to `decode`. Every ZH96 instruction is one 32-bit word. -/
def decodeTableWord (nbits w : Nat) : Option Instr :=
  match decode (bytesOfWord 4 (w % 2 ^ nbits)) with
  | .ok (i, _) => some i
  | .error _ => none

/-- The word of an instruction, none for a row without an encoding (R137 to R152). -/
def encode : Instr → Option Nat
  | .add d a b => some (2181038080 + d.val * 1048576 + a.val * 32768 + b.val * 1024)
  | .sub d a b => some (2181038081 + d.val * 1048576 + a.val * 32768 + b.val * 1024)
  | .and d a b => some (2181038082 + d.val * 1048576 + a.val * 32768 + b.val * 1024)
  | .or d a b => some (2181038083 + d.val * 1048576 + a.val * 32768 + b.val * 1024)
  | .xor d a b => some (2181038084 + d.val * 1048576 + a.val * 32768 + b.val * 1024)
  | .sll d a b => some (2181038085 + d.val * 1048576 + a.val * 32768 + b.val * 1024)
  | .srl d a b => some (2181038086 + d.val * 1048576 + a.val * 32768 + b.val * 1024)
  | .sra d a b => some (2181038087 + d.val * 1048576 + a.val * 32768 + b.val * 1024)
  | .slt d a b => some (2181038088 + d.val * 1048576 + a.val * 32768 + b.val * 1024)
  | .sltu d a b => some (2181038089 + d.val * 1048576 + a.val * 32768 + b.val * 1024)
  | .min d a b => some (2181038090 + d.val * 1048576 + a.val * 32768 + b.val * 1024)
  | .max d a b => some (2181038091 + d.val * 1048576 + a.val * 32768 + b.val * 1024)
  | .minu d a b => some (2181038092 + d.val * 1048576 + a.val * 32768 + b.val * 1024)
  | .maxu d a b => some (2181038093 + d.val * 1048576 + a.val * 32768 + b.val * 1024)
  | .mul d a b => some (2181038096 + d.val * 1048576 + a.val * 32768 + b.val * 1024)
  | .mulh d a b => some (2181038097 + d.val * 1048576 + a.val * 32768 + b.val * 1024)
  | .mulhu d a b => some (2181038098 + d.val * 1048576 + a.val * 32768 + b.val * 1024)
  | .div d a b => some (2181038100 + d.val * 1048576 + a.val * 32768 + b.val * 1024)
  | .divu d a b => some (2181038101 + d.val * 1048576 + a.val * 32768 + b.val * 1024)
  | .rem d a b => some (2181038102 + d.val * 1048576 + a.val * 32768 + b.val * 1024)
  | .remu d a b => some (2181038103 + d.val * 1048576 + a.val * 32768 + b.val * 1024)
  | .clz d a => some (2181038112 + d.val * 1048576 + a.val * 32768)
  | .popc d a => some (2181038113 + d.val * 1048576 + a.val * 32768)
  | .ctz d a => some (2181038114 + d.val * 1048576 + a.val * 32768)
  | .addi d a i => some (2214592512 + d.val * 1048576 + a.val * 32768 + i.val)
  | .andi d a i => some (2248146944 + d.val * 1048576 + a.val * 32768 + i.val)
  | .ori d a i => some (2281701376 + d.val * 1048576 + a.val * 32768 + i.val)
  | .xori d a i => some (2315255808 + d.val * 1048576 + a.val * 32768 + i.val)
  | .slti d a i => some (2348810240 + d.val * 1048576 + a.val * 32768 + i.val)
  | .sltiu d a i => some (2382364672 + d.val * 1048576 + a.val * 32768 + i.val)
  | .slli d a h => some (2415919104 + d.val * 1048576 + a.val * 32768 + h.val)
  | .srli d a h => some (2415927296 + d.val * 1048576 + a.val * 32768 + h.val)
  | .srai d a h => some (2415935488 + d.val * 1048576 + a.val * 32768 + h.val)
  | .lui d i => some (2449473536 + d.val * 1048576 + i.val)
  | .auipc d i => some (2483027968 + d.val * 1048576 + i.val)
  | .ldb d a o => some (2516582400 + d.val * 1048576 + a.val * 32768 + o.val)
  | .ldh d a o => some (2516586496 + d.val * 1048576 + a.val * 32768 + o.val)
  | .ldw d a o => some (2516590592 + d.val * 1048576 + a.val * 32768 + o.val)
  | .ldd d a o => some (2516594688 + d.val * 1048576 + a.val * 32768 + o.val)
  | .ldbu d a o => some (2516598784 + d.val * 1048576 + a.val * 32768 + o.val)
  | .ldhu d a o => some (2516602880 + d.val * 1048576 + a.val * 32768 + o.val)
  | .ldwu d a o => some (2516606976 + d.val * 1048576 + a.val * 32768 + o.val)
  | .stb s a o => some (2550136832 + s.val * 1048576 + a.val * 32768 + o.val)
  | .sth s a o => some (2550140928 + s.val * 1048576 + a.val * 32768 + o.val)
  | .stw s a o => some (2550145024 + s.val * 1048576 + a.val * 32768 + o.val)
  | .std s a o => some (2550149120 + s.val * 1048576 + a.val * 32768 + o.val)
  | .beq a b o => some (2583691264 + a.val * 1048576 + b.val * 32768 + o.val)
  | .bne a b o => some (2617245696 + a.val * 1048576 + b.val * 32768 + o.val)
  | .blt a b o => some (2650800128 + a.val * 1048576 + b.val * 32768 + o.val)
  | .bge a b o => some (2684354560 + a.val * 1048576 + b.val * 32768 + o.val)
  | .bltu a b o => some (2717908992 + a.val * 1048576 + b.val * 32768 + o.val)
  | .bgeu a b o => some (2751463424 + a.val * 1048576 + b.val * 32768 + o.val)
  | .jal d i => some (2785017856 + d.val * 1048576 + i.val)
  | .jalr d a i => some (2818572288 + d.val * 1048576 + a.val * 32768 + i.val)
  | .amoswap d a b x q l s => some (2852126720 + d.val * 1048576 + a.val * 32768 + b.val * 1024 + bit x * 32 + bit q * 16 + bit l * 8 + s.val)
  | .amoadd d a b x q l s => some (2852126784 + d.val * 1048576 + a.val * 32768 + b.val * 1024 + bit x * 32 + bit q * 16 + bit l * 8 + s.val)
  | .amoand d a b x q l s => some (2852126848 + d.val * 1048576 + a.val * 32768 + b.val * 1024 + bit x * 32 + bit q * 16 + bit l * 8 + s.val)
  | .amoor d a b x q l s => some (2852126912 + d.val * 1048576 + a.val * 32768 + b.val * 1024 + bit x * 32 + bit q * 16 + bit l * 8 + s.val)
  | .amoxor d a b x q l s => some (2852126976 + d.val * 1048576 + a.val * 32768 + b.val * 1024 + bit x * 32 + bit q * 16 + bit l * 8 + s.val)
  | .amomin d a b x q l s => some (2852127040 + d.val * 1048576 + a.val * 32768 + b.val * 1024 + bit x * 32 + bit q * 16 + bit l * 8 + s.val)
  | .amomax d a b x q l s => some (2852127104 + d.val * 1048576 + a.val * 32768 + b.val * 1024 + bit x * 32 + bit q * 16 + bit l * 8 + s.val)
  | .amominu d a b x q l s => some (2852127168 + d.val * 1048576 + a.val * 32768 + b.val * 1024 + bit x * 32 + bit q * 16 + bit l * 8 + s.val)
  | .amomaxu d a b x q l s => some (2852127232 + d.val * 1048576 + a.val * 32768 + b.val * 1024 + bit x * 32 + bit q * 16 + bit l * 8 + s.val)
  | .amocas d a b x q l s => some (2852127296 + d.val * 1048576 + a.val * 32768 + b.val * 1024 + bit x * 32 + bit q * 16 + bit l * 8 + s.val)
  | .loop k a i => some (2885681152 + k.val * 1048576 + a.val * 32768 + i.val)
  | .ecall => some (2919235584)
  | .ebreak => some (2919235585)
  | .tret => some (2919235586)
  | .park => some (2919235587)
  | .wsw a => some (2919235588 + a.val * 32768)
  | .mvlc k a => some (2919235589 + k.val * 1048576 + a.val * 32768)
  | .fenceSv s => some (2919235840 + s.val)
  | .fenceVs s => some (2919235848 + s.val)
  | .fenceVv s => some (2919235856 + s.val)
  | .fenceAll s => some (2919235864 + s.val)
  | .csrr d c => some (2952790016 + d.val * 1048576 + c.val)
  | .csrw d a c => some (2952794112 + d.val * 1048576 + a.val * 32768 + c.val)
  | .csrs d a c => some (2952798208 + d.val * 1048576 + a.val * 32768 + c.val)
  | .csrc d a c => some (2952802304 + d.val * 1048576 + a.val * 32768 + c.val)
  | .tlbinvAll _ => none
  | .tlbinvPage _ => none
  | .preqWrite _ => none
  | .victqWrite _ => none
  | .ggroupWrite _ => none
  | .setvl d a v => some (3221225472 + d.val * 1048576 + a.val * 32768 + v.val)
  | .laneGroupGrant _ => none
  | .laneGroupScrubbed _ _ => none
  | .vbany m o => some (3254779904 + m.val * 1048576 + o.val)
  | .vbnone m o => some (3288334336 + m.val * 1048576 + o.val)
  | .vbranchResolve _ => none
  | .vadd e d a b p s => some (1174405120 + bit e * 2147483648 + d.val * 1048576 + a.val * 32768 + b.val * 1024 + p.val * 128 + bit s * 64)
  | .vsub e d a b p s => some (1174405121 + bit e * 2147483648 + d.val * 1048576 + a.val * 32768 + b.val * 1024 + p.val * 128 + bit s * 64)
  | .vrsub e d a b p s => some (1174405122 + bit e * 2147483648 + d.val * 1048576 + a.val * 32768 + b.val * 1024 + p.val * 128 + bit s * 64)
  | .vmul e d a b p s => some (1174405123 + bit e * 2147483648 + d.val * 1048576 + a.val * 32768 + b.val * 1024 + p.val * 128 + bit s * 64)
  | .vmulh e d a b p s => some (1174405124 + bit e * 2147483648 + d.val * 1048576 + a.val * 32768 + b.val * 1024 + p.val * 128 + bit s * 64)
  | .vmulhu e d a b p s => some (1174405125 + bit e * 2147483648 + d.val * 1048576 + a.val * 32768 + b.val * 1024 + p.val * 128 + bit s * 64)
  | .vand e d a b p s => some (1174405126 + bit e * 2147483648 + d.val * 1048576 + a.val * 32768 + b.val * 1024 + p.val * 128 + bit s * 64)
  | .vor e d a b p s => some (1174405127 + bit e * 2147483648 + d.val * 1048576 + a.val * 32768 + b.val * 1024 + p.val * 128 + bit s * 64)
  | .vxor e d a b p s => some (1174405128 + bit e * 2147483648 + d.val * 1048576 + a.val * 32768 + b.val * 1024 + p.val * 128 + bit s * 64)
  | .vsll e d a b p s => some (1174405129 + bit e * 2147483648 + d.val * 1048576 + a.val * 32768 + b.val * 1024 + p.val * 128 + bit s * 64)
  | .vsrl e d a b p s => some (1174405130 + bit e * 2147483648 + d.val * 1048576 + a.val * 32768 + b.val * 1024 + p.val * 128 + bit s * 64)
  | .vsra e d a b p s => some (1174405131 + bit e * 2147483648 + d.val * 1048576 + a.val * 32768 + b.val * 1024 + p.val * 128 + bit s * 64)
  | .vmin e d a b p s => some (1174405132 + bit e * 2147483648 + d.val * 1048576 + a.val * 32768 + b.val * 1024 + p.val * 128 + bit s * 64)
  | .vmax e d a b p s => some (1174405133 + bit e * 2147483648 + d.val * 1048576 + a.val * 32768 + b.val * 1024 + p.val * 128 + bit s * 64)
  | .vminu e d a b p s => some (1174405134 + bit e * 2147483648 + d.val * 1048576 + a.val * 32768 + b.val * 1024 + p.val * 128 + bit s * 64)
  | .vmaxu e d a b p s => some (1174405135 + bit e * 2147483648 + d.val * 1048576 + a.val * 32768 + b.val * 1024 + p.val * 128 + bit s * 64)
  | .vsadd e d a b p s => some (1174405136 + bit e * 2147483648 + d.val * 1048576 + a.val * 32768 + b.val * 1024 + p.val * 128 + bit s * 64)
  | .vssub e d a b p s => some (1174405137 + bit e * 2147483648 + d.val * 1048576 + a.val * 32768 + b.val * 1024 + p.val * 128 + bit s * 64)
  | .vsaddu e d a b p s => some (1174405138 + bit e * 2147483648 + d.val * 1048576 + a.val * 32768 + b.val * 1024 + p.val * 128 + bit s * 64)
  | .vssubu e d a b p s => some (1174405139 + bit e * 2147483648 + d.val * 1048576 + a.val * 32768 + b.val * 1024 + p.val * 128 + bit s * 64)
  | .vmerge e d a b p s => some (1174405140 + bit e * 2147483648 + d.val * 1048576 + a.val * 32768 + b.val * 1024 + p.val * 128 + bit s * 64)
  | .vmv e d b p s => some (1174405141 + bit e * 2147483648 + d.val * 1048576 + b.val * 1024 + p.val * 128 + bit s * 64)
  | .vid e d p => some (1174405142 + bit e * 2147483648 + d.val * 1048576 + p.val * 128)
  | .vcmpeq e d a b p s => some (1174405152 + bit e * 2147483648 + d.val * 1048576 + a.val * 32768 + b.val * 1024 + p.val * 128 + bit s * 64)
  | .vcmpne e d a b p s => some (1174405153 + bit e * 2147483648 + d.val * 1048576 + a.val * 32768 + b.val * 1024 + p.val * 128 + bit s * 64)
  | .vcmplt e d a b p s => some (1174405154 + bit e * 2147483648 + d.val * 1048576 + a.val * 32768 + b.val * 1024 + p.val * 128 + bit s * 64)
  | .vcmpltu e d a b p s => some (1174405155 + bit e * 2147483648 + d.val * 1048576 + a.val * 32768 + b.val * 1024 + p.val * 128 + bit s * 64)
  | .vcmple e d a b p s => some (1174405156 + bit e * 2147483648 + d.val * 1048576 + a.val * 32768 + b.val * 1024 + p.val * 128 + bit s * 64)
  | .vcmpleu e d a b p s => some (1174405157 + bit e * 2147483648 + d.val * 1048576 + a.val * 32768 + b.val * 1024 + p.val * 128 + bit s * 64)
  | .vfadd e d a b p s => some (1207959552 + bit e * 2147483648 + d.val * 1048576 + a.val * 32768 + b.val * 1024 + p.val * 128 + bit s * 64)
  | .vfsub e d a b p s => some (1207959553 + bit e * 2147483648 + d.val * 1048576 + a.val * 32768 + b.val * 1024 + p.val * 128 + bit s * 64)
  | .vfmul e d a b p s => some (1207959554 + bit e * 2147483648 + d.val * 1048576 + a.val * 32768 + b.val * 1024 + p.val * 128 + bit s * 64)
  | .vfma e d a b p s => some (1207959555 + bit e * 2147483648 + d.val * 1048576 + a.val * 32768 + b.val * 1024 + p.val * 128 + bit s * 64)
  | .vfmin e d a b p s => some (1207959556 + bit e * 2147483648 + d.val * 1048576 + a.val * 32768 + b.val * 1024 + p.val * 128 + bit s * 64)
  | .vfmax e d a b p s => some (1207959557 + bit e * 2147483648 + d.val * 1048576 + a.val * 32768 + b.val * 1024 + p.val * 128 + bit s * 64)
  | .vfcmpeq e d a b p s => some (1207959560 + bit e * 2147483648 + d.val * 1048576 + a.val * 32768 + b.val * 1024 + p.val * 128 + bit s * 64)
  | .vfcmplt e d a b p s => some (1207959561 + bit e * 2147483648 + d.val * 1048576 + a.val * 32768 + b.val * 1024 + p.val * 128 + bit s * 64)
  | .vfcmple e d a b p s => some (1207959562 + bit e * 2147483648 + d.val * 1048576 + a.val * 32768 + b.val * 1024 + p.val * 128 + bit s * 64)
  | .vfcvtif e d a p => some (1207959564 + bit e * 2147483648 + d.val * 1048576 + a.val * 32768 + p.val * 128)
  | .vfcvtfi e d a p => some (1207959565 + bit e * 2147483648 + d.val * 1048576 + a.val * 32768 + p.val * 128)
  | .vslideup e d a b p => some (1241513984 + bit e * 2147483648 + d.val * 1048576 + a.val * 32768 + b.val * 1024 + p.val * 128)
  | .vslidedn e d a b p => some (1241513985 + bit e * 2147483648 + d.val * 1048576 + a.val * 32768 + b.val * 1024 + p.val * 128)
  | .vshuf e d a b p => some (1241513986 + bit e * 2147483648 + d.val * 1048576 + a.val * 32768 + b.val * 1024 + p.val * 128)
  | .vcompress e d a b p => some (1241513987 + bit e * 2147483648 + d.val * 1048576 + a.val * 32768 + b.val * 1024 + p.val * 128)
  | .vexpand e d a b p => some (1241513988 + bit e * 2147483648 + d.val * 1048576 + a.val * 32768 + b.val * 1024 + p.val * 128)
  | .vredsum e d a b p => some (1241513989 + bit e * 2147483648 + d.val * 1048576 + a.val * 32768 + b.val * 1024 + p.val * 128)
  | .vredmax e d a b p => some (1241513990 + bit e * 2147483648 + d.val * 1048576 + a.val * 32768 + b.val * 1024 + p.val * 128)
  | .vredmin e d a b p => some (1241513991 + bit e * 2147483648 + d.val * 1048576 + a.val * 32768 + b.val * 1024 + p.val * 128)
  | .vredand e d a b p => some (1241513992 + bit e * 2147483648 + d.val * 1048576 + a.val * 32768 + b.val * 1024 + p.val * 128)
  | .vredor e d a b p => some (1241513993 + bit e * 2147483648 + d.val * 1048576 + a.val * 32768 + b.val * 1024 + p.val * 128)
  | .vmfirst e d a p => some (1241513994 + bit e * 2147483648 + d.val * 1048576 + a.val * 32768 + p.val * 128)
  | .vmpopc e d a p => some (1241513995 + bit e * 2147483648 + d.val * 1048576 + a.val * 32768 + p.val * 128)
  | .vmand e d a b p => some (1241513996 + bit e * 2147483648 + d.val * 1048576 + a.val * 32768 + b.val * 1024 + p.val * 128)
  | .vmor e d a b p => some (1241513997 + bit e * 2147483648 + d.val * 1048576 + a.val * 32768 + b.val * 1024 + p.val * 128)
  | .vmxor e d a b p => some (1241513998 + bit e * 2147483648 + d.val * 1048576 + a.val * 32768 + b.val * 1024 + p.val * 128)
  | .vmnot e d a p => some (1241513999 + bit e * 2147483648 + d.val * 1048576 + a.val * 32768 + p.val * 128)
  | .vmvxs e d a b => some (1241514000 + bit e * 2147483648 + d.val * 1048576 + a.val * 32768 + b.val * 1024)
  | .vsplat e d a p => some (1241514001 + bit e * 2147483648 + d.val * 1048576 + a.val * 32768 + p.val * 128)
  | .vnarrow e d a b p => some (1275068416 + bit e * 2147483648 + d.val * 1048576 + a.val * 32768 + b.val * 1024 + p.val * 128)
  | .vwiden e d a b p => some (1275068417 + bit e * 2147483648 + d.val * 1048576 + a.val * 32768 + b.val * 1024 + p.val * 128)
  | .vscale e d a p => some (1275068418 + bit e * 2147483648 + d.val * 1048576 + a.val * 32768 + p.val * 128)
  | .vmadd e d a b p q => some (1308622848 + bit e * 2147483648 + d.val * 1048576 + a.val * 32768 + b.val * 1024 + p.val * 128 + q.val * 32)
  | .vmsub e d a b p q => some (1308622849 + bit e * 2147483648 + d.val * 1048576 + a.val * 32768 + b.val * 1024 + p.val * 128 + q.val * 32)
  | .vmmul e d a b p q => some (1308622850 + bit e * 2147483648 + d.val * 1048576 + a.val * 32768 + b.val * 1024 + p.val * 128 + q.val * 32)
  | .vmmac e d a b p q => some (1308622851 + bit e * 2147483648 + d.val * 1048576 + a.val * 32768 + b.val * 1024 + p.val * 128 + q.val * 32)
  | .vmneg e d a p q => some (1308622852 + bit e * 2147483648 + d.val * 1048576 + a.val * 32768 + p.val * 128 + q.val * 32)
  | .vmred e d a p q => some (1308622853 + bit e * 2147483648 + d.val * 1048576 + a.val * 32768 + p.val * 128 + q.val * 32)
  | .vbfly e d a b p q => some (1308622854 + bit e * 2147483648 + d.val * 1048576 + a.val * 32768 + b.val * 1024 + p.val * 128 + q.val * 32)
  | .vibfly e d a b p q => some (1308622855 + bit e * 2147483648 + d.val * 1048576 + a.val * 32768 + b.val * 1024 + p.val * 128 + q.val * 32)
  | .vnegrot e d a b p q => some (1308622856 + bit e * 2147483648 + d.val * 1048576 + a.val * 32768 + b.val * 1024 + p.val * 128 + q.val * 32)
  | .vauto e d a b p q => some (1308622857 + bit e * 2147483648 + d.val * 1048576 + a.val * 32768 + b.val * 1024 + p.val * 128 + q.val * 32)
  | .vdecomp e d a b p q => some (1308622858 + bit e * 2147483648 + d.val * 1048576 + a.val * 32768 + b.val * 1024 + p.val * 128 + q.val * 32)
  | .vmswitch e d a b p q => some (1308622859 + bit e * 2147483648 + d.val * 1048576 + a.val * 32768 + b.val * 1024 + p.val * 128 + q.val * 32)
  | .vld e d a p o => some (1342177280 + bit e * 2147483648 + d.val * 1048576 + a.val * 32768 + p.val * 128 + bit o * 8)
  | .vlds e d a b p o => some (1342177281 + bit e * 2147483648 + d.val * 1048576 + a.val * 32768 + b.val * 1024 + p.val * 128 + bit o * 8)
  | .vldx e d a b p o => some (1342177282 + bit e * 2147483648 + d.val * 1048576 + a.val * 32768 + b.val * 1024 + p.val * 128 + bit o * 8)
  | .vldff e d a p o => some (1342177283 + bit e * 2147483648 + d.val * 1048576 + a.val * 32768 + p.val * 128 + bit o * 8)
  | .vldb e d a b p o => some (1342177284 + bit e * 2147483648 + d.val * 1048576 + a.val * 32768 + b.val * 1024 + p.val * 128 + bit o * 8)
  | .vst e d a p o => some (1375731712 + bit e * 2147483648 + d.val * 1048576 + a.val * 32768 + p.val * 128 + bit o * 8)
  | .vsts e d a b p o => some (1375731713 + bit e * 2147483648 + d.val * 1048576 + a.val * 32768 + b.val * 1024 + p.val * 128 + bit o * 8)
  | .vstx e d a b p o => some (1375731714 + bit e * 2147483648 + d.val * 1048576 + a.val * 32768 + b.val * 1024 + p.val * 128 + bit o * 8)
  | .vstb e d a b p o => some (1375731716 + bit e * 2147483648 + d.val * 1048576 + a.val * 32768 + b.val * 1024 + p.val * 128 + bit o * 8)
  | .vspill s a => some (3556769792 + s.val * 1048576 + a.val * 32768)
  | .vfill d a => some (3556769793 + d.val * 1048576 + a.val * 32768)
  | .vamoadd d a b p q l s => some (3590324224 + d.val * 1048576 + a.val * 32768 + b.val * 1024 + p.val * 128 + bit q * 8 + bit l * 4 + s.val)
  | .vamoand d a b p q l s => some (3590324240 + d.val * 1048576 + a.val * 32768 + b.val * 1024 + p.val * 128 + bit q * 8 + bit l * 4 + s.val)
  | .vamoor d a b p q l s => some (3590324256 + d.val * 1048576 + a.val * 32768 + b.val * 1024 + p.val * 128 + bit q * 8 + bit l * 4 + s.val)
  | .vamoxor d a b p q l s => some (3590324272 + d.val * 1048576 + a.val * 32768 + b.val * 1024 + p.val * 128 + bit q * 8 + bit l * 4 + s.val)
  | .vamomin d a b p q l s => some (3590324288 + d.val * 1048576 + a.val * 32768 + b.val * 1024 + p.val * 128 + bit q * 8 + bit l * 4 + s.val)
  | .vamomax d a b p q l s => some (3590324304 + d.val * 1048576 + a.val * 32768 + b.val * 1024 + p.val * 128 + bit q * 8 + bit l * 4 + s.val)
  | .vamominu d a b p q l s => some (3590324320 + d.val * 1048576 + a.val * 32768 + b.val * 1024 + p.val * 128 + bit q * 8 + bit l * 4 + s.val)
  | .vamoswap d a b p q l s => some (3590324336 + d.val * 1048576 + a.val * 32768 + b.val * 1024 + p.val * 128 + bit q * 8 + bit l * 4 + s.val)
  | .vamooadd d a b p q l s => some (3623878656 + d.val * 1048576 + a.val * 32768 + b.val * 1024 + p.val * 128 + bit q * 8 + bit l * 4 + s.val)
  | .vamooand d a b p q l s => some (3623878672 + d.val * 1048576 + a.val * 32768 + b.val * 1024 + p.val * 128 + bit q * 8 + bit l * 4 + s.val)
  | .vamooor d a b p q l s => some (3623878688 + d.val * 1048576 + a.val * 32768 + b.val * 1024 + p.val * 128 + bit q * 8 + bit l * 4 + s.val)
  | .vamooxor d a b p q l s => some (3623878704 + d.val * 1048576 + a.val * 32768 + b.val * 1024 + p.val * 128 + bit q * 8 + bit l * 4 + s.val)
  | .vamoomin d a b p q l s => some (3623878720 + d.val * 1048576 + a.val * 32768 + b.val * 1024 + p.val * 128 + bit q * 8 + bit l * 4 + s.val)
  | .vamoomax d a b p q l s => some (3623878736 + d.val * 1048576 + a.val * 32768 + b.val * 1024 + p.val * 128 + bit q * 8 + bit l * 4 + s.val)
  | .vamoominu d a b p q l s => some (3623878752 + d.val * 1048576 + a.val * 32768 + b.val * 1024 + p.val * 128 + bit q * 8 + bit l * 4 + s.val)
  | .vamooswap d a b p q l s => some (3623878768 + d.val * 1048576 + a.val * 32768 + b.val * 1024 + p.val * 128 + bit q * 8 + bit l * 4 + s.val)
  | .vwaiteq d a b p s => some (3657433088 + d.val * 1048576 + a.val * 32768 + b.val * 1024 + p.val * 128 + s.val)
  | .vwaitne d a b p s => some (3657433104 + d.val * 1048576 + a.val * 32768 + b.val * 1024 + p.val * 128 + s.val)
  | .vwaitlt d a b p s => some (3657433120 + d.val * 1048576 + a.val * 32768 + b.val * 1024 + p.val * 128 + s.val)
  | .vwaitltu d a b p s => some (3657433136 + d.val * 1048576 + a.val * 32768 + b.val * 1024 + p.val * 128 + s.val)
  | .vwaitge d a b p s => some (3657433152 + d.val * 1048576 + a.val * 32768 + b.val * 1024 + p.val * 128 + s.val)
  | .vwaitgeu d a b p s => some (3657433168 + d.val * 1048576 + a.val * 32768 + b.val * 1024 + p.val * 128 + s.val)
  | .vwaitComplete _ => none
  | .mmode a => some (3758096384 + a.val * 32768)
  | .matrixClaimGrant _ => none
  | .mzero t => some (3758096385 + t.val * 1048576)
  | .msave t a => some (3758096386 + t.val * 1048576 + a.val * 32768)
  | .mrstr t a => some (3758096387 + t.val * 1048576 + a.val * 32768)
  | .mopa t k a j b r l => some (3791650816 + t.val * 16777216 + bit k * 8388608 + a.val * 262144 + bit j * 131072 + b.val * 4096 + r.val * 256 + bit l * 128)
  | .mops t k a j b r l => some (3791650880 + t.val * 16777216 + bit k * 8388608 + a.val * 262144 + bit j * 131072 + b.val * 4096 + r.val * 256 + bit l * 128)
  | .mdrain e d t b => some (1677721600 + bit e * 2147483648 + d.val * 1048576 + t.val * 32768 + b.val * 1024)
  | .mdrainc e d t b => some (1677721601 + bit e * 2147483648 + d.val * 1048576 + t.val * 32768 + b.val * 1024)
  | .mfill t a b => some (3825205250 + t.val * 1048576 + a.val * 32768 + b.val * 1024)
  | .pcfgBase p a => some (3858759680 + p.val * 1048576 + a.val * 32768)
  | .pcfgDim p a b => some (3858759681 + p.val * 1048576 + a.val * 32768 + b.val * 1024)
  | .pclr p => some (3858759682 + p.val * 1048576)
  | .cload d x => some (3892314112 + d.val * 2097152 + x.val * 256)
  | .cstore a x => some (3892314113 + a.val * 131072 + x.val * 256)
  | .cadd d a b => some (3892314114 + d.val * 2097152 + a.val * 131072 + b.val * 8192)
  | .csub d a b => some (3892314115 + d.val * 2097152 + a.val * 131072 + b.val * 8192)
  | .cneg d a => some (3892314116 + d.val * 2097152 + a.val * 131072)
  | .cmulp d a x => some (3892314117 + d.val * 2097152 + a.val * 131072 + x.val * 256)
  | .caddp d a x => some (3892314118 + d.val * 2097152 + a.val * 131072 + x.val * 256)
  | .cmacc d a x => some (3892314119 + d.val * 2097152 + a.val * 131072 + x.val * 256)
  | .cmodsw d a => some (3892314120 + d.val * 2097152 + a.val * 131072)
  | .ckeysw d a => some (3892314121 + d.val * 2097152 + a.val * 131072)
  | .cbudget a x => some (3892314122 + a.val * 131072 + x.val * 256)
  | .chdrLo a x => some (3892314123 + a.val * 131072 + x.val * 256)
  | .chdrHi a x => some (3892322315 + a.val * 131072 + x.val * 256)
  | .cinv d => some (3892314124 + d.val * 2097152)
  | .cmov d a => some (3892314125 + d.val * 2097152 + a.val * 131072)
  | .cimport d x => some (3892314126 + d.val * 2097152 + x.val * 256)
  | .cref d a t => some (3925868544 + d.val * 2097152 + a.val * 131072 + t.val * 8192)
  | .crgo => some (3925868545)
  | .crwait => some (3925868546)
  | .passFormingEnd _ _ => none
  | .halyardSubscribe _ _ => none
  | .halyardElementIssue _ _ => none
  | .keyElementArrival _ _ => none
  | .keyPassEnd _ _ => none
  | .kbind k a => some (3959422976 + k.val * 1048576 + a.val * 32768)
  | .kunbind k => some (3959422977 + k.val * 1048576)
  | .tload t a k => some (3959422978 + t.val * 1048576 + a.val * 32768 + k.val * 1024)
  | .tclr t => some (3959422979 + t.val * 1048576)
  | .qmset j a => some (3959422980 + j.val * 1048576 + a.val * 32768)
  | .sopen k a => some (3992977408 + k.val * 1048576 + a.val * 32768)
  | .srun k => some (3992977409 + k.val * 1048576)
  | .swait k => some (3992977410 + k.val * 1048576)
  | .ssave k a => some (3992977411 + k.val * 1048576 + a.val * 32768)
  | .streamElementComplete _ _ => none
  | .cpy d a b => some (4026531840 + d.val * 1048576 + a.val * 32768 + b.val * 1024)
  | .cpy2d d a b => some (4026531841 + d.val * 1048576 + a.val * 32768 + b.val * 1024)
  | .puts d a b => some (4026531842 + d.val * 1048576 + a.val * 32768 + b.val * 1024)
  | .cpyb d a b => some (4026531843 + d.val * 1048576 + a.val * 32768 + b.val * 1024)
  | .copyComplete _ _ => none
  | .putsSignal _ _ => none
  | .cpybDeposit _ _ => none
  | .engineFault _ => none
  | .binit a b => some (4060086272 + a.val * 32768 + b.val * 1024)
  | .barv a => some (4060086273 + a.val * 32768)
  | .bard a => some (4060086274 + a.val * 32768)
  | .bexp a b => some (4060086275 + a.val * 32768 + b.val * 1024)
  | .bwait a b => some (4060086276 + a.val * 32768 + b.val * 1024)
  | .btest d a => some (4060086277 + d.val * 1048576 + a.val * 32768)
  | .bwaitComplete _ => none
  | .sbind d a => some (4093640704 + d.val * 1048576 + a.val * 32768)
  | .sunbind d => some (4093640705 + d.val * 1048576)
  | .streamRegisterFetch _ _ => none
  | .galloc d a b => some (4093640706 + d.val * 1048576 + a.val * 32768 + b.val * 1024)
  | .gfree a b => some (4093640707 + a.val * 32768 + b.val * 1024)
  | .reef a => some (4093640708 + a.val * 32768)
  | .wqry a b => some (4127195136 + a.val * 32768 + b.val * 1024)
  | .wpush a b => some (4127195137 + a.val * 32768 + b.val * 1024)
  | .wdone => some (4127195138)
  | .farm d a b => some (4127195139 + d.val * 1048576 + a.val * 32768 + b.val * 1024)
  | .fstrip d a => some (4127195140 + d.val * 1048576 + a.val * 32768)
  | .wqryAnswer _ _ => none
  | .apxb r l => some (4160749568 + r.val * 1048576 + l.val)
  | .apxe r => some (4194304000 + r.val * 1048576)
  | .apxinv r => some (4194304001 + r.val * 1048576)
  | .fsave a => some (4194304002 + a.val * 32768)
  | .frstr a => some (4194304003 + a.val * 32768)
  | .pfx p d c => some (2113929216 + p.val * 4194304 + d.val * 65536 + bit c * 32768)
  | .pfxn p d c => some (2116026368 + p.val * 4194304 + d.val * 65536 + bit c * 32768)
  | .vectorConvoyStart _ => none
  | .replyWrite _ => none
  | .vectorSideFault _ _ _ _ => none
  | .preemption _ => none
  | .clockGroupEvent _ => none
  | .linkEvent _ => none
  | .parkWake _ => none
  | .parkTimeout _ => none
  | .postLaunchRecord _ _ _ _ => none
  | .takeLaunchRecord _ _ => none
  | .dependenceSatisfied _ _ => none
  | .shadowSlotFill _ _ _ => none
  | .bindHart _ => none
  | .hartRetirement _ => none
  | .doneaddrResend _ => none
  | .tokenBucketRefill _ => none
  | .governorPeriod _ => none
  | .partitionBlockWrite _ _ _ _ => none
  | .lockedLoadRedirect _ => none
  | .replicaLockTimeout _ => none
  | .remoteTimeout _ => none
  | .memoryLinkDown _ => none
  | .laneRetirement _ _ => none
  | .grottoSwitchLost _ _ => none
  | .grottoSwitchReturn _ _ => none
  | .mirrorResyncComplete _ _ => none
  | .grottoUnitZero _ _ => none
  | .flitReceive _ _ => none
  | .flitRetryRequest _ _ => none
  | .portRekey _ => none
  | .keySwitchoverRequest _ => none
  | .linkKeyInstall _ _ _ _ _ => none
  | .keyCounterExhausted _ => none
  | .portUp _ => none
  | .timeBeacon _ => none
  | .ownLimitChange _ _ => none
  | .reefNotice _ _ _ _ => none
  | .reefNoticeEffective _ => none
  | .shakeoutProposal _ _ => none
  | .shakeoutAnswer _ _ _ => none
  | .shakeoutCommit _ _ _ => none
  | .shakeoutCommitEffective _ => none
  | .heartbeatSend _ => none
  | .heartbeat _ _ _ => none
  | .joinRequest _ _ _ => none
  | .joinAnswer _ _ _ _ _ => none
  | .joinTimeout _ => none
  | .leaveMessage _ _ => none
  | .memberSilence _ _ => none
  | .memberEviction _ _ => none
  | .attest _ => none
  | .ctxopen _ => none
  | .ctxshare _ => none
  | .ctxend _ => none
  | .contextErase _ => none
  | .wbind _ => none
  | .ctxexport _ => none
  | .ctxaccept _ => none
  | .migrationConfirmation _ _ => none
  | .confirmationResend _ => none
  | .fwstage _ => none
  | .fwact _ => none
  | .fwActivationComplete _ => none
  | .deviceReset => none
  | .solitaryLimitEffective _ => none
  | .pageMigration _ _ _ _ => none
  | .remoteEndpointAccess _ _ _ _ => none

end Sys2Proof

end
end

