-- ==== Sys2Proof/Config.lean ====
section
/-!
DEFINITION. What an implementation of the ZH96 fixes and the spec leaves open: free values (constants without a
body, indexed by a counter or by the data they depend on) and the cryptographic functions the spec names without
defining them (SM3, SM2, AES: 15_trust.md R335 to R346). Nothing in the model can see a value of any of them.
-/
namespace Sys2Proof.Config

/-- R312, R322: nanoseconds that pass in one step; any value (DESIGN CHOICE, notes/assumptions/6.md). -/
opaque timeElapse : Nat → BitVec 16
/-- R312: cycles of the focused core that pass in one step (DESIGN CHOICE, notes/assumptions/6.md). -/
opaque cycleElapse : Nat → BitVec 64
/-- R312, R349: the value of the domain's time reference when TIME locks. -/
opaque timeAtLock : Nat → BitVec 64
/-- R116, R118: whether a cached translation that differs from the tables is still used (DESIGN CHOICE, notes/assumptions/5.md). -/
opaque tlbHit : Nat → Bool
/-- R193, R206, R209: an element whose value depends on timing (DESIGN CHOICE, notes/assumptions/7.md). -/
opaque timingElement : Nat → Nat → BitVec 64
/-- R135, R258: the order key with which an element of a VAMO arrives at its memory port (DESIGN CHOICE, notes/assumptions/8.md). -/
opaque arrivalKey : Nat → Nat → Nat
/-- R311: picojoules of the work of one hart or engine in one step (DESIGN CHOICE, notes/assumptions/9.md). -/
opaque workEnergy : Nat → Nat
/-- R311: picojoules of static energy of each bound hart of a core in one step (DESIGN CHOICE, notes/assumptions/9.md). -/
opaque staticEnergy : Nat → Nat → Nat
/-- R311: picojoules of a Halyard pass for each accumulator in one step (DESIGN CHOICE, notes/assumptions/9.md). -/
opaque passEnergy : Nat → Nat
/-- R13: whether a cached instruction word that differs from memory is still used (DESIGN CHOICE, notes/assumptions/5.md). -/
opaque cacheHit : Nat → Bool
/-- R345: the memory key drawn at a reset. -/
opaque memoryKey : Nat → List Byte
/-- R345: one byte of the pad of a block of main memory, from key, address, version and position. -/
opaque blockPad : List Byte → Nat → Nat → Nat → Byte
/-- R345: the GMAC tag of a block of main memory, from key, address, version and the block as stored. -/
opaque blockTag : List Byte → Nat → Nat → List Byte → BitVec 64
/-- R345: the tag of a node of the version tree, from key, level, place and the eight values below it. -/
opaque nodeTag : List Byte → Nat → Nat → List Nat → BitVec 64
/-- R273: whether the stream engine fetches a strip ahead (DESIGN CHOICE, notes/assumptions/58.md). -/
opaque fetchAhead : Nat → Bool
/-- R37: whether the scalar side of a hart runs ahead of its vector side in a turn (DESIGN CHOICE, notes/assumptions/58.md). -/
opaque runAhead : Nat → Bool
/-- R163, R295: whether the scalar side, where it runs ahead, puts off the accesses that it issues in a turn
(DESIGN CHOICE, notes/assumptions/72.md). -/
opaque putsOff : Nat → Bool
/-- R380: whether the scalar side has its turn while a convoy of the hart is under way (DESIGN CHOICE, notes/assumptions/58.md). -/
opaque pauses : Nat → Bool
/-- R380: the element, step or row at which a trap, or the hart's turn, finds what runs (DESIGN CHOICE, notes/assumptions/58.md). -/
opaque stopPoint : Nat → Nat
/-- R424: whether a remote store or atomic that timed out was performed (DESIGN CHOICE, notes/assumptions/38.md). -/
opaque performedAnyway : Nat → Bool
/-- R55: the entry of the trap handler of the firmware with a digest (DESIGN CHOICE, notes/assumptions/11.md). -/
opaque firmwareHandler : List Byte → BitVec 64
/-- The SM3 digest of a byte string (DESIGN CHOICE, notes/assumptions/10.md). -/
opaque sm3Digest : List Byte → Vector Byte 32
/-- The 32 bytes of a digest. -/
def sm3 (message : List Byte) : List Byte := (sm3Digest message).toList
/-- HMAC-SM3 of a message under a key. -/
opaque hmacTag : List Byte → List Byte → Vector Byte 32
/-- The 32 bytes of a MAC. -/
def hmacSm3 (key message : List Byte) : List Byte := (hmacTag key message).toList
/-- SM2: whether a signature over a digest verifies under a public key. -/
opaque sm2Verify : List Byte → List Byte → List Byte → Bool
/-- SM2: the 64-byte signature of a digest under a private key. -/
opaque sm2Signature : List Byte → List Byte → Vector Byte 64
/-- The 64 bytes of a signature. -/
def sm2Sign (key digest : List Byte) : List Byte := (sm2Signature key digest).toList
/-- SM2: decryption under a private key; none where the unwrapping fails. -/
opaque sm2Decrypt : List Byte → List Byte → Option (List Byte)
/-- R348: SM2 encryption of a migration package to a public key, as a mailbox slot carries it beside a key and a signature
(DESIGN CHOICE, notes/assumptions/36.md). -/
opaque packageBody : List Byte → List Byte → Vector Byte 3904
/-- R335: the on-die physically unclonable function: the device secret for some helper data. -/
opaque reconstruct : List Byte → Vector Byte 32
/-- SM2: the private key that the key derivation function gives for a secret and a label. -/
opaque sm2Derive : List Byte → List Byte → Vector Byte 32
/-- SM2: the public key of a private key. -/
opaque sm2Public : List Byte → Vector Byte 64
/-- R338: the SM3 digest of the boot ROM. -/
opaque bootRomDigest : List Byte
/-- R336: Felmund's public key. -/
opaque felmundPublic : List Byte
/-- R342: the random value world 0's keys take at a reset. -/
opaque resetRandom : Nat → Vector Byte 32
/-- R337: the id that a new confidential context receives. -/
opaque contextId : Nat → BitVec 64
/-- R341: the digest of the identity of the accelerator at an endpoint. -/
opaque endpointIdentity : Nat → List Byte
/-- R346: one byte of the pad of a remote line, from key, line address, version and position. -/
opaque linePad : List Byte → Nat → Nat → Nat → Byte
/-- R346: the tag of a remote line, from key, line address, version and plaintext. -/
opaque lineTag : List Byte → Nat → Nat → List Byte → Nat
/-- R320: the AES-256-GCM tag of a flit, from key, IV, authenticated bytes and payload as carried. -/
opaque flitTagBytes : Nat → List Byte → List Byte → List Byte → Vector Byte 16
/-- The 16 bytes of a flit's tag. -/
def flitTag (key : Nat) (iv aad payload : List Byte) : List Byte := (flitTagBytes key iv aad payload).toList
/-- R320: one byte of the AES-256-GCM key stream of a flit, from key, IV and position. -/
opaque flitPad : Nat → List Byte → Nat → Byte
/-- R340: how many nanoseconds a live activation lasts (DESIGN CHOICE, notes/assumptions/75.md). -/
opaque activationTime : Nat → Nat
/-- R340, R438: whether a live activation succeeds (DESIGN CHOICE, notes/assumptions/75.md). -/
opaque activates : Nat → Bool
/-- R318: the payload of the head of a packet toward a key of another endpoint (DESIGN CHOICE, notes/assumptions/37.md). -/
opaque packet : Nat → Nat → Bool → Vector Byte 224
/-- R318: whether an access of an engine or stream begins a packet (DESIGN CHOICE, notes/assumptions/37.md). -/
opaque packetStarts : Nat → Nat → Bool
/-- R318: whether a flit time of a port passes in a step (DESIGN CHOICE, notes/assumptions/37.md). -/
opaque flitSent : Nat → Nat → Bool
/-- R430, R349: a fresh link key or salt agreed by the trust controllers. -/
opaque freshLinkKey : Nat → Nat
/-- R347: the measurement in the report of the leaf switch of a pod and plane. -/
opaque leafMeasurement : Nat → Nat → List Byte
/-- R347: the public identity key of a leaf switch. -/
opaque leafPublic : Nat → Nat → List Byte
/-- R347: the signature of the report of a leaf switch. -/
opaque leafSignature : Nat → Nat → List Byte

end Sys2Proof.Config
end

