-- ==== Sys2Proof/Machine/State.lean ====
section
/-!
DEFINITION. The state of the ZH96 as plain data: the running hart, its core and its die in focus, the other harts,
cores and dies beside them, the device, memory, the events that are due, and the state after reset. Every piece of
state the spec names has one field; INVENTORY.md lists each with its rule and reset value.
-/
namespace Sys2Proof.Machine

/-- R155: HSTAT.PRIV. The code 2 is never held. -/
inductive Priv where
  | u | s | m
  deriving DecidableEq, Repr

/-- The reasons for which a step could stop with a fault. -/
inductive Fault where
  /-- Raised by nobody: every failure the spec describes is a trap, a wait or a refusal by a unit of the device, each
  of which is a next state (safe). -/
  | none
  deriving DecidableEq, Repr

/-- The reasons for which an instruction has no meaning. -/
inductive Refusal where
  /-- An instruction whose arm of `exec` has no meaning yet (safe). -/
  | notModelled (mnemonic : String)
  deriving DecidableEq, Repr

/-- R377, R420: the trap registers of one privilege. -/
structure TrapRegs where
  tvec : Word := 0
  tcause : Word := 0
  tval : Word := 0
  tpc : Word := 0
  tscratch : Word := 0
  memerr : Word := 0
  deriving DecidableEq, Repr

/-- R42: one hardware loop. `count` is LCk; a dead loop reads 0. -/
structure HwLoop where
  live : Bool := false
  count : Nat := 0
  start : Word := 0
  last : Word := 0
  deriving DecidableEq, Repr

/-- R42 to R44: both loops, and whether LC0's LOOP executed after LC1's (the test order of R43). -/
structure Loops where
  lc0 : HwLoop := {}
  lc1 : HwLoop := {}
  zeroLater : Bool := false
  deriving DecidableEq, Repr

/-- R34, R36: what a PFX lends. -/
structure Lend where
  pm : Fin 8
  neg : Bool
  dc : Fin 32
  cen : Bool
  deriving DecidableEq, Repr

/-- R37: one convoy in the vector queue: its PC, its members with what PFX words lend them, and the X values captured
at dispatch. -/
structure QEntry where
  pc : Word
  members : List (Option Lend × Instr)
  x : List (Nat × Word)
  deriving DecidableEq, Repr

/-- R38: one entry of the reply queue: its destination X registers and, once made, the reply. -/
structure Reply where
  dests : List (Fin 32)
  vals : Option (List Word)
  deriving DecidableEq, Repr

/-- R98, R99: a key set table entry as a slot copies it. -/
structure ParamSet where
  ktag : Nat := 0
  psid : Nat := 0
  valid : Nat := 0
  part : Nat := 0
  logn : Nat := 0
  logp : Nat := 0
  n : Nat := 0
  l : Nat := 0
  beta : Nat := 0
  ell : Nat := 0
  betaks : Nat := 0
  ellks : Nat := 0
  primes : List Nat := []
  nvFresh : Nat := 0
  nvBoot : Nat := 0
  nvKs : Nat := 0
  nvMax : Nat := 0
  nvInmax : Nat := 0
  dms : List Nat := []
  nvms : List Nat := []
  bskLoc : Nat := 0
  kskLoc : Nat := 0
  deriving DecidableEq, Repr

/-- R99: a key slot of a hart. -/
structure KeySlot where
  bound : Bool := false
  handle : Nat := 0
  set : ParamSet := {}
  deriving DecidableEq, Repr

/-- R52: the states of a stream slot. -/
inductive SlotState where
  | empty | opened | running | done
  deriving DecidableEq, Repr

/-- R251: a stream control block. -/
structure Scb where
  kind : Nat := 0
  flags : Nat := 0
  logn : Nat := 0
  wa : Nat := 0
  q : Nat := 0
  psi : Nat := 0
  nin : Nat := 0
  count : Nat := 0
  prog : Nat := 0
  src0 : Word := 0
  str0 : Word := 0
  src1 : Word := 0
  str1 : Word := 0
  dst : Word := 0
  strd : Word := 0
  deriving DecidableEq, Repr

/-- R52: a stream slot. -/
structure StreamSlot where
  state : SlotState := .empty
  scb : Scb := {}
  /-- R296: the place of its SRUN among the transfers and streams of the hart -/
  order : Nat := 0
  /-- R254: the set of the slot that governs its images, found when SRUN first reads them -/
  gov : Option ParamSet := none
  deriving DecidableEq, Repr

/-- R271, R272: a bound stream register. -/
structure Binding where
  v : Fin 32
  base : Word
  estride : Word
  count : Nat
  strip : Nat
  sewc : Nat
  pos : Nat
  fetched : List (List Nat)
  deriving DecidableEq, Repr

/-- R262: the forms of an engine transfer. -/
inductive XferKind where
  | cpy | puts | cpyb
  deriving DecidableEq, Repr

/-- R262 to R266: an engine transfer that has been accepted. CPY2D is a copy of several rows. `priv` and `ptbase` are
those of the hart at the issue; `landed` is set once its bytes have landed. -/
structure Xfer where
  id : Nat
  kind : XferKind
  dst : Word
  src : Word
  len : Nat
  rows : Nat
  dstStride : Word
  srcStride : Word
  side : Word
  dec : Word
  priv : Priv
  ptbase : Word
  world : Nat
  landed : Bool
  deriving DecidableEq, Repr

/-- A trap on its way to delivery: cause and value of R386, and the marks TCAUSE carries (R377). -/
structure Trap where
  cause : Nat
  tval : Word
  vside : Bool := false
  engine : Bool := false
  member : Nat := 0
  memerr : Option Word := none
  engflt : Option Word := none
  /-- R421: the replica, by its descriptor and its copy, that failed on the way and becomes stale -/
  stale : Option (Nat × Nat) := none
  /-- R315: the die that an access came from which another endpoint refused, the virtual channel of its packet, and its place -/
  sent : Option (Nat × Fin 4 × Nat) := none
  deriving DecidableEq, Repr

/-- R423, R424: who of a hart's makes a memory access: its scalar side, its vector side, or the transfer or stream of a
place among the hart's. -/
inductive Waiter where
  | scalar | vector | engine (order : Nat)
  deriving DecidableEq, Repr

/-- R166, R266: what a signal (`sub`) or an atomic makes of the old value. -/
inductive RmwKind where
  | sub | swap | add | and | or | xor | min | max | minu | maxu | cas
  deriving DecidableEq, Repr

/-- R135, R166: one indivisible read and write of `n` bytes, with its operand and the value that a CAS expects. -/
structure Rmw where
  kind : RmwKind
  n : Nat
  b : Nat
  e : Nat := 0
  deriving DecidableEq, Repr

/-- What an access does at its place: bytes that it stores, a read and write whose old value goes to an X register, or a load
of `n` bytes into one, sign-extended or not. -/
inductive Act where
  | store (bytes : List Byte)
  | rmw (m : Rmw) (d : Fin 32)
  | load (n : Nat) (signed : Bool) (d : Fin 32)
  deriving DecidableEq, Repr

/-- R134, R423, R424: an access that waits: the trap it raises once its limit has passed, the TIME of that limit, whether
it reads, whether the limit has passed, whether a load goes to the home instead, and for a remote store or atomic that has been
sent and not answered its address and what it does there. -/
structure MemWait where
  who : Waiter
  trap : Trap
  limit : Nat
  load : Bool
  expired : Bool := false
  redirect : Bool := false
  late : Option (Word × Act) := none
  deriving DecidableEq, Repr

/-- What an access does (R114). -/
inductive AccKind where
  | load | store | atomic | wait | fetch
  deriving DecidableEq, Repr

/-- Who makes it (R119, R122). `port` stands for matrix port reads and stream accesses. -/
inductive Agent where
  | scalar | vector | port | engine
  deriving DecidableEq, Repr

/-- Its bearing on ONCE (R123). -/
inductive Use where
  | sweep | clears | neither
  deriving DecidableEq, Repr

/-- An access: what, by whom, at which privilege, under which tables, for which partition and world; `whole`
lists the ranges of virtual addresses that the same store or copy writes (R419). -/
structure Req where
  kind : AccKind
  agent : Agent
  use : Use
  priv : Priv
  ptbase : Word
  part : Nat
  world : Nat
  hart : Nat
  whole : List (Nat × Nat) := []
  /-- R296: the place of a transfer or stream among the hart's; none for an access that comes after all of them -/
  order : Option Nat := none
  /-- R134: a load that is sent to the home -/
  atHome : Bool := false
  /-- R376: how many bytes it touches -/
  bytes : Nat := 1
  deriving DecidableEq, Repr

/-- R346: a copy whose lines are encrypted end to end: its key, the transport key, and the address under which its line
is sealed. -/
structure SealedCopy where
  copy : Nat
  key : List Byte
  ga : Nat
  deriving DecidableEq, Repr

/-- Where an access goes: the key it reads, the keys it writes (R133), the attribute of its page, the copies that are
encrypted end to end (R346), and for each key that is a copy of a mirrored line the copies that can still serve the line
(R421, R427). `via` is the copy of a mirrored line by whose plane a load leaves the device, where that is not `rd`. -/
structure Target where
  rd : Nat
  wr : List Nat
  attr : Nat
  e2e : List SealedCopy := []
  twins : List (Nat × List Nat) := []
  via : Option Nat := none
  deriving DecidableEq, Repr

/-- R163, R295: an access of the S agent that is not performed yet: its request, its target as the checks found it, its
address and what it does. -/
structure SAccess where
  req : Req
  target : Target
  va : Word
  act : Act
  deriving DecidableEq, Repr

/-- R286: an open Echo invocation of a hart: its region, its address, the declared registers, VL and the captured
inputs of each sample. `measure` marks an invocation beside which the surrogate runs. -/
structure EchoOpen where
  region : Fin 8
  addr : Word
  len : Nat
  outs : List (Fin 32)
  vl : Nat
  inputs : List (List (BitVec 32))
  measure : Bool
  deriving DecidableEq, Repr

/-- R380, R290: the held context. VL, VTYPE, VSTART, ECARRY, MSTART and the stream blocks stay in the hart's own
fields, which R385 makes the held values. -/
structure Held where
  vpc : Word := 0
  queue : List QEntry := []
  replies : List Reply := []
  loops : Loops := {}
  lend : Option Lend := none
  inDeleg : Bool := false
  running : List (Fin 4) := []
  regrant : Option Nat := none
  deriving DecidableEq, Repr

/-- R54, R305: the launch a hart belongs to. -/
structure LaunchRef where
  id : Nat := 0
  queue : Nat := 0
  index : Nat := 0
  prio : Nat := 0
  doneaddr : Nat := 0
  deriving DecidableEq, Repr

/-- R26: a hart with its scalar and vector side. -/
structure Hart where
  id : Nat
  bound : Bool
  pc : Word
  x : Vector Word 32
  priv : Priv
  world : Fin 256
  ct : Bool
  ie : Bool
  sTrap : TrapRegs
  mTrap : TrapRegs
  exitv : Word
  tdeleg : Word
  utvec : Word
  utcause : Word
  utval : Word
  utpc : Word
  inDeleg : Bool
  ptbase : Word
  engflt : Word
  part : Nat
  launch : LaunchRef
  /-- R42 to R44 -/
  loops : Loops
  /-- R36: a lent predicate and copy between a PFX and its successor; R395: it was held over an interruption -/
  lend : Option Lend
  lendHeld : Bool
  /-- R50: VL, VTYPE, VSTART, CTHRESH and R79: ECARRY -/
  vl : Nat
  vtype : BitVec 12
  vstart : Nat
  cthresh : BitVec 18
  ecarry : BitVec 32
  /-- R47, R50: physical lane groups granted (VGRANT), and the active lanes of the grant (R398) -/
  groups : BitVec 8
  lanes : BitVec 64
  /-- R45, R180: register images, bit 32 j + k being bit k of word j; mask images -/
  v : Vector Nat 32
  m : Vector Nat 8
  /-- R397: words of V registers and of masks that fail uncorrectably -/
  vbad : List (Fin 32 × Nat)
  mbad : List (Fin 8 × Nat)
  /-- R37, R38, R380 -/
  vq : List QEntry
  replies : List Reply
  held : Option Held
  /-- R47: waits for lane groups; R237: waits for the matrix claim; R56, R174, R281: what a retiring hart still does -/
  groupWait : Bool
  claimWait : Bool
  retiring : Bool
  /-- R343, R344: the world that a WSW under way switches to while it waits -/
  switching : Option (Fin 256)
  /-- R175: parked, and the wake latch; R260: elements of a VWAIT already satisfied -/
  parked : Bool
  latch : Bool
  satisfied : List Nat
  /-- R393: a pending pre-emption request -/
  preq : Bool
  /-- R80, R99, R89, R407, R408 -/
  qm : Vector Nat 4
  keys : Vector KeySlot 4
  chdr : Vector (BitVec 128) 16
  crerr : Vector (Fin 4) 16
  failHdr : Vector (BitVec 32) 16
  /-- R52, R271 -/
  streams : Vector StreamSlot 4
  binds : List Binding
  /-- R262, R418: transfers accepted, and engine faults found and not yet delivered, each with the place of its transfer
  or stream -/
  xfers : List Xfer
  xferCount : Nat
  /-- R370: queries not answered yet, each with its place among the transfers and its address -/
  queries : List (Nat × Word)
  engFaults : List (Nat × Trap)
  /-- R418: an engine fault has been delivered and its trap return is still to come -/
  engBusy : Bool
  /-- R239 -/
  mstart : Nat
  /-- R289, R286 -/
  apxctl : BitVec 8
  apxerr : BitVec 32
  apxrate : BitVec 16
  apxlr : BitVec 32
  echo : Option EchoOpen
  /-- R400: the region and weights of an interrupted surrogate run -/
  surrogate : Option (Fin 8 × Nat)
  /-- R134, R423, R424: the accesses that wait -/
  waits : List MemWait
  /-- R380: the element, step or row at which a trap that is due stops the convoy that runs -/
  stopAt : Option Nat
  /-- R37: in its turn the scalar side runs ahead of the vector side (DESIGN CHOICE, notes/assumptions/58.md) -/
  ahead : Bool
  /-- R381, R442: how many convoys the scalar side has issued since the vector side met a fault that is still to be found
  (DEDUCED, notes/assumptions/76.md) -/
  lag : Nat
  /-- R295: in its turn the scalar side puts the accesses that it issues off (DESIGN CHOICE, notes/assumptions/72.md) -/
  late : Bool
  /-- R163, R295: the accesses of the S agent not performed yet, in program order -/
  sbuf : List SAccess
  /-- R259: the convoy at the head of the vector queue has made its release at its first issue -/
  releasedOnce : Bool
  /-- R57: the model's mark that the hart waits, so that the step moves to another hart -/
  yield : Bool
  deriving DecidableEq, Repr

/-- R77: a tile: cells, exact partial sums (two's complement 64-bit fields), block position and latched scale codes. -/
structure Tile where
  cells : Nat := 0
  part : Nat := 0
  pos : Nat := 0
  ea : Nat := 0
  eb : Nat := 0
  /-- R397: rows with a cell that fails uncorrectably -/
  bad : List Nat := []
  deriving DecidableEq, Repr

/-- R246: a stream port: base, counts less one, strides and position. -/
structure Port where
  base : Word := 0
  counts : List Nat := [1, 1, 1, 1]
  strides : List Word := [0, 0, 0, 0]
  pos : Nat := 0
  deriving DecidableEq, Repr

/-- R237 to R250: the matrix unit of a core. `owner` is the HARTID of the claim's holder. -/
structure Matrix where
  owner : Option Nat := none
  cfg : BitVec 64 := 0
  mvl : Nat := 0
  tile0 : Tile := {}
  tile1 : Tile := {}
  ports : Vector Port 8 := Vector.replicate 8 {}
  deriving DecidableEq, Repr

/-- R101: a table register: its tag, the function values f(0) to f(t - 1), signed 16-bit, and the test polynomial,
prime-major. -/
structure TableReg where
  valid : Bool := false
  ktag : Nat := 0
  psid : Nat := 0
  level : Nat := 0
  world : Nat := 0
  values : List Int := []
  poly : List Nat := []
  deriving DecidableEq, Repr

/-- R103, R105: an accumulator of the rotation unit: the refresh it carries, its rotation amounts, and the GLWE pair,
prime-major. `pass` is none in an open batch. -/
structure Acc where
  hart : Nat
  creg : Fin 16
  slot : Fin 4
  handle : Nat
  set : ParamSet
  ktag : Nat
  psid : Nat
  world : Nat
  rot : List Nat
  a : List (List Nat)
  b : List (List Nat)
  pass : Option Nat
  /-- R406: the accumulator fails uncorrectably -/
  bad : Bool := false
  deriving DecidableEq, Repr

/-- R107, R108: a started pass of a core. `buffered` holds the elements it has not taken, each with its words. -/
structure CorePass where
  id : Nat
  handle : Nat
  forming : Bool
  subscribed : Bool
  buffered : List (Nat × List Nat)
  step : Nat
  deriving DecidableEq, Repr

/-- R285 to R289: an Echo region. `state` is 0 INVALID, 1 OBSERVE, 2 TRIAL, 3 ACTIVE; `span` lists the stretches of
memory, as key and length, that hold its words; `w1` to `b3` are the surrogate's weights and biases; `gen` counts the
changes of the weights; `bad` marks state that fails uncorrectably (R397, R400). -/
structure EchoRegion where
  state : Fin 4 := 0
  bound : Option Word := none
  span : List (Nat × Nat) := []
  k : Nat := 0
  j : Nat := 0
  w1 : List (List (BitVec 32)) := []
  b1 : List (BitVec 32) := []
  w2 : List (List (BitVec 32)) := []
  b2 : List (BitVec 32) := []
  w3 : List (List (BitVec 32)) := []
  b3 : List (BitVec 32) := []
  samples : List (List (BitVec 32) × List (BitVec 32)) := []
  good : Nat := 0
  clean : Nat := 0
  count : Nat := 0
  gen : Nat := 0
  bad : Bool := false
  deriving DecidableEq, Repr

/-- R54: a launch record. -/
structure Launch where
  entry : Word := 0
  args : Word := 0
  depaddr : Nat := 0
  harts : Nat := 0
  prio : Nat := 0
  world : Nat := 0
  queue : Nat := 0
  doneaddr : Nat := 0
  deriving DecidableEq, Repr

/-- R306: a filled shadow slot: the head it holds, the words of its code by key, and, once read, its inputs with the bank
that they go to (DEDUCED, notes/assumptions/30.md). -/
structure Shadow where
  part : Nat
  queue : Nat
  launch : Nat
  record : Launch
  code : List (Nat × Nat)
  inputs : Option (Nat × List Byte)
  deriving DecidableEq, Repr

/-- R13: a core. -/
structure Core where
  id : Nat
  lanemap : BitVec 64 := 0
  scrubbing : BitVec 8 := 0
  matrix : Matrix := {}
  tables : Vector TableReg 4 := Vector.replicate 4 {}
  accs : List Acc := []
  passes : List CorePass := []
  passCount : Nat := 0
  echo : Vector EchoRegion 8 := Vector.replicate 8 {}
  shadow0 : Option Shadow := none
  shadow1 : Option Shadow := none
  issuecap : Nat := 0xFFFF
  tokens : Nat := 0xFFFF
  /-- R309: the TIME at which the bucket is set next, where ISSUECAP is or was no 0xFFFF -/
  refill : Nat := 0
  /-- R13: the instruction cache, as words by key, the latest first -/
  icache : List (Nat × Nat) := []
  /-- R313: where the rotations of key passes, of CLIN streams and of the other streams of the core stand -/
  passTurn : Nat := 0
  clinTurn : Nat := 0
  streamTurn : Nat := 0
  rr : Nat := 0
  cycle : BitVec 64 := 0
  deriving DecidableEq, Repr

/-- R282: a strip farm. -/
structure Farm where
  num : Nat
  part : Nat
  launch : Nat
  trip : Nat
  strip : Nat
  next : Nat
  deriving DecidableEq, Repr

/-- R108: a pass of a Halyard engine. `open'` is false while four others stream. -/
structure HalyardPass where
  id : Nat
  handle : Nat
  open' : Bool
  set : ParamSet
  entryBad : Bool
  issued : Nat
  subscribers : List (Nat × Nat)
  deriving DecidableEq, Repr

/-- R326 to R332: what a die knows of one member of its clock group. -/
structure Member where
  num : Nat
  limit : Nat
  deriving DecidableEq, Repr

/-- R327: a reef notice on its way to its effective time. -/
structure Notice where
  member : Nat
  value : Nat
  time : Nat
  deriving DecidableEq, Repr

/-- R328: a shake-out in progress: proposer, the agreement values answered, and the commit's time. -/
structure Shakeout where
  proposer : Nat
  answers : List (Nat × Nat)
  commit : Option Nat
  deriving DecidableEq, Repr

/-- R324 to R334: the clock of a die. `monitor` is the monitor's limit, `reef` REEF's ceiling (0: none), `freq` the
ceiling C, `applied` the notices that have applied since the last commit, `joining` the group a join request is out for,
`asked` the join requests, with their limits, that came while its own is out, `pending` a solitary die's lower limits on their
way with their times, `silent` the members that are silent, `sent` the TIME stamps of last messages. -/
structure Clock where
  gid : Nat := 0
  monitor : Nat := 2250
  reef : Nat := 0
  freq : Nat := 2250
  members : List Member := []
  notices : List Notice := []
  applied : List Notice := []
  shake : Option Shakeout := none
  joining : Option Nat := none
  asked : List (Nat × Nat) := []
  pending : List (Nat × Nat) := []
  silent : List Nat := []
  sent : List (Nat × Nat) := []
  deriving DecidableEq, Repr

/-- R10: a die. -/
structure Die where
  id : Nat
  victq : Word := 0
  victPos : Nat := 0
  evhart : Word := 0
  events : List (Bool × Word) := []
  dropped : Bool := false
  clock : Clock := {}
  farms : List Farm := []
  passes : List HalyardPass := []
  passCount : Nat := 0
  deriving DecidableEq, Repr

/-- R118: a cached translation. -/
structure TlbEntry where
  page : Nat
  size : Nat
  asid : Nat
  pte : Nat
  deriving DecidableEq, Repr

/-- R279, R370: a query in a pool: where its answer goes, its hart, its place among the hart's transfers, and the answer, where
records that came after it no longer show it. -/
structure Query where
  key : Nat
  hart : Nat
  order : Nat
  answer : Option (List Byte) := none
  deriving DecidableEq, Repr

/-- R279: a work pool: its records as bytes, the next grant of the record at its head, and its queries. -/
structure Pool where
  part : Nat
  num : Nat
  records : List (List Byte)
  nextGrant : Nat
  queries : List Query
  deriving DecidableEq, Repr

/-- R304, R305: the head of a launch queue. -/
structure Head where
  part : Nat
  queue : Nat
  launch : Nat
  record : Launch
  ready : Bool
  order : Nat
  nextIndex : Nat
  deriving DecidableEq, Repr

/-- R54, R281: a launch some of whose harts have not retired. -/
structure LiveLaunch where
  id : Nat
  part : Nat
  queue : Nat
  harts : Nat
  retired : Nat
  doneaddr : Nat
  deriving DecidableEq, Repr

/-- R341 to R348: the life of a confidential context. -/
inductive CtxState where
  | opened | ending | ended | exported | moved
  deriving DecidableEq, Repr

/-- R341: a confidential context. -/
structure Context where
  id : BitVec 64
  modelOwner : List Byte
  dataOwner : List Byte
  leaves : List (List Byte)
  peers : List (List Byte)
  shareM : Option (List Byte)
  shareD : Option (List Byte)
  state : CtxState
  /-- R439: the identity the context was exported to -/
  dest : List Byte
  /-- R439: the confirmation is sent until it is acknowledged -/
  unconfirmed : Bool
  deriving DecidableEq, Repr

/-- R342: a world bound to a context. -/
structure WorldBind where
  world : Nat
  ctx : BitVec 64
  ct : Bool
  deriving DecidableEq, Repr

/-- R344: a shroud in the shroud area, at one of the four places of its hart slot; `mac` is its HMAC-SM3 under the key of the
world sealed. -/
structure Shroud where
  hart : Nat
  place : Nat
  world : Nat
  mac : List Byte
  v : Vector Nat 32
  m : Vector Nat 8
  vbad : List (Fin 32 × Nat)
  mbad : List (Fin 8 × Nat)
  chdr : Vector (BitVec 128) 16
  crerr : Vector (Fin 4) 16
  failHdr : Vector (BitVec 32) 16
  keys : Vector KeySlot 4
  qm : Vector Nat 4
  vl : Nat
  vtype : BitVec 12
  vstart : Nat
  ecarry : BitVec 32
  mstart : Nat
  groups : BitVec 8
  loops : Loops
  lend : Option Lend
  inDeleg : Bool
  streams : Vector StreamSlot 4
  binds : List Binding
  held : Option Held
  surrogate : Option (Fin 8 × Nat)
  releasedOnce : Bool
  deriving DecidableEq, Repr

/-- R128, R129, R372, R427: a 64 KiB grotto unit with an owner, or on its way to being zeroed. `dev` is the accelerator
that allocated it and is charged for it; `lost` follows the loss of leaf switches. -/
structure GrottoUnit where
  pod : Nat
  num : Nat
  dev : Nat := 0
  part : Option Nat
  shadow : Option Nat
  isShadow : Bool
  openat : Bool
  lost : Bool
  deriving DecidableEq, Repr

/-- R419, R422: a block of memory that fails: `kind` 1 integrity, 2 uncorrectable; `where'` as MEMERR.WHERE. In a
scratchpad or scalar data memory one word of it fails (R397) (DESIGN CHOICE, notes/assumptions/23.md). -/
structure BadBlock where
  block : Nat
  kind : Nat
  where' : Nat
  word : Option Nat := none
  /-- R419, R420: the address of the version tree node that fails, where one does -/
  node : Nat := 0
  deriving DecidableEq, Repr

/-- R346: the sideband of a remote line: its version and tag. -/
structure Sideband where
  line : Nat
  version : Nat
  tag : Nat
  deriving DecidableEq, Repr

/-- R320: a key slot of one direction of a link. -/
structure LinkSlot where
  valid : Bool := false
  key : Nat := 0
  salt : Nat := 0
  counter : Nat := 0
  deriving DecidableEq, Repr

/-- R319 to R321, R429, R430: one direction of a link at this end: its key slots, the live one, the sequence number that
comes next, the failures in a row of the flit that comes next, the SEQ last asked for again, and the TIMEs of recent
tag failures; at the sender also the last 256 flits sent, and the SEQ from which they are being sent again. -/
structure LinkDir where
  slot0 : LinkSlot := { valid := true }
  slot1 : LinkSlot := {}
  live : Fin 2 := 0
  seq : Nat := 0
  retries : Nat := 0
  retrySeq : Nat := 0
  fails : List Nat := []
  requested : Bool := false
  window : List (List Byte) := []
  resend : Option Nat := none
  deriving DecidableEq, Repr

/-- R318, R319: a flit that waits to be sent: TYPE, virtual channel and payload, for a packet the key that it goes to, and for a
response whether its status is *refused* (R435). -/
structure WaitingFlit where
  type : Nat
  vc : Fin 4
  payload : List Byte
  dest : Option Nat := none
  refused : Bool := false
  deriving DecidableEq, Repr

/-- R18, R316 to R321: a Rinba port with its two directions, the depth reports kept (R317: pod, kind, depth; a depth not
reported yet counts as 0), its credits per virtual channel, none at reset (DESIGN CHOICE, notes/assumptions/74.md), the buffers
freed and not yet credited to the far end, the flits that wait to be sent, the SEQ of the retry request that is out, and whether
it waits for fresh keys (R430). -/
structure FabricPort where
  up : Bool := true
  send : LinkDir := {}
  recv : LinkDir := {}
  depths : List (Nat × Nat × Nat) := []
  credits : Vector Nat 4 := Vector.replicate 4 0
  owed : Vector Nat 4 := Vector.replicate 4 0
  queue : List WaitingFlit := []
  retryOut : Option Nat := none
  rekey : Bool := false
  deriving DecidableEq, Repr

/-- R336: a configuration block in module flash. -/
structure ConfigBlock where
  type : Nat
  version : Nat
  body : List Byte
  signature : List Byte
  deriving DecidableEq, Repr

/-- R338, R340, R438: the digest of the running firmware, the active bank of module flash and the other one (empty where the
model does not hold the image), the staged image (digest and version), the replay-protected counter, the activation in
progress (digest, version and mailbox slot), and the slots whose FWACT waits for its end. -/
structure Firmware where
  running : List Byte := []
  bank : List Byte := []
  other : List Byte := []
  staged : Option (List Byte × Nat) := none
  version : Nat := 0
  activating : Option (List Byte × Nat × Fin 16) := none
  waiting : List (Fin 16) := []
  deriving DecidableEq, Repr

/-- R310: the governor of a partition: T once a cap is set, that cap, and the TIME of its next period. -/
structure Governor where
  part : Nat
  total : Option Nat := none
  cap : Nat := 0
  next : Nat := 0
  deriving DecidableEq, Repr

/-- R311: an energy counter of a partition: ENQn as last updated, the picojoules charged since ENABLE, and those charged
before the period under way. -/
structure Energy where
  part : Nat
  queue : Nat
  value : BitVec 64 := 0
  total : Nat := 0
  mark : Nat := 0
  deriving DecidableEq, Repr

/-- The device: die 0's distributor, scheduler and trust controller, and what the dies share. -/
structure Dev where
  devid : Nat := 0
  time : BitVec 64 := 0
  /-- R17: bytes of installed main memory -/
  capacity : Nat := 768000000000
  /-- R336, R344: the size of the shroud area, the last bytes of main memory: room for four shrouds of each hart slot
  (DESIGN CHOICE, notes/assumptions/17.md) -/
  shroudArea : Nat := 1536 * 0x88100
  /-- R122: memory nodes of the domain with their capacities; R17, R122: the installed main memory of other accelerators, of
  which one not listed has the least (DESIGN CHOICE, notes/assumptions/17.md); R127: pods of the domain -/
  nodes : List (Nat × Nat) := []
  others : List (Nat × Nat) := []
  pods : Nat := 1
  tlb : List TlbEntry := []
  pools : List Pool := []
  heads : List Head := []
  launches : List LiveLaunch := []
  launchCount : Nat := 0
  readyCount : Nat := 0
  governors : List Governor := []
  energies : List Energy := []
  resend : List (Nat × Nat × Nat) := []
  ctxs : List Context := []
  worlds : List WorldBind := []
  world0Ct : Bool := false
  resets : Nat := 0
  mailbox : List (Fin 16) := []
  firmware : Firmware := {}
  /-- R335, R336: module flash: helper data, the certificate of the identity and the configuration blocks, in flash order -/
  helperData : List Byte := []
  certificate : List Byte := []
  flash : List ConfigBlock := []
  /-- R336, R338: the digests of the accepted blocks, and the replay-protected counters of the types -/
  configDigests : List (List Byte) := []
  configCounters : List (Nat × Nat) := []
  /-- R336: the operator key, the admitted hosts with their public keys, and the admitted accelerators of the domain -/
  operatorKey : Option (List Byte) := none
  admittedHosts : List Nat := []
  hostKeys : List (Nat × List Byte) := []
  domain : List (List Byte) := []
  shrouds : List Shroud := []
  units : List GrottoUnit := []
  lostPlanes : List (Nat × Nat) := []
  resyncPlanes : List (Nat × Nat) := []
  bad : List BadBlock := []
  linksDown : List Nat := []
  silentEndpoints : List Nat := []
  locks : List (Nat × Nat) := []
  sideband : List Sideband := []
  ports : Vector FabricPort 64 := Vector.replicate 64 {}
  /-- Events that come due when TIME reaches a value, in the order of those values (DESIGN CHOICE, notes/assumptions/6.md) -/
  timers : List (Nat × Instr) := []
  /-- R336, R349: the GGROUP that configuration gives each die -/
  bootGroups : List Nat := []
  ctxCount : Nat := 0
  deriving DecidableEq, Repr

/-- The machine. `harts`, `cores` and `dies` hold the ones out of focus (a core or die not listed stands at its reset
values). `agenda` holds the events that are due, oldest first; `defer` is how many hart issues pass before they are
served; `turns` names the harts that come into focus next; `tick` numbers the steps for the free values. -/
structure State where
  hart : Hart
  core : Core
  die : Die
  harts : List Hart
  cores : List Core
  dies : List Die
  dev : Dev
  mem : List Host.Cell
  /-- R345: the versions of the blocks of local main memory, by block -/
  versions : List (Nat × Nat)
  agenda : List Instr
  defer : Nat
  turns : List Nat
  tick : Nat
  deriving DecidableEq, Repr

/-- What a byte that no cell lists reads as: main memory is zeroed at bring-up (R349); elsewhere the model's choice
(DESIGN CHOICE, notes/assumptions/3.md). -/
def Memory.unlisted : Byte := 0

/-- The canonical form of memory above an address: addresses rise strictly from `lo`, and no cell holds what an
unlisted address reads as. -/
def Memory.wfFrom : Nat → List Host.Cell → Bool
  | _, [] => true
  | lo, (a, b) :: rest => decide (lo ≤ a) && b != Memory.unlisted && Memory.wfFrom (a + 1) rest

/-- The canonical form of memory. -/
def Memory.wf (m : List Host.Cell) : Bool := Memory.wfFrom 0 m

/-- A hart slot with no hart: every register at the launch state of R55 with nothing given by a record. -/
def Hart.fresh (id : Nat) : Hart where
  id := id
  bound := false
  pc := 0
  x := Vector.replicate 32 0
  priv := .u
  world := 0
  ct := false
  ie := true
  sTrap := {}
  mTrap := {}
  exitv := 0
  tdeleg := 0
  utvec := 0
  utcause := 0
  utval := 0
  utpc := 0
  inDeleg := false
  ptbase := 0
  engflt := 0
  part := 0
  launch := {}
  loops := {}
  lend := none
  lendHeld := false
  vl := 0
  vtype := 2
  vstart := 0
  cthresh := 0
  ecarry := 0
  groups := 0
  lanes := 0
  v := Vector.replicate 32 0
  m := Vector.replicate 8 0
  vbad := []
  mbad := []
  vq := []
  replies := []
  held := none
  groupWait := false
  claimWait := false
  retiring := false
  switching := none
  parked := false
  latch := false
  satisfied := []
  preq := false
  qm := Vector.replicate 4 0
  keys := Vector.replicate 4 {}
  chdr := Vector.replicate 16 0
  crerr := Vector.replicate 16 0
  failHdr := Vector.replicate 16 0
  streams := Vector.replicate 4 {}
  binds := []
  xfers := []
  xferCount := 0
  queries := []
  engFaults := []
  engBusy := false
  mstart := 0
  apxctl := 0
  apxerr := 0
  apxrate := 0
  apxlr := 0x3A800000
  echo := none
  surrogate := none
  waits := []
  stopAt := none
  ahead := false
  lag := 0
  late := false
  sbuf := []
  releasedOnce := false
  yield := false

/-- The machine after reset and bring-up (R349): no hart is bound, no partition is enabled, main memory is zero, no
event is due (DESIGN CHOICE, notes/assumptions/19.md). -/
def State.reset : State where
  hart := Hart.fresh 0
  core := { id := 0 }
  die := { id := 0 }
  harts := []
  cores := []
  dies := []
  dev := {}
  mem := []
  versions := []
  agenda := []
  defer := 0
  turns := []
  tick := 0

end Sys2Proof.Machine
end

