-- ==== Sys2Proof/Machine/Links.lean ====
section
/-!
DEFINITION. Endpoints and planes (05_memory.md R122, R127), and how the device sends on its fabric ports: flits, credits and
counters (14_fabric.md R318 to R321), and the port by which a packet leaves (R315, R316).
-/
namespace Sys2Proof.Machine

noncomputable section

/-! ### The parts in focus -/

/-- The state with its hart changed. -/
def State.onHart (f : Hart → Hart) (s : State) : State := { s with hart := f s.hart }

/-- The state with its core changed. -/
def State.onCore (f : Core → Core) (s : State) : State := { s with core := f s.core }

/-- The state with its die changed. -/
def State.onDie (f : Die → Die) (s : State) : State := { s with die := f s.die }

/-- The state with its device changed. -/
def State.onDev (f : Dev → Dev) (s : State) : State := { s with dev := f s.dev }

/-! ### Endpoints -/

/-- The global address of an offset in an endpoint. -/
def gaOf (ep off : Nat) : Nat := ep * 2 ^ 44 + off

/-- The endpoint of a global address. -/
def epOf (ga : Nat) : Nat := ga / 2 ^ 44

/-- The offset of a global address in its endpoint. -/
def offOf (ga : Nat) : Nat := ga % 2 ^ 44

/-- R127: the plane of a pod offset. -/
def planeOf (o : Nat) : Nat := o / 256 % 64

/-- R122, R127: the pod of an endpoint, a grotto's own among them; memory nodes and hosts lie in none. -/
def podOf (ep : Nat) : Option Nat :=
  if ep < 1024 then some (ep / 256) else if 3840 ≤ ep ∧ ep < 3844 then some (ep - 3840) else none

/-! ### Flits (R318 to R321, R429) -/

/-- A port changed. -/
def onLinkPort (p : Fin 64) (f : FabricPort → FabricPort) (s : State) : State :=
  s.onDev fun d => { d with ports := d.ports.set p (f d.ports[p]) }

/-- R320: a slot of a direction. -/
def LinkDir.slot (d : LinkDir) (k : Fin 2) : LinkSlot := if k = 0 then d.slot0 else d.slot1

/-- A slot replaced. -/
def LinkDir.setSlot (k : Fin 2) (x : LinkSlot) (d : LinkDir) : LinkDir := if k = 0 then { d with slot0 := x } else { d with slot1 := x }

/-- R320: the IV of the next flit under a slot. -/
def LinkSlot.iv (k : LinkSlot) : List Byte := leBytes 4 k.salt ++ leBytes 8 k.counter

/-- R320: the tag of a flit under a slot, from its 256 bytes. -/
def flitTagOf (k : LinkSlot) (flit : List Byte) : List Byte := Config.flitTag k.key k.iv (flit.take 16) ((flit.drop 16).take 224)

/-- R318, R320: a payload of 224 bytes encrypted or decrypted under a slot. -/
def flitBody (k : LinkSlot) (bs : List Byte) : List Byte :=
  (List.range 224).map fun i => bs.getD i 0 ^^^ Config.flitPad k.key k.iv i

/-- R319: the channel credited next, and how many buffers. -/
def creditOf (x : FabricPort) : Fin 4 × Nat :=
  let v := ((List.finRange 4).find? fun v => decide (0 < x.owed[v])).getD 0
  (v, min 255 x.owed[v])

/-- R318: a flit as the port sends it next. The device, which is no switch, reports no depth: CONG is 0
(DESIGN CHOICE, notes/assumptions/74.md). -/
def buildFlit (type : Nat) (v : Fin 4) (payload : List Byte) (x : FabricPort) : List Byte :=
  let k := x.send.slot x.send.live
  let c := creditOf x
  let head := leBytes 1 type ++ leBytes 1 (x.send.live.val + 2 * v.val) ++ leBytes 2 (c.1.val + 4 * c.2) ++ leBytes 4 0 ++ leBytes 8 x.send.seq
  let body := flitBody k payload
  head ++ body ++ Config.flitTag k.key k.iv head body

/-- R318 to R321, R429: a flit sent under the live slot: its counter rises, an idle flit takes no credit, and a marker makes
the other slot live. The last 256 flits are kept. -/
def sendFlit (type : Nat) (v : Fin 4) (payload : List Byte) (x : FabricPort) : FabricPort :=
  let d := x.send
  let k := d.slot d.live
  let c := creditOf x
  let w := d.window ++ [buildFlit type v payload x]
  let d := { d with seq := d.seq + 1, window := w.drop (w.length - 256), resend := none }
  { x with
    owed := x.owed.set c.1 (x.owed[c.1] - c.2)
    credits := if type = 0 then x.credits else x.credits.set v (x.credits[v] - 1)
    send := if type = 3 then { d.setSlot d.live { k with valid := false, counter := k.counter + 1 } with live := 1 - d.live }
      else d.setSlot d.live { k with counter := k.counter + 1 } }

/-- R319: the flits that wait, channel 3 first, and channel 1 before channel 0. -/
def waitingFlit (x : FabricPort) : Option WaitingFlit :=
  ([3, 1, 2, 0] : List (Fin 4)).findSome? fun v => if x.credits[v] = 0 then none else x.queue.find? fun f => f.vc == v

/-- R320: the counter of the live slot of a direction. -/
def LinkDir.count (d : LinkDir) : Nat := (d.slot d.live).counter

/-- R431: the port is up, and the counter of its live key has not come to 2^48 - 2^16. -/
def FabricPort.sends (x : FabricPort) : Bool := x.up && decide (x.send.count < 2 ^ 48 - 2 ^ 16)

/-- R319: the next flit that waits and has a credit is sent. -/
def sendWaiting (x : FabricPort) : FabricPort :=
  match (if x.sends then waitingFlit x else none) with
  | none => x
  | some f => { sendFlit f.type f.vc f.payload x with queue := x.queue.erase f }

/-- R318: one flit time of a link: a flit that waits, or an idle one. -/
def flitTime (x : FabricPort) : FabricPort :=
  if !x.sends then x else if (waitingFlit x).isSome then sendWaiting x else sendFlit 0 0 [] x

/-- A flit put among those that wait, and sent where a credit is there. -/
def queueFlit (f : WaitingFlit) (x : FabricPort) : FabricPort := sendWaiting { x with queue := x.queue ++ [f] }

/-! ### Packets (R315, R316, R318, R319) -/

/-- R122: a key lies in another endpoint. -/
def remoteKey (s : State) (key : Nat) : Bool := decide (key < 2 ^ 56) && epOf key != s.dev.devid

/-- R317: the depth last reported for a destination pod; 0 before any report (DESIGN CHOICE, notes/assumptions/74.md). -/
def FabricPort.depth (x : FabricPort) (pod kind : Nat) : Nat :=
  ((x.depths.find? fun r => r.1 == pod && r.2.1 == kind).map (·.2.2)).getD 0

/-- R316, R317: the path estimate of a plane toward an endpoint: by an uplink into another pod, by a downlink in the own one.
`d` is the issuing die. An endpoint that lies in no pod is reported as in pod 0 (DESIGN CHOICE, notes/assumptions/37.md). -/
def pathEstimate (s : State) (d ep : Nat) (p : Fin 64) : Nat :=
  let x := s.dev.ports[p]
  x.queue.length + x.depth ((podOf ep).getD 0) (if podOf ep = podOf s.dev.devid then 1 else 0) + if p.val / 16 = d then 0 else 16

/-- R316: plane `q` goes before plane `p`, the lower number, as the first hop toward an endpoint. -/
def planeBefore (s : State) (d ep : Nat) (p q : Fin 64) : Bool :=
  let a := pathEstimate s d ep p
  let b := pathEstimate s d ep q
  decide (b < a) || (a == b && p.val / 16 != d && q.val / 16 == d)

/-- R315, R316, R432: the port by which an access of a die to a key of another endpoint leaves: that of the plane of a grotto
line, or of the eligible plane with the least path estimate. -/
def portFor (s : State) (d key : Nat) : Option (Fin 64) :=
  let up : Fin 64 → Bool := fun p => (s.dev.ports[p]).up
  if 3840 ≤ epOf key then some (Fin.ofNat 64 (planeOf (offOf key))) |>.filter up
  else
    ((List.finRange 64).filter up).foldl (fun best p =>
      match best with
      | none => some p
      | some b => some (if planeBefore s d (epOf key) b p then p else b)) none

/-- R316, R429: a flit of a packet put among those of the port by which it leaves now. -/
def queuePacket (d key : Nat) (f : WaitingFlit) (s : State) : State :=
  s.onDev fun x =>
    { x with ports :=
        match portFor s d key with
        | none => x.ports
        | some p => x.ports.set p (queueFlit f x.ports[p]) }

/-- R318, R319: a packet of a die on a virtual channel toward the endpoint of a key: its head, whose headers and data the spec
lays out nowhere (DESIGN CHOICE, notes/assumptions/37.md). -/
def sendPacket (d : Nat) (v : Fin 4) (key : Nat) (s : State) : State :=
  queuePacket d key { type := 1, vc := v, payload := (Config.packet s.tick key false).toList, dest := some key } s

/-- R319, R435: a request of another endpoint has a response, on channel 1, whose status says whether it was refused. -/
def respond (ep : Nat) (refused : Bool) (s : State) : State :=
  if ep = s.dev.devid then s
  else
    let key := gaOf ep 0
    queuePacket 0 key
      { type := 1, vc := 1, payload := (Config.packet s.tick key refused).toList, dest := some key, refused := refused } s

/-- R432: no port of the device is up. -/
def allPortsDown (s : State) : Bool := s.dev.ports.toList.all fun x => !x.up

end

end Sys2Proof.Machine
end

