-- ==== Sys2Proof/Machine/Ops.lean ====
section
/-!
DEFINITION. The named operations over registers and memory bytes; which hart, core and die are in focus; completing a
convoy (R43); taking an exception (R378 to R383) and returning from one (R379).
-/
namespace Sys2Proof.Machine

noncomputable section

/-! ### Focus -/

/-- R12: COREID of a HARTID. -/
def coreOf (h : Nat) : Nat := h / 4

/-- R12: the die of a COREID. -/
def dieOfCore (c : Nat) : Nat := c / 24

/-- The core `c` in focus; the one in focus before stands among the others. -/
def focusCore (c : Nat) (s : State) : State :=
  if s.core.id = c then s else
    { s with
      core := (s.cores.find? (·.id == c)).getD { id := c }
      cores := s.core :: s.cores.filter (·.id != c) }

/-- The die `d` in focus. -/
def focusDie (d : Nat) (s : State) : State :=
  if s.die.id = d then s else
    { s with
      die := (s.dies.find? (·.id == d)).getD { id := d }
      dies := s.die :: s.dies.filter (·.id != d) }

/-- The hart `h` in focus with its core and die; none where no hart has that id. -/
def focus (h : Nat) (s : State) : Option State :=
  if s.hart.id = h then some s else
    match s.harts.find? (·.id == h) with
    | none => none
    | some x =>
      some (focusDie (dieOfCore (coreOf h)) (focusCore (coreOf h)
        { s with hart := x, harts := s.hart :: s.harts.filter (·.id != h) }))

/-- An act of hart `h`, after which the hart in focus before is in focus again. No such hart: nothing happens. -/
def asHart (h : Nat) (f : State → State) (s : State) : State :=
  match focus h s with
  | none => s
  | some t => (focus s.hart.id (f t)).getD (f t)

/-- An act on core `c`. -/
def asCore (c : Nat) (f : State → State) (s : State) : State := focusCore s.core.id (f (focusCore c s))

/-- An act on die `d`. -/
def asDie (d : Nat) (f : State → State) (s : State) : State := focusDie s.die.id (f (focusDie d s))

/-- Every hart bound on the core in focus, the one in focus first. -/
def coreHarts (s : State) : List Hart :=
  (s.hart :: s.harts).filter fun h => h.bound && coreOf h.id == s.core.id

/-- Every bound hart of the device. -/
def boundHarts (s : State) : List Hart := (s.hart :: s.harts).filter (·.bound)

/-- The state of core `c`, whether in focus or not. -/
def coreAt (c : Nat) (s : State) : Core :=
  if s.core.id = c then s.core else (s.cores.find? (·.id == c)).getD { id := c }

/-- The state of die `d`, whether in focus or not. -/
def dieAt (d : Nat) (s : State) : Die :=
  if s.die.id = d then s.die else (s.dies.find? (·.id == d)).getD { id := d }

/-! ### X registers (R157, R38) -/

/-- R157: X0 reads as zero. -/
def rx (r : Fin 32) (s : State) : Word := if r = 0 then 0 else s.hart.x[r]

/-- R157: a write to X0 is discarded. -/
def wx (r : Fin 32) (v : Word) (s : State) : State :=
  if r = 0 then s else s.onHart fun h => { h with x := h.x.set r v }

/-- R161, R166: the X register that an access writes. -/
def Act.dest : Act → Option (Fin 32)
  | .store _ => none
  | .rmw _ d => some d
  | .load _ _ d => some d

/-- R38, R163: whether a register awaits a reply, or what an access put off brings. -/
def pendingX (s : State) (r : Fin 32) : Bool :=
  r != 0 && (s.hart.replies.any (·.dests.contains r) || s.hart.sbuf.any (·.act.dest == some r))

/-- The hart waits: nothing happens, and another hart may come into focus (R57). -/
def wait (s : State) : State := s.onHart fun h => { h with yield := true }

/-- R38: a scalar instruction first waits for the replies into the registers it names. -/
def scalar (rs : List (Fin 32)) (f : State → State) (s : State) : State :=
  if rs.any (pendingX s) then wait s else f s

/-! ### Completing a convoy (R43) -/

/-- R43: the back-edge test of one loop: where it continues and what it becomes. -/
def HwLoop.test (l : HwLoop) : Option Word × HwLoop :=
  if l.count = 0 then (none, { l with live := false, count := 0 }) else (some l.start, { l with count := l.count - 1 })

/-- R43: whether the loop is live with its end at this word. -/
def HwLoop.endsAt (l : HwLoop) (a : Word) : Bool := l.live && l.last == a

/-- The test of LC0 alone. -/
def Loops.test0 (l : Loops) : Option Word × Loops := let (p, k) := l.lc0.test; (p, { l with lc0 := k })

/-- The test of LC1 alone. -/
def Loops.test1 (l : Loops) : Option Word × Loops := let (p, k) := l.lc1.test; (p, { l with lc1 := k })

/-- R43: the tests made on completing a convoy whose last word is at `a`: the later loop first, the other only if the
first exits. -/
def Loops.test (l : Loops) (a : Word) : Option Word × Loops :=
  match l.lc0.endsAt a, l.lc1.endsAt a with
  | false, false => (none, l)
  | true, false => l.test0
  | false, true => l.test1
  | true, true =>
    if l.zeroLater then
      match l.test0 with
      | (some p, k) => (some p, k)
      | (none, k) => k.test1
    else
      match l.test1 with
      | (some p, k) => (some p, k)
      | (none, k) => k.test0

/-- R423, R424: an access that has been made no longer waits. -/
def forget (w : Waiter) (s : State) : State := s.onHart fun h => { h with waits := h.waits.filter (·.who != w) }

/-- R43: the hart completes a convoy whose remaining words are `n` from the pc on. -/
def advance (n : Nat) (s : State) : State :=
  let last := s.hart.pc + BitVec.ofNat 64 (4 * (n - 1))
  let t := s.hart.loops.test last
  (forget .scalar s).onHart fun h => { h with pc := t.1.getD (last + 4), loops := t.2, lend := none, yield := false }

/-- The state in which further events are due. -/
def due (es : List Instr) (s : State) : State := { s with agenda := s.agenda ++ es }

/-- R322: a TIME some nanoseconds later; TIME never decreases. -/
def laterTime (now : BitVec 64) (ns : BitVec 16) : BitVec 64 := BitVec.ofNat 64 (min (now.toNat + ns.toNat) (2 ^ 64 - 1))

/-- An event put among the timers, behind those of the same or an earlier time. -/
def insertTimer (t : Nat) (e : Instr) : List (Nat × Instr) → List (Nat × Instr)
  | [] => [(t, e)]
  | x :: xs => if x.1 ≤ t then x :: insertTimer t e xs else (t, e) :: x :: xs

/-- R273: the stream engine may fetch the next strip of a bound register. -/
def fetchSoon (v : Fin 32) (s : State) : State :=
  if Config.fetchAhead s.tick then due [Instr.streamRegisterFetch s.hart.id v] s else s

/-- R380: where a trap that is due stops what runs from `lo` up to `hi`, if it stops it there. -/
def stopIn (h : Hart) (lo hi : Nat) : Option Nat := h.stopAt.filter fun k => decide (lo ≤ k) && decide (k < hi)

/-- An event that comes due when TIME reaches `t` (DESIGN CHOICE, notes/assumptions/6.md). -/
def atTime (t : Nat) (e : Instr) (s : State) : State := s.onDev fun d => { d with timers := insertTimer t e d.timers }

/-- An event that comes due after some nanoseconds of TIME. -/
def inTime (ns : Nat) (e : Instr) (s : State) : State := atTime (s.dev.time.toNat + ns) e s

/-- A timer taken back. -/
def cancelTimer (e : Instr) (s : State) : State := s.onDev fun d => { d with timers := d.timers.filter (·.2 != e) }

/-- The next multiple of a period after a TIME. -/
def periodAfter (ns now : Nat) : Nat := (now / ns + 1) * ns

/-! ### Identity (R335) -/

/-- R335: the device secret, as the on-die function and the helper data in module flash give it. -/
def deviceSecret (d : Dev) : List Byte := (Config.reconstruct d.helperData).toList

/-- R335: the private key of the identity key pair. -/
def identityPrivate (d : Dev) : List Byte :=
  (Config.sm2Derive (deviceSecret d) ("ZH96-ID".toList.map fun c => BitVec.ofNat 8 c.toNat)).toList

/-- R335: the public key of the identity key pair. -/
def identityPublic (d : Dev) : List Byte := (Config.sm2Public (identityPrivate d)).toList

/-! ### Energy (R311) -/

/-- R311: picojoules charged to a queue of a partition. -/
def addEnergy (p q n : Nat) (s : State) : State :=
  let mine : Energy → Bool := fun e => e.part == p && e.queue == q
  s.onDev fun d =>
    { d with energies :=
        if d.energies.any mine then d.energies.map fun e => if mine e then { e with total := e.total + n } else e
        else d.energies ++ [{ part := p, queue := q, total := n }] }

/-- R311: work done for the hart in focus, charged to the queue of its launch record. -/
def chargeWork (s : State) : State :=
  if s.hart.bound then addEnergy s.hart.part s.hart.launch.queue (Config.workEnergy s.tick) s else s

/-- R311: the static energy of every core with bound harts, in equal shares to them. -/
def chargeStatic (s : State) : State :=
  (boundHarts s).foldl (fun t h => addEnergy h.part h.launch.queue (Config.staticEnergy s.tick (coreOf h.id)) t) s

/-- The first timer whose TIME has come, and the state without it. -/
def rung (s : State) : Option (Instr × State) :=
  match s.dev.timers with
  | x :: xs => if x.1 ≤ s.dev.time.toNat then some (x.2, s.onDev fun d => { d with timers := xs }) else none
  | [] => none

/-- Events that are not ready yet come up again, after some issues of the harts (DEDUCED, notes/assumptions/16.md). -/
def later (es : List Instr) (s : State) : State := { due es s with defer := 8 }

/-- A one-word scalar convoy retires. -/
def retire (s : State) : State := advance 1 s

/-- R43, R164: control passes to a target, and no back-edge test is made. -/
def jump (target : Word) (s : State) : State :=
  (forget .scalar s).onHart fun h => { h with pc := target, lend := none, yield := false }

/-- The PC of the convoy at hand: the PFX word before the pc where that PFX has been executed (R27, R34). -/
def convoyPc (h : Hart) : Word := if h.lend.isSome then h.pc - 4 else h.pc

/-- R381, R443: a stop at the boundary before the convoy at hand holds no lending: its PFX is fetched again. -/
def dropLend (h : Hart) : Hart := { h with lend := none }

/-! ### Memory bytes -/

/-- One byte of memory. -/
def Memory.read : List Host.Cell → Nat → Byte
  | [], _ => Memory.unlisted
  | (k, b) :: rest, a => if k = a then b else Memory.read rest a

/-- One byte written, in canonical form. -/
def Memory.write : List Host.Cell → Nat → Byte → List Host.Cell
  | [], a, b => if b = Memory.unlisted then [] else [(a, b)]
  | (k, c) :: rest, a, b =>
    if a < k then (if b = Memory.unlisted then (k, c) :: rest else (a, b) :: (k, c) :: rest)
    else if a = k then (if b = Memory.unlisted then rest else (a, b) :: rest)
    else (k, c) :: Memory.write rest a b

/-- Consecutive bytes written, ascending. -/
def Memory.writes (m : List Host.Cell) : Nat → List Byte → List Host.Cell
  | _, [] => m
  | a, b :: bs => Memory.writes (Memory.write m a b) (a + 1) bs

/-- `n` consecutive bytes read. -/
def Memory.reads (m : List Host.Cell) (a n : Nat) : List Byte := (List.range n).map fun i => Memory.read m (a + i)

/-- Every byte of a range made what an unlisted byte reads as. -/
def Memory.clear (m : List Host.Cell) (lo hi : Nat) : List Host.Cell := m.filter fun c => c.1 < lo || hi ≤ c.1

/-- The little-endian value of `n` bytes at a key of memory. -/
def peek (a n : Nat) (s : State) : Nat := leNat (Memory.reads s.mem a n)

/-- R345: the version of a block raised. The list rises by block, and a block that it does not name has version 0. -/
def raiseVersion (b : Nat) : List (Nat × Nat) → List (Nat × Nat)
  | [] => [(b, 1)]
  | x :: xs =>
    if x.1 < b then x :: raiseVersion b xs else if x.1 = b then (b, (x.2 + 1) % 2 ^ 64) :: xs else (b, 1) :: x :: xs

/-- R122: the block of 256 bytes lies in local main memory. -/
def localBlock (d : Dev) (b : Nat) : Bool := b * 256 / 2 ^ 44 == d.devid && decide (b * 256 % 2 ^ 44 < d.capacity)

/-- R345: a write of `n` bytes raises the version of every block of local main memory that it touches. -/
def versionsAfter (d : Dev) (a n : Nat) (vs : List (Nat × Nat)) : List (Nat × Nat) :=
  if n = 0 then vs
  else ((indices (a / 256) ((a + n - 1) / 256 + 1)).filter (localBlock d)).foldl (fun vs b => raiseVersion b vs) vs

/-- Bytes placed at a key of memory, with no check. -/
def poke (a : Nat) (bs : List Byte) (s : State) : State :=
  { s with mem := Memory.writes s.mem a bs, versions := versionsAfter s.dev a bs.length s.versions }

/-- R421: bit 63 of the entries that name a copy set. -/
def markStale (desc copy : Nat) (s : State) : State :=
  (List.range 6).foldl (fun s i =>
    let e := peek (desc + 16 + 8 * i) 8 s
    if i < peek (desc + 8) 1 s ∧ e % 2 ^ 56 = copy then poke (desc + 16 + 8 * i) (leBytes 8 (setBit e 63 true)) s else s) s

/-- R421, R315: what the access that failed has done: its packet has left, and a replica has become stale. -/
def failedAccess (t : Trap) (s : State) : State :=
  let s := t.sent.elim s fun x => sendPacket x.1 x.2.1 x.2.2 s
  t.stale.elim s fun x => markStale x.1 x.2 s

/-- R345: the version of a block of local main memory. -/
def blockVersion (s : State) (b : Nat) : Nat := ((s.versions.find? fun x => x.1 == b).map (·.2)).getD 0

/-- R345: a block in counter mode under the memory key of the last reset: the pad goes with its address and its version. -/
def padBlock (s : State) (b : Nat) (bs : List Byte) : List Byte :=
  bs.mapIdx fun i x => x ^^^ Config.blockPad (Config.memoryKey s.dev.resets) (b * 256) (blockVersion s b) i

/-- R345: the tag of a node of the version tree of local main memory: over the versions of eight blocks, or the tags of
eight nodes. -/
def treeTag (s : State) : Nat → Nat → BitVec 64
  | 0, n => Config.nodeTag (Config.memoryKey s.dev.resets) 0 n ((List.range 8).map fun i => blockVersion s (s.dev.devid * 2 ^ 36 + 8 * n + i))
  | l + 1, n =>
    Config.nodeTag (Config.memoryKey s.dev.resets) (l + 1) n ((List.range 8).map fun i => (treeTag s l (8 * n + i)).toNat)

/-- R345: the root that the die holds: the first level of which one node covers the whole of local main memory. -/
def treeRoot (s : State) : BitVec 64 :=
  treeTag s (((List.range 22).find? fun l => decide (s.dev.capacity ≤ 256 * 8 ^ (l + 1))).getD 21) 0

/-- The bytes of a range of keys made zero. -/
def clearMem (lo hi : Nat) (s : State) : State := { s with mem := Memory.clear s.mem lo hi }

/-! ### Status registers as words -/

/-- R155: the code of a privilege. -/
def Priv.code : Priv → Nat
  | .u => 0
  | .s => 1
  | .m => 3

/-- R155: the privilege of a code; 2 is never held. -/
def Priv.ofCode (n : Nat) : Priv := if n = 0 then .u else if n = 1 then .s else .m

/-- R155: HSTAT as it reads. -/
def hstat (h : Hart) : Word :=
  Word.ofNat (h.world.val * 256 + (if h.ct then 16 else 0) + (if h.ie then 8 else 0) + h.priv.code)

/-- R377: TCAUSE as trap entry writes it. -/
def tcauseOf (h : Hart) (t : Trap) : Word :=
  Word.ofNat (h.world.val * 2 ^ 24 + h.priv.code * 2 ^ 18 + (if h.ie then 2 ^ 17 else 0)
    + (if t.vside then 2 ^ 15 else 0) + (if t.engine then 2 ^ 14 else 0) + t.member % 4 * 2 ^ 12 + t.cause % 256)

/-- The trap registers of a privilege (R377: U has none and never asks). -/
def trapRegs (p : Priv) (h : Hart) : TrapRegs := if p = .m then h.mTrap else h.sTrap

/-- The trap registers of a privilege replaced. -/
def setTrapRegs (p : Priv) (r : TrapRegs) (h : Hart) : Hart :=
  if p = .m then { h with mTrap := r } else { h with sTrap := r }

/-! ### Taking an exception -/

/-- The stream slots that run (R380). -/
def runningSlots (h : Hart) : List (Fin 4) :=
  (List.finRange 4).filter fun k => h.streams[k].state = SlotState.running

/-- R296: the place in issue order behind the streams of some slots, and no lower than one given. -/
def countAbove (v : Vector StreamSlot 4) (n : Nat) : Nat :=
  v.toList.foldl (fun n sl => if sl.state = SlotState.empty then n else max n (sl.order + 1)) n

/-- Slots in `ks` put into a state. -/
def setSlots (st : SlotState) (ks : List (Fin 4)) (v : Vector StreamSlot 4) : Vector StreamSlot 4 :=
  ks.foldl (fun v (k : Fin 4) => v.set k.val { v[k] with state := st }) v

/-- What of a hart's waiting accesses a trap leaves: those of its transfers and streams. -/
def engineWaits (ws : List MemWait) : List MemWait := ws.filter fun w => w.who != .scalar && w.who != .vector

/-- R380: the vector side is stopped and set aside as the held context, `front` being the convoy that was running.
With a held context present that one stands, the handler's own loop state is lost, and what the handler has queued (an
FSAVE or FRSTR, R384) stays queued unless it faulted itself. -/
def makeHeld (front : List QEntry) (h : Hart) : Hart :=
  let h := { h with echo := none, satisfied := [], parked := false, groupWait := false, claimWait := false, switching := none
                    waits := engineWaits h.waits }
  match h.held with
  | some _ => { h with loops := {}, lend := none, vq := if front.isEmpty then h.vq else [], replies := [] }
  | none =>
    let q := front ++ h.vq
    let run := runningSlots h
    { h with
      held := some { vpc := (q.head?.map (·.pc)).getD 0, queue := q, replies := h.replies, loops := h.loops,
                     lend := h.lend, inDeleg := h.inDeleg, running := run, regrant := none }
      vq := [], replies := [], loops := {}, lend := none, inDeleg := false
      streams := setSlots .opened run h.streams
      binds := h.binds.map fun b => { b with fetched := [] } }

/-- R378: the privilege a trap goes to. -/
def trapTarget (h : Hart) (t : Trap) : Priv :=
  if h.priv = .m then .m else if t.cause = 0x19 ∧ h.priv = .s then .m else .s

/-- R307: a hart stopped by a fault or a pre-emption empties the shadow slots of its core that depend on its launch. -/
def emptyShadows (done : Nat) (c : Core) : Core :=
  if done = 0 then c else
    let keep : Option Shadow → Option Shadow := fun o => o.filter fun sh => sh.record.depaddr != done
    { c with shadow0 := keep c.shadow0, shadow1 := keep c.shadow1 }

/-- R397, R398: a word of a V register or a mask that fails uncorrectably retires its lane at once. -/
def retireLane (t : Trap) (c : Core) : Core :=
  if t.cause = 0x09 ∧ t.tval.getLsbD 63 ∧ bitsOf t.tval.toNat 62 60 < 2 then
    { c with lanemap := c.lanemap ||| (1#64 <<< bitsOf t.tval.toNat 5 0) }
  else c

/-- R307: whether the cause stops the hart by a fault or a pre-emption, and not at its own request. -/
def stops (cause : Nat) : Bool := cause < 0x18 || cause == 0x20

/-- R418: an engine fault that can be delivered: none is being handled. -/
def engineDue (s : State) : Bool :=
  s.hart.bound && s.hart.held.isNone && !s.hart.engBusy && !s.hart.engFaults.isEmpty

/-- R378, R380: trap entry. TCAUSE, TVAL and TPC of the target are written, PRIV and IE change, and control passes to
TVEC. An asynchronous cause was pending and so has set the wake latch (R175). -/
def takeTrap (t : Trap) (tpc : Word) (front : List QEntry) (s : State) : State :=
  let p := trapTarget s.hart t
  let s := if stops t.cause then s.onCore (emptyShadows s.hart.launch.doneaddr) else s
  let s := failedAccess t s
  (s.onCore (retireLane t)).onHart fun h =>
    let r := trapRegs p h
    let r := { r with tcause := tcauseOf h t, tval := t.tval, tpc := tpc &&& ~~~3#64,
                      memerr := t.memerr.getD r.memerr }
    let h' := setTrapRegs p r (makeHeld front h)
    { h' with
      priv := p, ie := false, pc := r.tvec, engflt := t.engflt.getD h'.engflt, yield := false
      latch := h'.latch || decide (0x20 ≤ t.cause)
      engBusy := h'.engBusy || t.engine }

/-- R156: whether TDELEG delegates a trap to the hart's U handler (R383). -/
def delegated (h : Hart) (t : Trap) : Bool :=
  h.priv = .u && !h.inDeleg && !t.engine && h.held.isNone && h.tdeleg.getLsbD t.cause
    && (t.cause == 0x0A || t.cause == 0x0B || t.cause == 0x0C || t.cause == 0x0D || t.cause == 0x13 || t.cause == 0x1A)

/-- R383: delivery to the U handler. HSTAT does not change. -/
def takeDelegated (t : Trap) (tpc : Word) (s : State) : State :=
  (if stops t.cause then s.onCore (emptyShadows s.hart.launch.doneaddr) else s).onHart fun h =>
    { h with utcause := Word.ofNat t.cause, utval := t.tval, utpc := tpc &&& ~~~3#64, inDeleg := true, pc := h.utvec
             lend := none, yield := false, echo := none, waits := engineWaits h.waits }

/-- A precise trap with TPC as given (R381), or its delegated delivery (R383). -/
def trapTo (t : Trap) (tpc : Word) (s : State) : State :=
  if delegated s.hart t then takeDelegated t tpc s else takeTrap t tpc [] s

/-- R381: a precise trap, whose TPC names the convoy that raised it. -/
def raise (t : Trap) (s : State) : State := trapTo t (convoyPc s.hart) (s.onHart dropLend)

/-- R381: a fault that the scalar side did not find: it stops at its convoy boundary, the first convoy not issued in TPC. -/
def takeImprecise (t : Trap) (front : List QEntry) (s : State) : State :=
  takeTrap t (convoyPc s.hart) front (s.onHart dropLend)

/-! ### Returning from an exception -/

/-- R379 step 3, R395: the held context resumes. -/
def resumeHeld (h : Hart) : Hart :=
  match h.held with
  | none => h
  | some c =>
    { h with
      held := none, vq := c.queue, replies := c.replies, loops := c.loops, lend := c.lend, lendHeld := c.lend.isSome
      inDeleg := c.inDeleg
      streams := setSlots .running c.running h.streams }

/-- R379: TRET at S or M in the world it returns to: IE, PRIV, the held context, its streams, the strips of its bound
registers (R273) and the pc; an engine fault held back is delivered next (R418). -/
def returnTrap (s : State) : State :=
  let run := (s.hart.held.map (·.running)).getD []
  let evs := run.map (fun k => Instr.streamElementComplete s.hart.id k)
    ++ (if s.hart.engFaults.isEmpty then [] else [Instr.engineFault s.hart.id])
  (s.hart.binds.map (·.v)).foldl (fun s v => fetchSoon v s) (due evs (s.onHart fun h =>
    let r := trapRegs h.priv h
    let h' := resumeHeld { h with ie := r.tcause.getLsbD 17, priv := Priv.ofCode (bitsOf r.tcause.toNat 19 18) }
    { h' with pc := r.tpc, yield := false, engBusy := false }))

/-! ### Ids -/

/-- Whether a bound hart of partition `p` has this HARTID (R393). -/
def isPartHart (s : State) (h p : Nat) : Bool := (boundHarts s).any fun x => x.id == h && x.part == p

end

end Sys2Proof.Machine
end

