-- ==== Sys2Proof/Machine/Memory.lean ====
section
/-!
DEFINITION. Memory as programs see it (05_memory.md): the core-local window, the grotto aperture, five-level page
tables with their marks and the victim ring, the regions of an endpoint, replicas and mirrors, and the checks of an
access in the order of R415. An address of `mem` is a global address (R122); the scalar data memory of core c, which
has none, stands at 2^56 + c * 2^16.
-/
namespace Sys2Proof.Machine

noncomputable section

/-- How an act of the vector side stops: a trap at an element, a trap with the progress an instruction keeps itself
(R33), a trim of VL (R200), or a wait in the state given. -/
inductive Stop where
  | trap (t : Trap) (elem : Nat)
  | cut (t : Trap) (s : State)
  | trim (f : Nat)
  | wait (s : State)

/-- A request of the hart in focus. -/
def reqOf (s : State) (k : AccKind) (a : Agent) (u : Use) : Req :=
  { kind := k, agent := a, use := u, priv := s.hart.priv, ptbase := s.hart.ptbase, part := s.hart.part,
    world := s.hart.world.val, hart := s.hart.id }

/-- A failed check: the cause with the virtual address (R386). -/
def deny {α : Type} (cause : Nat) (va : Word) : Except Stop α := .error (.trap { cause := cause, tval := va } 0)

/-! ### The address map -/

/-- R122: the offset of the scratchpads. -/
def scratchOff : Nat := 0xD0000000000
/-- R97: the offset of the key stores. -/
def keyOff : Nat := 0xE0000000000
/-- R122: the offset of the command window. -/
def windowOff : Nat := 0xF0000000000
/-- R337: the offset of the trust mailbox. -/
def mailboxOff : Nat := 0xF0004000000

/-- The scratchpad of a core of this device. -/
def scratchKey (s : State) (c off : Nat) : Nat := gaOf s.dev.devid (scratchOff + c * 0x100000 + off)

/-- The scalar data memory of a core. -/
def sdmKey (c off : Nat) : Nat := 2 ^ 56 + c * 0x10000 + off

/-- The partition block of a partition of this device (R302). -/
def partKey (s : State) (p off : Nat) : Nat := gaOf s.dev.devid (windowOff + p * 0x1000 + off)

/-- A mailbox slot of this device (R337). -/
def mailKey (s : State) (slot off : Nat) : Nat := gaOf s.dev.devid (mailboxOff + slot * 0x1000 + off)

/-- R111: the address is canonical. -/
def canonical (va : Nat) : Bool := va / 2 ^ 56 == 0 || va / 2 ^ 56 == 0xFF

/-- R111: the core-local window. -/
def inWindow (va : Nat) : Bool := va / 2 ^ 32 == 0xFF000000

/-- R111: the grotto aperture. -/
def inAperture (va : Nat) : Bool := va / 2 ^ 43 == 0x00F0000000000000 / 2 ^ 43

/-- R16, R122, R422: the memory link that serves an offset of main memory: die k mod 4 for line k, and within the die
the links in turn (DESIGN CHOICE, notes/assumptions/13.md). -/
def linkOf (off : Nat) : Nat := 6 * (off / 256 % 4) + off / 1024 % 6

/-- A stretch `[lo, lo + n)` of offsets holds the offset. -/
def within (off lo n : Nat) : Bool := decide (lo ≤ off) && decide (off < lo + n)

/-- R302: the offset of the POSTED field of a launch queue, which a put with signal of any agent may update. -/
def isPosted (off : Nat) : Bool :=
  within off windowOff (96 * 0x1000) && within (off % 0x1000) 0x80 0x200 && (off % 0x1000 - 0x80) % 32 == 0x10

/-- R17, R122: the installed main memory of an accelerator of the domain. -/
def capacityOf (s : State) (ep : Nat) : Nat :=
  if ep = s.dev.devid then s.dev.capacity else ((s.dev.others.find? (·.1 == ep)).map (·.2)).getD 768000000000

/-- R122, R97, R302, R337, R344: check 3 for the region of a global address that a leaf names. A partition block and the mailbox are
open to harts at M of their own device (DESIGN CHOICE, notes/assumptions/78.md). A put with signal reaches
the POSTED fields of every accelerator, and no page reaches the shroud area, the last bytes of local main memory (DEDUCED,
notes/assumptions/41.md). -/
def regionOk (s : State) (r : Req) (ga : Nat) : Bool :=
  let ep := epOf ga
  let off := offOf ga
  if ep < 1024 then
    if off < capacityOf s ep then ep != s.dev.devid || decide (off < s.dev.capacity - s.dev.shroudArea)
    else if within off scratchOff (96 * 0x100000) then r.agent == .engine
    else if within off keyOff 0x20000000 then
      match r.kind with
      | .load | .fetch => true
      | .store => r.priv != .u
      | .atomic | .wait => false
    else if within off windowOff (96 * 0x1000) || within off mailboxOff (16 * 0x1000) then
      (ep == s.dev.devid && r.priv == .m && r.kind != .fetch) || (r.agent == .engine && r.kind == .atomic && isPosted off)
    else false
  else if ep < 1152 then (s.dev.nodes.find? (·.1 == ep)).any fun nd => decide (off < nd.2)
  else if ep < 1168 then true
  else false

/-- The failing block or word that holds one of `n` bytes from a key on, if any (R419, R397, R376). -/
def badAt (s : State) (key : Nat) (n : Nat := 1) : Option BadBlock :=
  s.dev.bad.find? fun b =>
    b.block == key / 256 && b.word.all fun w => decide (key % 256 / 4 ≤ w) && decide (w ≤ (key % 256 + n - 1) / 4)

/-- R420: the image of MEMERR. -/
def memerrOf (kind where' ga : Nat) : Word := Word.ofNat (kind * 2 ^ 62 + where' * 2 ^ 58 + ga % 2 ^ 56)

/-- R422: the memory link that serves a key is down. -/
def linkTrap (s : State) (va : Word) (key : Nat) : Option Trap :=
  if epOf key = s.dev.devid ∧ offOf key < s.dev.capacity ∧ s.dev.linksDown.contains (linkOf (offOf key)) then
    some { cause := 0x09, tval := va, memerr := some (memerrOf 2 4 (linkOf (offOf key))) }
  else none

/-- R417, R419, R420: the block of a key fails. MEMERR names the block, the tree node, or the entry or descriptor, whose key
it then is. -/
def blockTrap (s : State) (va : Word) (key where' : Nat) (n : Nat := 1) : Option Trap :=
  match badAt s key n with
  | some b =>
    let w := if b.where' = 0 then where' else b.where'
    some { cause := if b.kind = 1 then 0x08 else 0x09, tval := va
           memerr := some (memerrOf b.kind w (if w = 1 then key else if w = 2 then b.node else key / 256 * 256)) }
  | none => none

/-- R419, R422: check 4 at the memory that serves a key: the trap it fails with. -/
def storageTrap (s : State) (va : Word) (key where' : Nat) : Option Trap :=
  match linkTrap s va key with
  | some t => some t
  | none => blockTrap s va key where'

/-! ### Page tables (R113 to R116, R416) -/

/-- R386: the translation cause of an access. -/
def transCause : AccKind → Nat
  | .fetch => 0x04
  | .load | .wait => 0x05
  | .store | .atomic => 0x06

/-- A leaf found by a walk: the entry reached, its page size, and the key of the span's first entry. -/
structure Leaf where
  pte : Nat
  size : Nat
  first : Nat
  deriving DecidableEq, Repr

/-- R115: the page size of a code. -/
def pageSize (sz : Nat) : Nat := 4096 * 4 ^ sz

/-- R115: the level at which a page size is a leaf. -/
def leafLevel (sz : Nat) : Nat := if sz ≤ 4 then 1 else if sz ≤ 8 then 2 else 3

/-- R114: GAPN as a global address. -/
def gapn (pte : Nat) : Nat := bitsOf pte 59 16 * 4096

/-- R416: the entry is a well-formed leaf at this level. -/
def leafOk (pte level : Nat) : Bool :=
  let sz := bitsOf pte 11 8
  bitsOf pte 15 14 != 3 && decide (sz ≤ 9) && leafLevel sz == level
    && gapn pte % pageSize sz == 0 && !(bitAt pte 2 && !bitAt pte 1)

/-- R113, R416, R417: a walk down the levels given, from the table at a global address. The span's first entry, which takes
the marks (R115), is read as well. -/
def walk (s : State) (va : Word) (cause : Nat) : List Nat → Nat → Except Stop Leaf
  | [], _ => deny cause va
  | l :: ls, table =>
    let span := 2 ^ (12 + 9 * (l - 1))
    let idx := va.toNat / span % 512
    let key := table + 8 * idx
    if epOf table != s.dev.devid || decide (s.dev.capacity < offOf table + 4096) then deny cause va
    else
      match storageTrap s va key 1 with
      | some t => .error (.trap t 0)
      | none =>
        let pte := peek key 8 s
        if !bitAt pte 0 then deny cause va
        else if bitsOf pte 3 1 = 0 then
          if l = 1 ∨ bitsOf pte 15 4 ≠ 0 then deny cause va else walk s va cause ls (gapn pte)
        else if !leafOk pte l then deny cause va
        else
          let n := pageSize (bitsOf pte 11 8) / span
          match storageTrap s va (table + 8 * (idx - idx % n)) 1 with
          | some t => .error (.trap t 0)
          | none =>
          .ok { pte := pte, size := pageSize (bitsOf pte 11 8), first := table + 8 * (idx - idx % n) }

/-- A page table entry without ACC, DIRTY and ONCE, as a TLB keeps it. -/
def pteBare (pte : Nat) : Nat := pte &&& (2 ^ 64 - 1 - (2 ^ 6 + 2 ^ 7 + 2 ^ 13))

/-- R116: a TLB entry that answers for an address under an address space. -/
def tlbFind (s : State) (va : Word) (asid : Nat) : Option TlbEntry :=
  s.dev.tlb.find? fun e => e.page == va.toNat / e.size * e.size && (e.asid == asid || bitAt e.pte 5)

/-- R113, R116: the leaf for an address: by the tables, or, where a cached entry differs from them, by either. An access served
by such an entry leaves no marks in the tables (R123) (DESIGN CHOICE, notes/assumptions/63.md). -/
def findLeaf (s : State) (r : Req) (va : Word) : Except Stop (Leaf × Bool) :=
  let walked := walk s va (transCause r.kind) [5, 4, 3, 2, 1] (bitsOf r.ptbase.toNat 59 16 * 4096)
  let asid := bitsOf r.ptbase.toNat 15 0
  let fresh : Except Stop (Leaf × Bool) :=
    match walked with
    | .ok l => .ok (l, true)
    | .error e => .error e
  match tlbFind s va asid with
  | none => fresh
  | some e =>
    let same := match walked with
      | .ok l => pteBare l.pte == e.pte && l.size == e.size
      | .error _ => false
    if same then fresh
    else if Config.tlbHit s.tick then .ok ({ pte := e.pte, size := e.size, first := 0 }, false) else fresh

/-- R114: the leaf permits the access. -/
def permitted (r : Req) (pte : Nat) : Bool :=
  (r.priv != .u || bitAt pte 4) &&
    match r.kind with
    | .load | .wait => bitAt pte 1
    | .store => bitAt pte 2
    | .atomic => bitAt pte 1 && bitAt pte 2
    | .fetch => bitAt pte 3

/-- R124: an entry appended to the victim ring of the die in focus. -/
def victimAppend (entry : Nat) (s : State) : State :=
  let q := s.die.victq.toNat
  let size := bitsOf q 15 12
  let slot := bitsOf q 59 16 * 4096 + 8 * s.die.victPos
  if size = 0 ∨ epOf slot ≠ s.dev.devid ∨ s.dev.capacity < offOf slot + 8 ∨ (storageTrap s 0 slot 0).isSome
      ∨ bitAt (peek slot 8 s) 0 then s
  else (poke slot (leBytes 8 (entry + 1)) s).onDie fun d => { d with victPos := (d.victPos + 1) % 2 ^ (size + 8) }

/-- R115, R123: the marks an access leaves in the span's first entry, and the ring entry it makes. -/
def markEntry (r : Req) (l : Leaf) (s : State) : State :=
  let pte := peek l.first 8 s
  let isStore := r.kind == .store || r.kind == .atomic
  let newAcc := !bitAt pte 6
  let p := setBit pte 6 true
  let p := if newAcc && r.use == .sweep then setBit p 13 true
    else if !newAcc && r.use == .clears then setBit p 13 false else p
  let p := if isStore then setBit p 7 true else p
  let s := if p = pte then s else poke l.first (leBytes 8 p) s
  if newAcc && r.use == .sweep then victimAppend l.first s else s

/-- R118: a translation cached. -/
def tlbInsert (r : Req) (va : Word) (l : Leaf) (s : State) : State :=
  let e : TlbEntry := { page := va.toNat / l.size * l.size, size := l.size, asid := bitsOf r.ptbase.toNat 15 0, pte := pteBare l.pte }
  s.onDev fun d => { d with tlb := e :: d.tlb.filter fun x => !(x.page == e.page && x.asid == e.asid && x.size == e.size) }

/-! ### End-to-end encryption (R346) -/

/-- The context of a world (R342). -/
def ctxOfWorld (s : State) (w : Nat) : Option Context :=
  match s.dev.worlds.find? (·.world == w) with
  | none => none
  | some b => s.dev.ctxs.find? (·.id == b.ctx)

/-- The bytes of an ASCII label (R341). -/
def label (t : String) : List Byte := t.toList.map fun c => BitVec.ofNat 8 c.toNat

/-- R341: a key of a context; a share that is missing counts as empty (DESIGN CHOICE, notes/assumptions/79.md). -/
def ctxKey (c : Context) (lab : List Byte) : List Byte :=
  Config.hmacSm3 (c.shareM.getD [] ++ c.shareD.getD []) (lab ++ leBytes 8 c.id.toNat)

/-- R346: the transport key under which a world's data at an endpoint is encrypted; none for data that travels plain. -/
def transportKey (s : State) (world ga : Nat) (openat : Bool) : Option (List Byte) :=
  if world = 0 ∨ epOf ga = s.dev.devid ∨ openat ∨ 2 ^ 56 ≤ ga then none
  else
    match ctxOfWorld s world with
    | none => none
    | some c =>
      if epOf ga < 1024 ∧ c.peers.contains (Config.endpointIdentity (epOf ga)) then none
      else some (ctxKey c (label "e2e"))

/-- R346: the sideband of a line; one that no store has written is zero (DESIGN CHOICE, notes/assumptions/62.md). -/
def sidebandAt (s : State) (key : Nat) : Sideband :=
  (s.dev.sideband.find? (·.line == key / 256)).getD { line := key / 256, version := 0, tag := 0 }

/-- R346, R128: the line of an encrypted copy opened; none where its tag fails. A line of grotto that nothing has written
since its unit was allocated reads as zero. -/
def openLine (c : SealedCopy) (s : State) : Option (List Byte) :=
  let sb := sidebandAt s c.copy
  let raw := Memory.reads s.mem (c.copy / 256 * 256) 256
  let plain := (List.range 256).map fun i => raw.getD i 0 ^^^ Config.linePad c.key (c.ga / 256) sb.version i
  if 3840 ≤ epOf c.copy && !(s.dev.sideband.any (·.line == c.copy / 256)) && raw.all (· == 0) then some raw
  else if Config.lineTag c.key (c.ga / 256) sb.version plain = sb.tag then some plain else none

/-- R346: the trap of an encrypted copy whose tag fails. -/
def lineTrap (s : State) (va : Word) (t : Target) (key : Nat) : Option Trap :=
  match t.e2e.find? (·.copy == key) with
  | none => none
  | some c =>
    match openLine c s with
    | some _ => none
    | none => some { cause := 0x08, tval := va, memerr := some (memerrOf 1 0 (key / 256 * 256)) }

/-- R346: the encrypted copies of an address, if its data travel encrypted. -/
def sealCopies (s : State) (r : Req) (openat : Bool) (ga : Nat) (copies : List Nat) : List SealedCopy :=
  match transportKey s r.world ga openat with
  | none => []
  | some k => copies.map fun c => { copy := c, key := k, ga := ga }

/-- R347: an atomic of a confidential context on remote data, other than grotto, whose units admit it themselves (R130), and
the POSTED field of a launch queue, which is none of its data (DEDUCED, notes/assumptions/57.md). -/
def atomicBarred (s : State) (r : Req) (ga : Nat) : Bool :=
  r.kind == .atomic && r.world != 0 && epOf ga != s.dev.devid && decide (epOf ga < 3840) && (ctxOfWorld s r.world).isSome
    && !(decide (epOf ga < 1024) && isPosted (offOf ga))

/-! ### Grotto (R126 to R131, R426, R427) -/

/-- The unit of a pod that holds an offset, if a partition owns it. -/
def unitAt (s : State) (pod o : Nat) : Option GrottoUnit :=
  s.dev.units.find? fun u => u.pod == pod && u.num == o / 65536 && !u.isShadow && u.part.isSome

/-- R129: the mirror of a byte in its shadow unit. -/
def mirrorOff (sh o : Nat) : Nat := sh * 65536 + (o % 65536 ^^^ 0x2000)

/-- R427: a plane of a pod whose storage does not answer. -/
def planeLost (s : State) (pod p : Nat) : Bool := s.dev.lostPlanes.contains (pod, p)

/-- R427, R432: a plane whose port on this device is down. -/
def portDown (s : State) (p : Nat) : Bool := !(s.dev.ports[p % 64]'(Nat.mod_lt _ (by decide))).up

/-- R421, R427: a line of grotto copied from one copy to another, sideband and all; the copy written fails no longer. -/
def copyLine (src dst : Nat) (s : State) : State :=
  let sb := sidebandAt s src
  (poke (dst / 256 * 256) (Memory.reads s.mem (src / 256 * 256) 256) s).onDev fun d =>
    { d with
      bad := d.bad.filter (·.block != dst / 256)
      sideband :=
        (if d.sideband.any (·.line == src / 256) then [{ sb with line := dst / 256 }] else []) ++ d.sideband.filter (·.line != dst / 256) }

/-- R421: a mirrored line of which one copy fails: that copy is rewritten from the other, before a load where it is the
primary, and before a store or atomic whichever it is. -/
def repairMirror (r : Req) (prim mir : Nat) (s : State) : State :=
  let fails : Nat → Bool := fun k => (storageTrap s 0 k 0).isSome
  if fails prim && !fails mir then copyLine mir prim s
  else if (r.kind == .store || r.kind == .atomic) && fails mir && !fails prim then copyLine prim mir s
  else s

/-- R126 to R131, R427: an access to pod offset `o`, and the repair that it brings about (R421). A load leaves by the plane of
the primary, or of the mirror where the primary is lost, being written back, or behind a port that is down; the switch that it
reaches serves it from the other copy where its own fails. -/
def grottoTarget (s : State) (r : Req) (va : Word) (pod o : Nat) : Except Stop (Target × State) :=
  match unitAt s pod o with
  | none => deny 0x07 va
  | some u =>
    if u.part ≠ some r.part then deny 0x07 va
    else if (r.kind = .atomic ∨ r.kind = .wait) ∧ !u.openat then deny 0x07 va
    else if u.lost then deny 0x0F va
    else
      let prim := gaOf (3840 + pod) o
      let writes := r.kind == .store || r.kind == .atomic
      let sealed := sealCopies s r u.openat prim
      match u.shadow with
      | none =>
        if planeLost s pod (planeOf o) then deny 0x0F va
        else if portDown s (planeOf o) then deny 0x11 va
        else .ok ({ rd := prim, wr := [prim], attr := 0, e2e := sealed [prim] }, s)
      | some sh =>
        let m := mirrorOff sh o
        let mir := gaOf (3840 + pod) m
        let lostP := planeLost s pod (planeOf o)
        let lostM := planeLost s pod (planeOf m)
        let goodP := !lostP && !s.dev.resyncPlanes.contains (pod, planeOf o)
        let goodM := !lostM && !s.dev.resyncPlanes.contains (pod, planeOf m)
        let viaP := goodP && !portDown s (planeOf o)
        let viaM := goodM && !portDown s (planeOf m)
        if lostP && lostM then deny 0x0F va
        else if writes && ((!lostP && portDown s (planeOf o)) || (!lostM && portDown s (planeOf m))) then deny 0x11 va
        else if !writes && !viaP && !viaM then deny 0x11 va
        else
          let fails : Nat → Bool := fun k => (storageTrap s va k 0).isSome
          let fromP := goodP && (if viaP || writes then !(goodM && fails prim && !fails mir) else fails mir && !fails prim)
          let serving := (if goodP then [prim] else []) ++ (if goodM then [mir] else [])
          .ok ({ rd := if fromP then prim else mir
                 wr := (if lostP then [] else [prim]) ++ (if lostM then [] else [mir]), attr := 0, e2e := sealed [prim, mir]
                 twins := [(prim, serving), (mir, serving)], via := some (if viaP then prim else mir) },
            if goodP && goodM && (writes || viaP) then repairMirror r prim mir s else s)

/-! ### Resolving an access: checks 2 and 3 of R415 -/

/-- R316: the die that issues a request; the device's own agents sit on die 0. -/
def Req.die (r : Req) : Nat := if r.hart < 384 then dieOfCore (coreOf r.hart) else 0

/-- R319: the virtual channel of a request: a signal or deposit of an engine on 2, every other on 0. -/
def requestChannel (r : Req) : Fin 4 := if r.agent == .engine && r.kind == .atomic then 2 else 0

/-- R315: a trap that another endpoint answers with: the access has left by a port, unless it found none (0x11). -/
def sentTrap (s : State) (r : Req) (ga : Nat) (t : Trap) : Trap :=
  if remoteKey s ga && t.cause != 0x11 && t.sent.isNone then { t with sent := some (r.die, requestChannel r, ga) } else t

/-- R315: an access that a leaf switch refuses has left by a port. -/
def leftBy (s : State) (r : Req) (ga : Nat) (x : Except Stop (Target × State)) : Except Stop (Target × State) :=
  match x with
  | .error (.trap t e) => .error (.trap (sentTrap s r ga t) e)
  | x => x

/-- R119: an access to the core-local window (DEDUCED, notes/assumptions/45.md). -/
def windowTarget (s : State) (r : Req) (va : Word) : Except Stop Target :=
  let off := va.toNat % 2 ^ 32
  if off < 0x100000 then
    let k := scratchKey s (coreOf r.hart) off
    .ok { rd := k, wr := [k], attr := 0 }
  else if off < 0x110000 ∧ (r.agent = .scalar ∨ r.agent = .engine) then
    let k := sdmKey (coreOf r.hart) (off - 0x100000)
    .ok { rd := k, wr := [k], attr := 0 }
  else deny 0x07 va

/-- R122, R126, R315, R347: an access to one global address, with the attribute of its page. With every port down an access
to another endpoint raises 0x11 at once, as R427 has it of a grotto line (DESIGN CHOICE, notes/assumptions/37.md). -/
def placeTarget (s : State) (r : Req) (va : Word) (ga attr : Nat) : Except Stop (Target × State) :=
  if 3840 ≤ epOf ga ∧ epOf ga < 3844 then
    if 2 ^ 41 ≤ offOf ga ∨ s.dev.pods ≤ epOf ga - 3840 then deny 0x07 va
    else
      match leftBy s r ga (grottoTarget s r va (epOf ga - 3840) (offOf ga)) with
      | .ok (t, s') => .ok ({ t with attr := attr }, s')
      | .error e => .error e
  else if !regionOk s r ga || atomicBarred s r ga then deny 0x07 va
  else if remoteKey s ga && allPortsDown s then deny 0x11 va
  else .ok ({ rd := ga, wr := [ga], attr := attr, e2e := sealCopies s r false ga [ga] }, s)

/-! ### Replicas (R132, R421) -/

/-- R132: the replicas of a descriptor that are not stale, as the bases of their pages. -/
def freshReps (s : State) (desc : Nat) : List Nat :=
  (((List.range (peek (desc + 8) 1 s)).map fun i => peek (desc + 16 + 8 * i) 8 s).filter fun e => !bitAt e 63).map (· % 2 ^ 56)

/-- R132: the home of a descriptor. -/
def homeOf (s : State) (desc : Nat) : Nat := peek desc 8 s % 2 ^ 56

/-- R132: the replica that serves a load, as the base of its page; none for the home. -/
def loadReplica (s : State) (desc : Nat) : Option Nat :=
  let reps := freshReps s desc
  match reps.find? fun g => epOf g == s.dev.devid with
  | some g => some g
  | none => reps.find? fun g => podOf (epOf g) == podOf s.dev.devid

/-- R415, R416, R417: check 2 at a replica descriptor: its place, its storage and its COUNT. -/
def descStop (s : State) (r : Req) (va : Word) (desc : Nat) : Option Trap :=
  let bad : Trap := { cause := transCause r.kind, tval := va }
  if epOf desc ≠ s.dev.devid ∨ s.dev.capacity < offOf desc + 64 then some bad
  else
    match storageTrap s va desc 1 with
    | some t => some t
    | none => if 6 < peek (desc + 8) 1 s then some bad else none

/-- R424: an endpoint whose answer does not arrive. -/
def silent (s : State) (key : Nat) : Bool :=
  decide (key < 2 ^ 56) && epOf key != s.dev.devid && s.dev.silentEndpoints.contains (epOf key)

/-- R419: the block of a key is written whole by the store or copy at hand. -/
def wholeBlock (r : Req) (va : Word) : Bool :=
  let lo := va.toNat / 256 * 256
  (r.whole.any fun w => decide (w.1 ≤ lo) && decide (lo + 256 ≤ w.2))
    || (List.range 256).all fun i => r.whole.any fun w => decide (w.1 ≤ lo + i) && decide (lo + i < w.2)

/-- R397, R419, R422: check 4 at one copy: a link that is down fails every access, a failing block every access but a store
that writes it whole, a failing word every access but a store. -/
def copyTrap (s : State) (r : Req) (va : Word) (where' key : Nat) : Option Trap :=
  match linkTrap s va key with
  | some f => some f
  | none =>
    match blockTrap s va key where' r.bytes with
    | none => none
    | some f =>
      if r.kind == .store && (wholeBlock r va || !s.dev.bad.any fun b => b.block == key / 256 && b.word.isNone) then none else some f

/-- R419, R421, R346: check 4 at a key of a target: a mirrored line fails only where every copy that can serve it does, and an encrypted line
where its tag does, unless a store writes it whole. -/
def keyTrap (s : State) (r : Req) (va : Word) (t : Target) (where' key : Nat) : Option Trap :=
  let storage : Option Trap :=
    match t.twins.find? fun p => p.1 == key with
    | none => copyTrap s r va where' key
    | some p =>
      if p.2.all fun k => (copyTrap s r va 0 k).isSome then
        some { cause := 0x09, tval := va, memerr := some (memerrOf 2 0 (p.2.headD key / 256 * 256)) }
      else none
  match storage with
  | some f => some f
  | none => if key = t.rd ∧ !(r.kind == .store && wholeBlock r va) then lineTrap s va t key else none

/-- R132, R133, R421, R423: a replica that a commit leaves out: it is marked stale where it does not answer or its storage
fails (DEDUCED, notes/assumptions/57.md). A refusal at check 3, lost grotto (0x0F) and a port that is down (0x11) are none of
these: they make the commit fail (R427). -/
def replicaFails (s : State) (r : Req) (va : Word) (x : Except Stop (Target × State)) : Bool :=
  match x with
  | .error _ => false
  | .ok (t, s') => (t.wr ++ [t.rd]).any (silent s) || ((keyTrap s' r va { t with e2e := [] } 3 t.rd).isSome)

/-- R133: the home of a store or atomic and every replica it reaches, in descriptor order. -/
def commitCopies (s : State) (r : Req) (va : Word) (desc off attr : Nat) : List Nat → Target × State → Except Stop (Target × State)
  | [], x => .ok x
  | g :: gs, (t, u) =>
    let x := placeTarget u r va (g + off) attr
    if replicaFails u r va x then commitCopies s r va desc off attr gs (t, markStale desc g u)
    else
      match x with
      | .error e => .error e
      | .ok (c, u') =>
        commitCopies s r va desc off attr gs ({ t with wr := t.wr ++ c.wr, e2e := t.e2e ++ c.e2e, twins := t.twins ++ c.twins }, u')

/-- R421: a load that its home fails after a replica of the page has failed: the replica becomes stale all the same. -/
def withStale (desc copy : Nat) (x : Except Stop (Target × State)) : Except Stop (Target × State) :=
  match x with
  | .error (.trap t e) => .error (.trap { t with stale := some (desc, copy) } e)
  | x => x

/-- R132, R133, R134, R421, R423: the copies of a replicated page that an access reaches, given the offset in the page. -/
def replicaTarget (s : State) (r : Req) (va : Word) (pte off : Nat) : Except Stop (Target × State) :=
  let desc := gapn pte
  let attr := bitsOf pte 15 14
  let home : State → Except Stop (Target × State) := fun u => placeTarget u r va (homeOf u desc + off) attr
  if r.kind = .store ∨ r.kind = .atomic then
    match home s with
    | .error e => .error e
    | .ok x => if (freshReps s desc).any fun g => atomicBarred s r (g + off) then deny 0x07 va else
      commitCopies s r va desc off attr (freshReps s desc) x
  else
    match (if r.atHome then none else loadReplica s desc) with
    | none => home s
    | some g =>
      match placeTarget s r va (g + off) attr with
      | .error e => .error e
      | .ok (c, u) =>
        if (keyTrap u r va c 3 c.rd).isNone then .ok (c, u)
        else
          match home (markStale desc g s) with
          | .error e => withStale desc g (.error e)
          | .ok (t, u') =>
            match keyTrap u' r va t 0 t.rd with
            | some f => withStale desc g (.error (.trap f 0))
            | none => .ok (t, u')

/-- R111 to R132: checks 2 and 3 of R415, the place an access goes, and the marks it leaves in the page tables. -/
def resolve (r : Req) (va : Word) (s : State) : Except Stop (Target × State) :=
  if !canonical va.toNat then deny (transCause r.kind) va
  else if inWindow va.toNat then
    match windowTarget s r va with
    | .ok t => .ok (t, s)
    | .error e => .error e
  else if inAperture va.toNat then placeTarget s r va (gaOf (3840 + va.toNat / 2 ^ 41 % 4) (va.toNat % 2 ^ 41)) 0
  else
    match findLeaf s r va with
    | .error e => .error e
    | .ok (l, walked) =>
      match (if bitAt l.pte 12 then descStop s r va (gapn l.pte) else none) with
      | some t => .error (.trap t 0)
      | none =>
        if !permitted r l.pte then deny 0x07 va else
        let off := va.toNat % l.size
        match (if bitAt l.pte 12 then replicaTarget s r va l.pte off else placeTarget s r va (gapn l.pte + off) (bitsOf l.pte 15 14)) with
        | .error e => .error e
        | .ok (t, s') => .ok (t, if walked then tlbInsert r va l (markEntry r l s') else s')

/-! ### Checks 4 to 6 and the access itself -/

/-- R133, R423: the line of a key is locked by a commit of another agent. -/
def lockedBy (s : State) (r : Req) (key : Nat) : Bool :=
  s.dev.locks.any fun l => l.1 == key / 256 && l.2 != r.hart + 1

/-- Who makes a request. -/
def Req.waiter (r : Req) : Waiter :=
  match r.order with
  | some n => .engine n
  | none => if r.agent = .scalar then .scalar else .vector

/-- R423, R424: the wait of a request that has not been answered. -/
def waitOf (r : Req) (s : State) : Option MemWait := s.hart.waits.find? (·.who == r.waiter)

/-- R134, R423, R424: the limit of a wait, in nanoseconds, and the event of its passing. -/
def waitLimit (t : Trap) (r : Req) (h : Nat) : Nat × Instr :=
  if t.cause = 0x11 then (500000, .remoteTimeout h)
  else if r.kind = .store ∨ r.kind = .atomic then (64000, .replicaLockTimeout h)
  else (4000, .lockedLoadRedirect h)

/-- R423, R424: the access waits; a limit that passes raises the trap. -/
def waitAccess (t : Trap) (r : Req) (s : State) : Except Stop (Target × State) :=
  if (waitOf r s).any (·.trap == t) then .error (.wait s)
  else
    let l := waitLimit t r s.hart.id
    let w : MemWait :=
      { who := r.waiter, trap := t, limit := s.dev.time.toNat + l.1, load := r.kind != .store && r.kind != .atomic }
    .error (.wait ((inTime l.1 l.2 s).onHart fun h => { h with waits := w :: h.waits.filter (·.who != r.waiter) }))

/-! ### The interlock table (R296) -/

/-- R296: a stretch of virtual addresses that a transfer or stream of the hart is still to touch. -/
structure Pending where
  order : Nat
  req : Req
  lo : Word
  len : Nat
  deriving DecidableEq, Repr

/-- The engine's request for a transfer, with its place among the hart's. No bit of R251 or R262 carries the streaming hint
of R123, so no copy and no stream has it (DESIGN CHOICE, notes/assumptions/62.md). -/
def engineReq (s : State) (x : Xfer) (k : AccKind) : Req :=
  { kind := k, agent := .engine, use := .neither, priv := x.priv, ptbase := x.ptbase, part := s.hart.part, world := x.world
    hart := s.hart.id, order := some x.id }

/-- R296: what a transfer is still to touch. -/
def xferPending (s : State) (x : Xfer) : List Pending :=
  (match x.kind with
    | .cpy => []
    | .puts => [{ order := x.id, req := engineReq s x .atomic, lo := x.side, len := 8 }]
    | .cpyb => [{ order := x.id, req := engineReq s x .atomic, lo := x.side, len := 64 }])
  ++ if x.landed then [] else
    (List.range x.rows).flatMap fun r =>
      [{ order := x.id, req := engineReq s x .load, lo := x.src + BitVec.ofNat 64 r * x.srcStride, len := x.len },
       { order := x.id, req := engineReq s x .store, lo := x.dst + BitVec.ofNat 64 r * x.dstStride, len := x.len }]

/-- R92, R254: the bytes of an image of a CLIN stream: under the set that governs its images once it is found, and before
that the most that any set gives (R84). -/
def clinSpan (sl : StreamSlot) : Nat :=
  match sl.gov with
  | some p => 64 + 4 * ((p.n + 1) * p.l)
  | none => 64 + 4 * (2048 * 4)

/-- R251, R256: what a stream is still to touch, from its progress on. -/
def streamPending (s : State) (sl : StreamSlot) : List Pending :=
  let b := sl.scb
  let rd : Req := { reqOf s .load .port .neither with order := some sl.order }
  let wr : Req := { rd with kind := .store }
  let n := 4 * 2 ^ b.logn
  let at' : Word → Word → Nat → Word := fun base str c => base + BitVec.ofNat 64 c * str
  let mk : Req → Word → Nat → Pending := fun r lo len => { order := sl.order, req := r, lo := lo, len := len }
  if b.kind = 3 then
    ((List.range b.nin).map fun i => mk rd (at' b.src0 b.str0 i) (clinSpan sl))
    ++ (indices b.prog b.count).flatMap fun o =>
      [mk rd (at' b.src1 b.str1 o) (ceilDiv (b.nin * b.wa) 8), mk wr (at' b.dst b.strd o) (clinSpan sl)]
  else
    (indices (if b.kind = 2 then b.prog / 2 ^ b.logn else b.prog) b.count).flatMap fun c =>
      [mk rd (at' b.src0 b.str0 c) n, mk wr (at' b.dst b.strd c) n]
      ++ if b.kind = 2 then [mk rd (at' b.src1 b.str1 c) n] else []

/-- R370: the answer of a query that is still to be written. -/
def queryPending (s : State) (q : Nat × Word) : Pending :=
  { order := q.1, req := { reqOf s .store .engine .neither with order := some q.1 }, lo := q.2, len := 16 }

/-- R296: the entries that the hart's transfers, running streams and queries hold. -/
def entriesHeld (s : State) : Nat := s.hart.xfers.length + (runningSlots s.hart).length + s.hart.queries.length

/-- R296, R370: the entries of the hart's transfers, running streams and queries. -/
def pendings (s : State) : List Pending :=
  s.hart.xfers.flatMap (xferPending s) ++ s.hart.queries.map (queryPending s)
  ++ (s.hart.streams.toList.filter fun sl => sl.state == SlotState.running).flatMap (streamPending s)

/-- R296: the 64-byte block of a key lies in a pending stretch. -/
def Pending.touches (p : Pending) (s : State) (key : Nat) : Bool :=
  (List.range p.len).any fun i =>
    match resolve p.req (p.lo + BitVec.ofNat 64 i) s with
    | .ok (t, _) => t.rd / 64 == key / 64 || t.wr.any fun w => w / 64 == key / 64
    | .error _ => false

/-- R296, R256: a V access of the hart that overlaps an earlier transfer, stream or query waits, loads too, and so does one
that finds all 32 entries held (DEDUCED, notes/assumptions/24.md). -/
def interlocked (r : Req) (keys : List Nat) (s : State) : Bool :=
  r.agent != .scalar && r.hart == s.hart.id
    && ((r.order.isNone && decide (32 ≤ entriesHeld s))
      || (pendings s).any fun p => r.order.all (fun n => decide (p.order < n)) && keys.any (p.touches s))

/-- R295: a stretch that is still to be touched has a byte in an ATTR 2 page. -/
def Pending.device (p : Pending) (s : State) : Bool :=
  (List.range p.len).any fun i =>
    match resolve p.req (p.lo + BitVec.ofNat 64 i) s with
    | .ok (t, _) => t.attr == 2
    | .error _ => false

/-- R295: the ATTR 2 accesses of a hart's V side, those of its transfers and streams among them, stay in program order
(DEDUCED, notes/assumptions/24.md). -/
def deviceHeld (r : Req) (s : State) : Bool :=
  r.agent != .scalar && r.hart == s.hart.id
    && (pendings s).any fun p => r.order.all (fun n => decide (p.order < n)) && p.device s

/-- R315, R318, R319: the packets of an access to other endpoints: a signal or deposit of an engine on channel 2, every other
request on channel 0. An engine or a stream reads and writes byte by byte in the model, and a free value says which of its
accesses begin a packet (DESIGN CHOICE, notes/assumptions/37.md). -/
def sendRequest (r : Req) (t : Target) (s : State) : State :=
  let writes := r.kind == .store || r.kind == .atomic
  let bytewise := (r.agent == .engine || r.agent == .port) && r.kind != .atomic
  ((if writes then t.wr else [t.via.getD t.rd]).filter (remoteKey s)).foldl (fun s k =>
    if bytewise && !Config.packetStarts s.tick k then s else sendPacket r.die (requestChannel r) k s) s

/-- R415: the interlock and checks 4, 5 and 6 of an access that `resolve` has let through: what it found, `s` being the
state before it. Its packets leave once, before an answer is waited for (R424). -/
def arrive (r : Req) (va : Word) (s : State) (x : Target × State) : Except Stop (Target × State) :=
  let w := waitOf r s
  let writes := r.kind == .store || r.kind == .atomic
  let keys := if writes then x.1.wr else [x.1.rd]
  if interlocked r keys s || (x.1.attr == 2 && deviceHeld r s) then .error (.wait s) else
  match keys.findSome? fun k => (keyTrap x.2 r va x.1 0 k).map (sentTrap s r (x.1.via.getD k)) with
  | some f => .error (.trap f 0)
  | none =>
    let sent := w.any (·.trap.cause == 0x11)
    let y := if sent then x.2 else sendRequest r x.1 x.2
    if silent x.2 x.1.rd || (writes && (x.1.wr.take 1).any (silent x.2)) then
      if w.any fun w => w.expired && w.trap.cause == 0x11 then deny 0x11 va else waitAccess { cause := 0x11, tval := va } r y
    else if keys.any (lockedBy x.2 r) then
      if w.any fun w => w.expired && w.trap.cause == 0x12 then deny 0x12 va else waitAccess { cause := 0x12, tval := va } r x.2
    else .ok (x.1, y)

/-- R315: of an access that another agent of the device makes for itself, the packets alone have left. -/
def leftPackets (s u : State) : State := { s with dev := { s.dev with ports := u.dev.ports } }

/-- R315: an access that stopped has left by a port, unless it found none. -/
def leftStopped (e : Stop) (s : State) : State :=
  match e with
  | .trap t _ => leftPackets s (failedAccess t s)
  | .cut t _ => leftPackets s (failedAccess t s)
  | .trim _ => s
  | .wait u => leftPackets s u

/-- R415: an access: checks 2 to 6. A load past its first limit goes to the home (R134). -/
def reach (r : Req) (va : Word) (s : State) : Except Stop (Target × State) :=
  let r := { r with atHome := (waitOf r s).any (·.redirect) }
  match resolve r va s with
  | .error e => .error e
  | .ok x => arrive r va s x

/-- R346: a line encrypted under a version and written whole at a copy. -/
def sealLine (c : SealedCopy) (version : Nat) (plain : List Byte) (s : State) : State :=
  let line := c.copy / 256
  let raw := (List.range 256).map fun i => plain.getD i 0 ^^^ Config.linePad c.key (c.ga / 256) version i
  (poke (line * 256) raw s).onDev fun d =>
    { d with sideband := { line := line, version := version, tag := Config.lineTag c.key (c.ga / 256) version plain }
                           :: d.sideband.filter (·.line != line) }

/-- R97: key material reads as zero. -/
def inKeyStore (key : Nat) : Bool := decide (key < 2 ^ 56) && decide (epOf key < 1024) && within (offOf key) keyOff 0x20000000

/-- R346: the bytes at a key of a target as an access that has passed check 4 finds them: decrypted where they are
encrypted. -/
def bytesAt (t : Target) (key n : Nat) (s : State) : Nat :=
  match t.e2e.find? (·.copy == key) with
  | none => peek key n s
  | some c => leNat ((((openLine c s).getD (List.replicate 256 0)).drop (key % 256)).take n)

/-- R97: the bytes an access reads at its target; a key store reads as zero. -/
def readTarget (t : Target) (n : Nat) (s : State) : Nat := if inKeyStore t.rd then 0 else bytesAt t t.rd n s

/-- R287: a region whose words a store or copy touches becomes INVALID and unbound. -/
def echoTouch (key n : Nat) (c : Core) : Core :=
  { c with echo := c.echo.map fun e =>
      if e.bound.isSome && e.span.any fun x => decide (key < x.1 + x.2) && decide (x.1 < key + n)
      then { e with state := 0, bound := none } else e }

/-- The core whose window holds a key (R119). -/
def windowCore (s : State) (key : Nat) : Option Nat :=
  if 2 ^ 56 ≤ key then some ((key - 2 ^ 56) / 0x10000)
  else if epOf key = s.dev.devid ∧ within (offOf key) scratchOff (96 * 0x100000)
  then some ((offOf key - scratchOff) / 0x100000) else none

/-- R175: the wake latch of every hart of a core but `except`. -/
def wakeCore (c : Nat) (except : Option Nat) (s : State) : State :=
  let f : Hart → Hart := fun h => if coreOf h.id = c ∧ some h.id ≠ except then { h with latch := true } else h
  { s with hart := f s.hart, harts := s.harts.map f }

/-- What follows every landing of bytes at a key: Echo regions it touches (R287) and wake latches (R175). -/
def afterStore (agent : Agent) (hart : Option Nat) (key n : Nat) (s : State) : State :=
  let s := { s with core := echoTouch key n s.core, cores := s.cores.map (echoTouch key n) }
  match windowCore s key with
  | none => s
  | some c => wakeCore c (if agent = .scalar then hart else none) s

/-! ### The command window (R302, R303, R435) -/

/-- R303: a write of bytes to a partition block. The scheduler's own fields and reserved bytes ignore it; RING and
LOGSZ change only while POSTED equals TAKEN, and then the queue starts anew. A change of CORES lets harts be bound (R305);
ENABLE set clears the energy counters (R311) and starts the governor's periods (R310). -/
def partWrite (p off : Nat) (bs : List Byte) (s : State) : State :=
  let base := partKey s p 0
  let idle : Nat → Bool := fun n =>
    peek (base + 0x80 + 32 * n + 0x10) 8 s == peek (base + 0x80 + 32 * n + 0x18) 8 s
  let accepts : Nat → Bool := fun o =>
    if o < 0x80 then
      (o == 0) || within o 0x008 8 || within o 0x010 12 || within o 0x020 5 || within o 0x026 2 || within o 0x028 16
        || within o 0x040 16
    else if o < 0x280 then
      let f := (o - 0x80) % 32
      if f < 9 then idle ((o - 0x80) / 32) else within f 0x10 8
    else false
  let wrote : Nat → Bool := fun n => idle n && (List.range bs.length).any fun i =>
    within (off + i) (0x80 + 32 * n) 9
  let en := bitAt (peek base 1 s) 0
  let s1 := (List.range bs.length).foldl (fun t i =>
    if accepts (off + i) then poke (base + off + i) [if off + i = 0 then bs.getD i 0 &&& 1 else bs.getD i 0] t else t) s
  let s2 := (List.range 16).foldl (fun t n =>
    if wrote n then
      let d := base + 0x80 + 32 * n
      poke (d + 0x18) (leBytes 8 (peek (d + 0x10) 8 t)) (poke (d + 0x09) (leBytes 7 0) t)
    else t) s1
  let takes := (List.finRange 16).filter fun n => peek (base + 0x90 + 32 * n.val) 8 s2 != peek (base + 0x98 + 32 * n.val) 8 s2
  let s3 := if bitAt (peek base 1 s2) 0 then due (takes.map fun n => Instr.takeLaunchRecord p n) s2 else s2
  let s4 := if peek (base + 0x10) 12 s3 = peek (base + 0x10) 12 s then s3 else due [Instr.bindHart p] s3
  if !en && bitAt (peek base 1 s2) 0 then
    let next := periodAfter 10000 s.dev.time.toNat
    atTime next (.governorPeriod p) (s4.onDev fun d =>
      { d with energies := d.energies.filter (·.part != p)
               governors := { part := p, next := next } :: d.governors.filter (·.part != p) })
  else s4

/-- R337: the step that serves a mailbox slot, by its CMD; an unknown CMD is answered by the first. -/
def mailEvent (cmd : Nat) (slot : Fin 16) : Instr :=
  match cmd with
  | 2 => .ctxopen slot
  | 3 => .ctxshare slot
  | 4 => .ctxend slot
  | 5 => .wbind slot
  | 6 => .ctxexport slot
  | 7 => .ctxaccept slot
  | 8 => .fwstage slot
  | 9 => .fwact slot
  | _ => .attest slot

/-- R337: a write that changes a slot's POSTED word posts the slot. -/
def mailPost (off : Nat) (s0 s : State) : State :=
  let slot : Fin 16 := Fin.ofNat 16 ((off - mailboxOff) / 0x1000)
  if within off mailboxOff (16 * 0x1000) && peek (mailKey s slot.val 0) 8 s0 != peek (mailKey s slot.val 0) 8 s then
    due [mailEvent (peek (mailKey s slot.val 8) 2 s) slot] (s.onDev fun d => { d with mailbox := d.mailbox ++ [slot] })
  else s

/-- Bytes written at one key: a partition block takes them by R303, every other place as they are. -/
def writeKey (key : Nat) (bs : List Byte) (s : State) : State :=
  if epOf key = s.dev.devid ∧ within (offOf key) windowOff (96 * 0x1000) then
    partWrite ((offOf key - windowOff) / 0x1000) ((offOf key - windowOff) % 0x1000) bs s
  else if epOf key = s.dev.devid ∧ key < 2 ^ 56 then mailPost (offOf key) s (poke key bs s)
  else poke key bs s

/-- R346: bytes written at one copy of a target. An encrypted line is merged into the line that the store fetched and
written whole under the next version; the copies of one address carry one version. -/
def writeCopy (t : Target) (line : List Byte) (version : Nat) (bs : List Byte) (s : State) (key : Nat) : State :=
  match t.e2e.find? (·.copy == key) with
  | none => writeKey key bs s
  | some c =>
    let v := if t.e2e.any fun x => x.copy == t.rd && x.ga == c.ga then version else (sidebandAt s key).version
    sealLine c (v + 1) ((List.range 256).map fun i => if within i (key % 256) bs.length then bs.getD (i - key % 256) 0 else line.getD i 0) s

/-- R397: a failing word is written whole by `n` bytes at a key, or by the store or copy that they are part of. -/
def wordHealed (r : Req) (va : Word) (n key w : Nat) : Bool :=
  (decide (4 ≤ n) && decide (key % 256 / 4 ≤ w) && decide (4 * w + 4 ≤ key % 256 + n))
    || (w == key % 256 / 4
      && (List.range 4).all fun i => r.whole.any fun x => decide (x.1 + key % 4 ≤ va.toNat + i) && decide (va.toNat + i < x.2 + key % 4))

/-- R419, R397: a block or word that a store or copy writes whole no longer fails. -/
def healBlocks (r : Req) (va : Word) (n : Nat) (keys : List Nat) (s : State) : State :=
  let heals : BadBlock → Nat → Bool := fun b k => b.block == k / 256 &&
    match b.word with
    | none => r.kind == .store && wholeBlock r va
    | some w => wordHealed r va n k w
  s.onDev fun d => { d with bad := d.bad.filter fun b => !keys.any (heals b) }

/-- R346: the line that a store fetches and merges into: the one it would read, as plaintext. -/
def lineOf (t : Target) (s : State) : List Byte :=
  match t.e2e.find? (·.copy == t.rd) with
  | some c => (openLine c s).getD []
  | none => if t.e2e.isEmpty then [] else Memory.reads s.mem (t.rd / 256 * 256) 256

/-- R133, R162: the bytes of a store performed at every copy of its target. -/
def writeTarget (r : Req) (t : Target) (va : Word) (bs : List Byte) (s : State) : State :=
  let line := lineOf t s
  let s1 := t.wr.foldl (writeCopy t line (sidebandAt s t.rd).version bs) s
  let s2 := t.wr.foldl (fun s k => afterStore r.agent (some r.hart) k bs.length s) s1
  healBlocks r va bs.length t.wr s2

/-- R112: check 1. -/
def aligned (va : Word) (al : Nat) : Bool := va.toNat % al == 0

/-- A load of `n` bytes aligned to `al` (R415, R161). -/
def load (r : Req) (va : Word) (n al : Nat) (s : State) : Except Stop (Nat × State) :=
  if !aligned va al then deny 0x03 va else
  match reach { r with bytes := n } va s with
  | .error e => .error e
  | .ok (t, s') => .ok (readTarget t n s', s')

/-- R424: a store or atomic that waits for a remote answer may have been performed when its limit passes. -/
def noteLate (r : Req) (va : Word) (a : Act) (s : State) : State :=
  match resolve r va s with
  | .ok (t, _) =>
    if t.wr.any (silent s) then
      s.onHart fun h => { h with waits := h.waits.map fun w => if w.who = r.waiter then { w with late := some (va, a) } else w }
    else s
  | .error _ => s

/-- A store of `n` bytes aligned to `al` (R415, R162). -/
def store (r : Req) (va : Word) (n al x : Nat) (s : State) : Except Stop State :=
  if !aligned va al then deny 0x03 va else
  match reach { r with bytes := n } va s with
  | .error (.wait t) => .error (.wait (noteLate r va (.store (leBytes n x)) t))
  | .error e => .error e
  | .ok (t, s') => .ok (writeTarget r t va (leBytes n x) s')

/-- R71: a store of some bits of one byte, the others keeping their values, in a key store too (R97). -/
def storeBits (r : Req) (va : Word) (mask x : Nat) (s : State) : Except Stop State :=
  match reach r va s with
  | .error e => .error e
  | .ok (t, s') =>
    .ok (writeTarget r t va [BitVec.ofNat 8 ((bytesAt t t.rd 1 s' &&& (255 - mask % 256)) + (x &&& mask) % 256)] s')

/-- R166, R266: what a read and write of `w` bits makes of an old value, for an operand and an expected value. -/
def RmwKind.new (k : RmwKind) (w old b e : Nat) : Nat :=
  match k with
  | .sub => (old + 2 ^ w - b) % 2 ^ w
  | .swap => b
  | .add => (old + b) % 2 ^ w
  | .and => old &&& b
  | .or => old ||| b
  | .xor => old ^^^ b
  | .min => if sextN w old < sextN w b then old else b
  | .max => if sextN w old > sextN w b then old else b
  | .minu => if old < b then old else b
  | .maxu => if old > b then old else b
  | .cas => if old = e then b else old

/-- The new value of a read and write. -/
def Rmw.new (m : Rmw) (old : Nat) : Nat := m.kind.new (8 * m.n) old m.b m.e

/-- R135, R166: one indivisible read and write at a target: the old value, and the new one at every copy. -/
def rmwTarget (r : Req) (t : Target) (va : Word) (m : Rmw) (s : State) : Nat × State :=
  let old := readTarget t m.n s
  (old, writeTarget r t va (leBytes m.n (m.new old)) s)

/-- R135, R166: one indivisible read and write of `n` aligned bytes, which answers the old value. -/
def rmw (r : Req) (va : Word) (m : Rmw) (s : State) : Except Stop (Nat × State) :=
  if !aligned va m.n then deny 0x03 va else
  match reach { r with bytes := m.n } va s with
  | .error (.wait t) => .error (.wait (noteLate r va (.rmw m 0) t))
  | .error e => .error e
  | .ok (t, s') => .ok (rmwTarget r t va m s')

/-! ### Accesses of the S agent put off (R163, R295) -/

/-- R140: a field of n bits sign-extended to 64. -/
def sextF (n x : Nat) : Word := (BitVec.ofNat n x).signExtend 64

/-- R161, R166: a value of `n` bytes as an X register holds it, sign-extended or not. -/
def extendX (n : Nat) (signed : Bool) (x : Nat) : Word := if signed then sextF (8 * n) x else Word.ofNat x

/-- How many bytes an act touches. -/
def Act.size : Act → Nat
  | .store bs => bs.length
  | .rmw m _ => m.n
  | .load n _ _ => n

/-- R163: the accesses put off that an access to `n` bytes at a target must stay behind: those that share a byte with it, and
those to ATTR 2 pages where it is one. -/
def staysBehind (s : State) (t : Target) (n : Nat) : Bool :=
  s.hart.sbuf.any fun x => (x.target.attr == 2 && t.attr == 2) || (t.rd :: t.wr).any fun k =>
    (x.target.rd :: x.target.wr).any fun j => decide (k < j + x.act.size) && decide (j < k + n)

/-- R426: an access that was put off still has its place: a unit of grotto that it goes to is its partition's, or has been freed
since and is not zeroed yet. -/
def hasPlace (s : State) (x : SAccess) : Bool :=
  x.target.wr.all fun k => decide (2 ^ 56 ≤ k) || decide (epOf k < 3840)
    || s.dev.units.any fun u => u.pod == epOf k - 3840 && u.num == offOf k / 65536 && u.part.all (· == x.req.part)

/-- R162, R166: what an act does to memory at a target. -/
def Act.perform (a : Act) (r : Req) (t : Target) (va : Word) (s : State) : State :=
  match a with
  | .store bs => writeTarget r t va bs s
  | .rmw m _ => (rmwTarget r t va m s).2
  | .load .. => s

/-- R161, R166: the value that an act brings from a target to its X register. -/
def Act.reply (a : Act) (t : Target) (s : State) : Word :=
  match a with
  | .store _ => 0
  | .rmw m _ => extendX m.n (m.n == 4) (readTarget t m.n s)
  | .load n signed _ => extendX n signed (readTarget t n s)

/-- R163, R295: an access that was put off is performed (DESIGN CHOICE, notes/assumptions/72.md). -/
def performAccess (s : State) (x : SAccess) : State :=
  wx (x.act.dest.getD 0) (x.act.reply x.target s) (if hasPlace s x then x.act.perform x.req x.target x.va s else s)

/-- R163, R295: the accesses of the S agent that were put off are performed, in program order. -/
def performBuffered (s : State) : State := s.hart.sbuf.foldl performAccess (s.onHart fun h => { h with sbuf := [] })

/-- R163: the state in which the S agent performs an access to `n` bytes at once, behind the accesses put off that it must
stay behind. -/
def inOrder (r : Req) (va : Word) (n : Nat) (s : State) : State :=
  match resolve r va s with
  | .ok (t, _) => if staysBehind s t n then performBuffered s else s
  | .error _ => s

/-- R295: an access of the S agent whose checks are made now and which is performed later. -/
def putOff (r : Req) (va : Word) (al : Nat) (a : Act) (s : State) : Except Stop State :=
  if !aligned va al then deny 0x03 va else
  match reach { r with bytes := a.size } va s with
  | .error (.wait t) => .error (.wait (if r.kind == .load then t else noteLate r va a t))
  | .error e => .error e
  | .ok (t, s') => .ok (s'.onHart fun h => { h with sbuf := h.sbuf ++ [{ req := r, target := t, va := va, act := a }] })

/-- R13: a word put into a core's instruction cache of 128 KiB. -/
def cacheWord (key w : Nat) (c : Core) : Core := { c with icache := ((key, w) :: c.icache.filter (·.1 != key)).take 32768 }

/-- R13: the word that a fetch finds: that of memory, or the cached one where the two differ and the cache still serves it
(DESIGN CHOICE, notes/assumptions/5.md). -/
def cachedWord (key w : Nat) (s : State) : Nat :=
  match s.core.icache.find? (·.1 == key) with
  | none => w
  | some x => if x.2 ≠ w ∧ Config.cacheHit s.tick then x.2 else w

/-- R443, R13: one word fetched, through the instruction cache. -/
def fetchWord (va : Word) (s : State) : Except Stop (Nat × State) :=
  if !aligned va 4 then deny 0x03 va else
  match reach { reqOf s .fetch .scalar .neither with bytes := 4 } va s with
  | .error e => .error e
  | .ok (t, s') =>
    let w := cachedWord t.rd (readTarget t 4 s') s'
    .ok (w, s'.onCore (cacheWord t.rd w))

/-- A whole object read byte by byte, ascending (R415: the first byte that fails decides). -/
def loadBytes (r : Req) (va : Word) : Nat → State → Except Stop (List Byte × State)
  | 0, s => .ok ([], s)
  | n + 1, s =>
    match loadBytes r va n s with
    | .error e => .error e
    | .ok (bs, s') =>
      match load r (va + BitVec.ofNat 64 n) 1 1 s' with
      | .error e => .error e
      | .ok (b, s'') => .ok (bs ++ [BitVec.ofNat 8 b], s'')

/-- Every byte of a stretch passes the checks of a store (R403); nothing is written. -/
def checkBytes (r : Req) (va : Word) : Nat → State → Except Stop State
  | 0, s => .ok s
  | n + 1, s =>
    match checkBytes r va n s with
    | .error e => .error e
    | .ok s' =>
      match reach r (va + BitVec.ofNat 64 n) s' with
      | .error e => .error e
      | .ok (_, s'') => .ok s''

/-- Bytes stored ascending, each with its checks; the bytes before a failure have landed. -/
def storeBytes (r : Req) : Word → List Byte → State → Except Stop State
  | _, [], s => .ok s
  | va, b :: bs, s =>
    match store r va 1 1 b.toNat s with
    | .error e => .error e
    | .ok s' => storeBytes r (va + 1) bs s'

/-- R403: a whole object stored only if every byte of it passes its checks (DEDUCED, notes/assumptions/28.md). -/
def storeObject (r : Req) (va : Word) (bs : List Byte) (s : State) : Except Stop State :=
  let r := { r with whole := [(va.toNat, va.toNat + bs.length)] }
  match checkBytes r va bs.length s with
  | .error e => .error e
  | .ok s' => storeBytes r va bs s'

/-- R377, R381: the outcome of a scalar access: its trap taken precisely, or its wait. -/
def settle (x : Except Stop State) (s : State) : State :=
  match x with
  | .ok t => t
  | .error (.trap t _) => raise t s
  | .error (.cut t s') => raise t s'
  | .error (.trim _) => wait s
  | .error (.wait t) => wait t

end

end Sys2Proof.Machine
end

