-- ==== Sys2Proof/Machine/Scalar.lean ====
section
/-!
DEFINITION. The scalar instructions (07_isa_scalar.md R158 to R169): arithmetic, immediates, loads and stores,
branches and jumps, atomics and hardware loops.
-/
namespace Sys2Proof.Machine

noncomputable section

/-- The answer of a meaning. -/
abbrev Out := Host.Outcome State Fault Refusal

/-! ### Register-register arithmetic (R158) -/

/-- R158: a result of two registers. -/
def alu2 (d a b : Fin 32) (f : Word → Word → Word) (s : State) : State :=
  scalar [d, a, b] (fun s => retire (wx d (f (rx a s) (rx b s)) s)) s

/-- R158, R159: a result of one register. -/
def alu1 (d a : Fin 32) (f : Word → Word) (s : State) : State :=
  scalar [d, a] (fun s => retire (wx d (f (rx a s)) s)) s

/-- A comparison's 1 or 0 (R158). -/
def bit01 (b : Bool) : Word := if b then 1 else 0

/-- A result computed on naturals at 64 bits. -/
def natOp (f : Nat → Nat → Nat) (a b : Word) : Word := Word.ofNat (f a.toNat b.toNat)

/-- R61: MULH. -/
def mulh64 (a b : Word) : Word := Word.ofInt (a.toInt * b.toInt / (2 ^ 64 : Nat))
/-- R61: MULHU. -/
def mulhu64 (a b : Word) : Word := Word.ofNat (a.toNat * b.toNat / 2 ^ 64)

/-- R158: ADD, the sum. -/
def execAdd (d a b : Fin 32) (s : State) : Out := .next (alu2 d a b (· + ·) s)

/-- R158: SUB, the difference. -/
def execSub (d a b : Fin 32) (s : State) : Out := .next (alu2 d a b (· - ·) s)

/-- R158: AND, bitwise and. -/
def execAnd (d a b : Fin 32) (s : State) : Out := .next (alu2 d a b (· &&& ·) s)

/-- R158: OR, bitwise or. -/
def execOr (d a b : Fin 32) (s : State) : Out := .next (alu2 d a b (· ||| ·) s)

/-- R158: XOR, bitwise exclusive or. -/
def execXor (d a b : Fin 32) (s : State) : Out := .next (alu2 d a b (· ^^^ ·) s)

/-- R158: SLL, left shift. -/
def execSll (d a b : Fin 32) (s : State) : Out := .next (alu2 d a b (fun x y => x <<< (y.toNat % 64)) s)

/-- R158: SRL, logical right shift. -/
def execSrl (d a b : Fin 32) (s : State) : Out := .next (alu2 d a b (fun x y => x >>> (y.toNat % 64)) s)

/-- R158: SRA, arithmetic right shift. -/
def execSra (d a b : Fin 32) (s : State) : Out := .next (alu2 d a b (fun x y => x.sshiftRight (y.toNat % 64)) s)

/-- R158: SLT, signed less. -/
def execSlt (d a b : Fin 32) (s : State) : Out := .next (alu2 d a b (fun x y => bit01 (x.slt y)) s)

/-- R158: SLTU, unsigned less. -/
def execSltu (d a b : Fin 32) (s : State) : Out := .next (alu2 d a b (fun x y => bit01 (x.ult y)) s)

/-- R158: MIN, signed lesser. -/
def execMin (d a b : Fin 32) (s : State) : Out := .next (alu2 d a b (fun x y => if y.slt x then y else x) s)

/-- R158: MAX, signed greater. -/
def execMax (d a b : Fin 32) (s : State) : Out := .next (alu2 d a b (fun x y => if x.slt y then y else x) s)

/-- R158: MINU, unsigned lesser. -/
def execMinu (d a b : Fin 32) (s : State) : Out := .next (alu2 d a b (fun x y => if y.ult x then y else x) s)

/-- R158: MAXU, unsigned greater. -/
def execMaxu (d a b : Fin 32) (s : State) : Out := .next (alu2 d a b (fun x y => if x.ult y then y else x) s)

/-- R158: MUL, low product (R61). -/
def execMul (d a b : Fin 32) (s : State) : Out := .next (alu2 d a b (· * ·) s)

/-- R158: MULH, high signed product (R61). -/
def execMulh (d a b : Fin 32) (s : State) : Out := .next (alu2 d a b mulh64 s)

/-- R158: MULHU, high unsigned product (R61). -/
def execMulhu (d a b : Fin 32) (s : State) : Out := .next (alu2 d a b mulhu64 s)

/-- R158: DIV, signed quotient (R62). -/
def execDiv (d a b : Fin 32) (s : State) : Out := .next (alu2 d a b (natOp divS) s)

/-- R158: DIVU, unsigned quotient (R62). -/
def execDivu (d a b : Fin 32) (s : State) : Out := .next (alu2 d a b (natOp divU) s)

/-- R158: REM, signed remainder (R62). -/
def execRem (d a b : Fin 32) (s : State) : Out := .next (alu2 d a b (natOp remS) s)

/-- R158: REMU, unsigned remainder (R62). -/
def execRemu (d a b : Fin 32) (s : State) : Out := .next (alu2 d a b (natOp remU) s)

/-- R158: CLZ, leading zero bits. -/
def execClz (d a : Fin 32) (s : State) : Out := .next (alu1 d a (fun x => Word.ofNat (clzN 64 x.toNat)) s)

/-- R158: POPC, one bits. -/
def execPopc (d a : Fin 32) (s : State) : Out := .next (alu1 d a (fun x => Word.ofNat (popN 64 x.toNat)) s)

/-- R158: CTZ, trailing zero bits. -/
def execCtz (d a : Fin 32) (s : State) : Out := .next (alu1 d a (fun x => Word.ofNat (ctzN 64 x.toNat)) s)

/-! ### Immediates (R159, R160, R140) -/

/-- R159: ADDI, with the immediate sign-extended. -/
def execAddi (d a : Fin 32) (i : Fin 32768) (s : State) : Out := .next (alu1 d a (· + (sextF 15 i.val)) s)

/-- R159: ANDI, with the immediate zero-extended. -/
def execAndi (d a : Fin 32) (i : Fin 32768) (s : State) : Out := .next (alu1 d a (· &&& (Word.ofNat i.val)) s)

/-- R159: ORI, with the immediate zero-extended. -/
def execOri (d a : Fin 32) (i : Fin 32768) (s : State) : Out := .next (alu1 d a (· ||| (Word.ofNat i.val)) s)

/-- R159: XORI, with the immediate zero-extended. -/
def execXori (d a : Fin 32) (i : Fin 32768) (s : State) : Out := .next (alu1 d a (· ^^^ (Word.ofNat i.val)) s)

/-- R159: SLTI, with the immediate sign-extended. -/
def execSlti (d a : Fin 32) (i : Fin 32768) (s : State) : Out := .next (alu1 d a (fun x => bit01 (x.slt (sextF 15 i.val))) s)

/-- R159: SLTIU, with the immediate sign-extended. -/
def execSltiu (d a : Fin 32) (i : Fin 32768) (s : State) : Out := .next (alu1 d a (fun x => bit01 (x.ult (sextF 15 i.val))) s)

/-- R159: SLLI, with the shift amount h. -/
def execSlli (d a : Fin 32) (h : Fin 64) (s : State) : Out := .next (alu1 d a (· <<< h.val) s)

/-- R159: SRLI, with the shift amount h. -/
def execSrli (d a : Fin 32) (h : Fin 64) (s : State) : Out := .next (alu1 d a (· >>> h.val) s)

/-- R159: SRAI, with the shift amount h. -/
def execSrai (d a : Fin 32) (h : Fin 64) (s : State) : Out := .next (alu1 d a (·.sshiftRight h.val) s)

/-- R160: the 20-bit immediate shifted left by 12 and sign-extended from 32 bits. -/
def upper (i : Fin 1048576) : Word := sextF 32 (i.val * 4096)

/-- R160: LUI. -/
def execLui (d : Fin 32) (i : Fin 1048576) (s : State) : Out :=
  .next (scalar [d] (fun s => retire (wx d (upper i) s)) s)

/-- R160: AUIPC, relative to its own word. -/
def execAuipc (d : Fin 32) (i : Fin 1048576) (s : State) : Out :=
  .next (scalar [d] (fun s => retire (wx d (s.hart.pc + upper i) s)) s)

/-! ### Loads and stores (R161, R162) -/

/-- R161: the address of a scalar load or store. -/
def memAddr (a : Fin 32) (o : Fin 4096) (s : State) : Word := rx a s + sextF 12 o.val

/-- R163: an access of the S agent to `n` aligned bytes: performed at once behind those that it must follow, or put off to be
performed later (R295) (DESIGN CHOICE, notes/assumptions/72.md). -/
def accessX (later : Bool) (r : Req) (va : Word) (n : Nat) (a : Act) (now : State → Except Stop State) (s : State) : State :=
  match if later then putOff r va n a s else now (inOrder r va n s) with
  | .ok t => retire t
  | .error e => settle (.error e) s

/-- R161: a scalar load of `n` bytes, sign-extended or not. -/
def loadX (n : Nat) (signed : Bool) (d a : Fin 32) (o : Fin 4096) (s : State) : State :=
  scalar [d, a] (fun s =>
    let r := reqOf s .load .scalar .clears
    let va := memAddr a o s
    accessX s.hart.late r va n (.load n signed d) (fun u =>
      match load r va n n u with
      | .ok (x, t) => .ok (wx d (extendX n signed x) t)
      | .error e => .error e) s) s

/-- R162: a scalar store of the low `n` bytes. -/
def storeX (n : Nat) (x a : Fin 32) (o : Fin 4096) (s : State) : State :=
  scalar [x, a] (fun s =>
    let r := reqOf s .store .scalar .clears
    let va := memAddr a o s
    accessX s.hart.late r va n (.store (leBytes n (rx x s).toNat)) (store r va n n (rx x s).toNat) s) s

/-- R161: LDB. -/
def execLdb (d a : Fin 32) (o : Fin 4096) (s : State) : Out := .next (loadX 1 true d a o s)

/-- R161: LDH. -/
def execLdh (d a : Fin 32) (o : Fin 4096) (s : State) : Out := .next (loadX 2 true d a o s)

/-- R161: LDW. -/
def execLdw (d a : Fin 32) (o : Fin 4096) (s : State) : Out := .next (loadX 4 true d a o s)

/-- R161: LDD. -/
def execLdd (d a : Fin 32) (o : Fin 4096) (s : State) : Out := .next (loadX 8 false d a o s)

/-- R161: LDBU. -/
def execLdbu (d a : Fin 32) (o : Fin 4096) (s : State) : Out := .next (loadX 1 false d a o s)

/-- R161: LDHU. -/
def execLdhu (d a : Fin 32) (o : Fin 4096) (s : State) : Out := .next (loadX 2 false d a o s)

/-- R161: LDWU. -/
def execLdwu (d a : Fin 32) (o : Fin 4096) (s : State) : Out := .next (loadX 4 false d a o s)

/-- R162: STB. -/
def execStb (r a : Fin 32) (o : Fin 4096) (s : State) : Out := .next (storeX 1 r a o s)

/-- R162: STH. -/
def execSth (r a : Fin 32) (o : Fin 4096) (s : State) : Out := .next (storeX 2 r a o s)

/-- R162: STW. -/
def execStw (r a : Fin 32) (o : Fin 4096) (s : State) : Out := .next (storeX 4 r a o s)

/-- R162: STD. -/
def execStd (r a : Fin 32) (o : Fin 4096) (s : State) : Out := .next (storeX 8 r a o s)

/-! ### Branches and jumps (R164, R165) -/

/-- R140: the target of a branch word at `pc`. -/
def branchTarget (pc : Word) (o : Fin 32768) : Word := pc + 4 * sextF 15 o.val

/-- R164: a conditional branch; the back-edge test of R43 is made only where it is not taken. -/
def branch (c : Word → Word → Bool) (a b : Fin 32) (o : Fin 32768) (s : State) : State :=
  scalar [a, b] (fun s => if c (rx a s) (rx b s) then jump (branchTarget s.hart.pc o) s else retire s) s

/-- R164: BEQ. -/
def execBeq (a b : Fin 32) (o : Fin 32768) (s : State) : Out := .next (branch (· == ·) a b o s)

/-- R164: BNE. -/
def execBne (a b : Fin 32) (o : Fin 32768) (s : State) : Out := .next (branch (· != ·) a b o s)

/-- R164: BLT. -/
def execBlt (a b : Fin 32) (o : Fin 32768) (s : State) : Out := .next (branch (fun x y => x.slt y) a b o s)

/-- R164: BGE. -/
def execBge (a b : Fin 32) (o : Fin 32768) (s : State) : Out := .next (branch (fun x y => !x.slt y) a b o s)

/-- R164: BLTU. -/
def execBltu (a b : Fin 32) (o : Fin 32768) (s : State) : Out := .next (branch (fun x y => x.ult y) a b o s)

/-- R164: BGEU. -/
def execBgeu (a b : Fin 32) (o : Fin 32768) (s : State) : Out := .next (branch (fun x y => !x.ult y) a b o s)

/-- R165: JAL. -/
def execJal (d : Fin 32) (i : Fin 1048576) (s : State) : Out :=
  .next (scalar [d] (fun s => jump (s.hart.pc + 4 * sextF 20 i.val) (wx d (s.hart.pc + 4) s)) s)

/-- R165: JALR; the target uses the value from before the write. -/
def execJalr (d a : Fin 32) (i : Fin 32768) (s : State) : Out :=
  .next (scalar [d, a] (fun s => jump ((rx a s + sextF 15 i.val) &&& ~~~3#64) (wx d (s.hart.pc + 4) s)) s)

/-! ### Scalar atomics (R166, R167) -/

/-- R166, R167: an AMO on a word, or a doubleword with .D. One with .AQ or .RL is never put off: what comes after the one, and
what came before the other (bufferedBefore), stays there. Its scope orders nothing that the model leaves open
(DESIGN CHOICE, notes/assumptions/1.md). -/
def amo (k : RmwKind) (d a b : Fin 32) (x q l : Bool) (s : State) : State :=
  scalar [d, a, b] (fun s =>
    let n := if x then 8 else 4
    let m : Rmw := { kind := k, n := n, b := (rx b s).toNat % 2 ^ (8 * n), e := (rx d s).toNat % 2 ^ (8 * n) }
    let r := reqOf s .atomic .scalar .clears
    accessX (s.hart.late && !q && !l) r (rx a s) n (.rmw m d) (fun u =>
      match rmw r (rx a s) m u with
      | .ok (old, t) => .ok (wx d (extendX n (n == 4) old) t)
      | .error e => .error e) s) s

/-- R166: AMOSWAP. -/
def execAmoswap (d a b : Fin 32) (x q l : Bool) (_s : Fin 8) (s : State) : Out := .next (amo .swap d a b x q l s)

/-- R166: AMOADD. -/
def execAmoadd (d a b : Fin 32) (x q l : Bool) (_s : Fin 8) (s : State) : Out := .next (amo .add d a b x q l s)

/-- R166: AMOAND. -/
def execAmoand (d a b : Fin 32) (x q l : Bool) (_s : Fin 8) (s : State) : Out := .next (amo .and d a b x q l s)

/-- R166: AMOOR. -/
def execAmoor (d a b : Fin 32) (x q l : Bool) (_s : Fin 8) (s : State) : Out := .next (amo .or d a b x q l s)

/-- R166: AMOXOR. -/
def execAmoxor (d a b : Fin 32) (x q l : Bool) (_s : Fin 8) (s : State) : Out := .next (amo .xor d a b x q l s)

/-- R166: AMOMIN. -/
def execAmomin (d a b : Fin 32) (x q l : Bool) (_s : Fin 8) (s : State) : Out := .next (amo .min d a b x q l s)

/-- R166: AMOMAX. -/
def execAmomax (d a b : Fin 32) (x q l : Bool) (_s : Fin 8) (s : State) : Out := .next (amo .max d a b x q l s)

/-- R166: AMOMINU. -/
def execAmominu (d a b : Fin 32) (x q l : Bool) (_s : Fin 8) (s : State) : Out := .next (amo .minu d a b x q l s)

/-- R166: AMOMAXU. -/
def execAmomaxu (d a b : Fin 32) (x q l : Bool) (_s : Fin 8) (s : State) : Out := .next (amo .maxu d a b x q l s)

/-- R166: AMOCAS. -/
def execAmocas (d a b : Fin 32) (x q l : Bool) (_s : Fin 8) (s : State) : Out := .next (amo .cas d a b x q l s)

/-! ### Hardware loops (R42, R44, R168, R169) -/

/-- One of the two loops. -/
def Loops.get (l : Loops) (k : Fin 2) : HwLoop := if k = 0 then l.lc0 else l.lc1

/-- One of the two loops replaced. -/
def Loops.put (l : Loops) (k : Fin 2) (x : HwLoop) : Loops := if k = 0 then { l with lc0 := x } else { l with lc1 := x }

/-- R42, R168: LOOP. A count of 0 continues after the end address, with the counter dead. A LOOP that itself ends the
body of the other loop makes that loop's test (R43). -/
def execLoop (k : Fin 2) (a : Fin 32) (i : Fin 32768) (s : State) : Out :=
  .next (scalar [a] (fun s =>
    let c := (rx a s).toNat % 2 ^ 24
    let last := s.hart.pc + BitVec.ofNat 64 (4 * i.val)
    if c = 0 then
      let t := (s.hart.loops.put k {}).test s.hart.pc
      jump (t.1.getD (last + 4)) (s.onHart fun h => { h with loops := t.2 })
    else
      let l : HwLoop := { live := true, count := c - 1, start := s.hart.pc + 4, last := last }
      retire (s.onHart fun h => { h with loops := { h.loops.put k l with zeroLater := k = 0 } })) s)

/-- R44, R169: MVLC writes the counter of a live loop before the test of its own convoy. -/
def execMvlc (k : Fin 2) (a : Fin 32) (s : State) : Out :=
  .next (scalar [a] (fun s =>
    retire (s.onHart fun h =>
      let l := h.loops.get k
      if l.live then { h with loops := h.loops.put k { l with count := (rx a s).toNat % 2 ^ 24 } } else h)) s)

end

end Sys2Proof.Machine
end

