-- ==== Sys2Proof/Machine/Clock.lean ====
section
/-!
DEFINITION. Clock groups (14_fabric.md R324 to R334, 23 R434): own limits, reef notices, shake-outs, heartbeats,
joining, leaving, silence and eviction, and the queue of a die's events (R394). A message to another die of this
device is an event in the agenda; one to another device leaves as a packet, and one from there comes with the outside.
-/
namespace Sys2Proof.Machine

noncomputable section

/-- R394: an event queued on the die in focus; with 64 queued it is dropped. -/
def dieEvent (link : Bool) (v : Word) (s : State) : State :=
  s.onDie fun d => if 64 ≤ d.events.length then { d with dropped := true } else { d with events := d.events ++ [(link, v)] }

/-- R324: the member number of die `d`. -/
def memberNum (s : State) (d : Nat) : Nat := s.dev.devid * 4 + d

/-- R276, R325: a frequency rounded down to a 25 MHz step and clamped to 800 to 2,250. -/
def clampMhz (v : Nat) : Nat := max 800 (min 2250 (v / 25 * 25))

/-- R325: the own limit of a die. -/
def ownLimit (c : Clock) : Nat := min c.monitor (if c.reef = 0 then 2250 else c.reef)

/-- R326: the announced limit of a member. -/
def limitOf (c : Clock) (m : Nat) : Option Nat := (c.members.find? (·.num == m)).map (·.limit)

/-- R326: the least announced limit. -/
def leastLimit (ms : List Member) (start : Nat) : Nat := ms.foldl (fun n m => min n m.limit) start

/-- An announced limit set. -/
def setLimit (ms : List Member) (m v : Nat) : List Member := ms.map fun x => if x.num = m then { x with limit := v } else x

/-- R324: the other dies of this device in the group of the die in focus. -/
def groupDies (s : State) : List Nat :=
  (List.range 4).filter fun d => d != s.die.id && s.die.clock.gid != 0 && (dieAt d s).clock.gid == s.die.clock.gid

/-- The clock of the die in focus changed. -/
def onClock (f : Clock → Clock) (s : State) : State := s.onDie fun d => { d with clock := f d.clock }

/-- R329, R332: a message of member `m` arrives, with the TIME stamp `at'`. It ends the silence of the member: the announced
limit that it carries is restored, and the ceiling is not raised (DEDUCED, notes/assumptions/42.md). -/
def heard (m : Nat) (carried : Option Nat) (at' : Nat) (c : Clock) : Clock :=
  let c := { c with sent := (m, at') :: c.sent.filter (·.1 != m) }
  if c.silent.contains m then
    let c := { c with silent := c.silent.filter (· != m) }
    match carried with
    | some v => { c with members := setLimit c.members m v, freq := min c.freq v }
    | none => c
  else c

/-- R332: the dies of this device that measure the silence of a member, from its last message to any of them
(DEDUCED, notes/assumptions/42.md). -/
def listeners (s : State) : List Nat := s.die.id :: groupDies s

/-- R332: a message of member `m` has come in the last `span` nanoseconds. -/
def heardWithin (m span : Nat) (s : State) : Bool :=
  (listeners s).any fun d => (dieAt d s).clock.sent.any fun x => x.1 == m && decide (s.dev.time.toNat < x.2 + span)

/-- R332: the die in focus measures the silence of member `m` from a TIME stamp. -/
def watch (m at' : Nat) (s : State) : State :=
  let quiet := Instr.memberSilence s.die.id m
  let gone := Instr.memberEviction s.die.id m
  atTime (at' + 1000000) gone (atTime (at' + 200000) quiet (cancelTimer gone (cancelTimer quiet s)))

/-- R332: the stamp that a clock holds of the last message of a member. -/
def lastStamp (m : Nat) (c : Clock) : Nat := ((c.sent.find? (·.1 == m)).map (·.2)).getD 0

/-- R332: the TIME stamp from which every die of this device in the group measures the silence of a member. -/
def lastHeard (m : Nat) (s : State) : Nat := (listeners s).foldl (fun t d => max t (lastStamp m (dieAt d s).clock)) 0

/-- R332: the TIME stamp of a message of a member: when a die of this device sent it, and for another device when it comes
(DEDUCED, notes/assumptions/42.md). -/
def stampOf (m : Nat) (s : State) : Nat :=
  let now := s.dev.time.toNat
  if m / 4 = s.dev.devid then (((dieAt (m % 4) s).clock.sent.find? (·.1 == m)).map (·.2)).getD now else now

/-- R329: a message of member `m` reaches the die in focus, and counts as a heartbeat. -/
def hear (m : Nat) (carried : Option Nat) (s : State) : State :=
  watch m (stampOf m s) (onClock (heard m carried (stampOf m s)) s)

/-- R332: the die in focus notes when it sends a message. -/
def stamp (s : State) : State :=
  let self := memberNum s s.die.id
  onClock (fun c => { c with sent := (self, s.dev.time.toNat) :: c.sent.filter (·.1 != self) }) s

/-- R319, R327: a message to another device leaves as a packet on channel 3. -/
def tellDevice (ep : Nat) (s : State) : State := if ep = s.dev.devid then s else sendPacket s.die.id 3 (gaOf ep 0) s

/-- The other devices that a message of the die in focus goes to: those of its members, and for a join request every
accelerator that the device knows (DEDUCED, notes/assumptions/42.md). -/
def groupDevices (s : State) : List Nat :=
  let c := s.die.clock
  ((c.members.map fun x : Member => x.num / 4) ++ (if c.joining.isSome then s.dev.others.map Prod.fst else [])).eraseDups

/-- R329: the die in focus sends a message to every member of its group. -/
def tell (f : Nat → Instr) (s : State) : State :=
  due ((groupDies s).map f) ((groupDevices s).foldl (fun s ep => tellDevice ep s) (stamp s))

/-- The die in focus sends a message to one member. -/
def tellMember (m : Nat) (e : Instr) (s : State) : State :=
  if m / 4 = s.dev.devid then due [e] (stamp s) else tellDevice (m / 4) (stamp s)

/-- R328: a notice lowers the agreement value of a member that has answered a shake-out not yet committed. -/
def lowerAnswer (m v : Nat) (c : Clock) : Clock :=
  { c with shake := c.shake.map fun k =>
      if k.commit.isSome then k else { k with answers := k.answers.map fun a => if a.1 = m then (m, min a.2 v) else a } }

/-- R327: a notice on its way to its effective time, at which it applies on the die in focus. -/
def noteNotice (m v t : Nat) (s : State) : State :=
  atTime t (.reefNoticeEffective s.die.id)
    (onClock (fun c => { c with notices := c.notices ++ [{ member := m, value := v, time := t }] }) s)

/-- R327: a reef notice sent by the die in focus, 50 µs ahead, and received by the dies of this device. -/
def sendNotice (v : Nat) (s : State) : State :=
  let m := memberNum s s.die.id
  let t := s.dev.time.toNat + 50000
  tell (fun d => .reefNotice d m v t) (noteNotice m v t (onClock (lowerAnswer m v) s))

/-- R327, R331: what follows a change of the die's own limit: a solitary die applies a higher one at once and a lower one
50 µs later, and one that is on its way already at its time (DEDUCED, notes/assumptions/42.md); a member of a group sends a
notice. -/
def limitChanged (s : State) : State :=
  let c := s.die.clock
  let own := ownLimit c
  let t := s.dev.time.toNat + 50000
  if c.gid = 0 then
    if c.freq ≤ own then onClock (fun c => { c with freq := own, pending := [] }) s
    else
      let kept := onClock (fun c => { c with pending := c.pending.filter fun p => decide (own ≤ p.1) }) s
      if c.pending.any (·.1 == own) then kept
      else atTime t (.solitaryLimitEffective s.die.id) (onClock (fun c => { c with pending := c.pending ++ [(own, t)] }) kept)
  else
    match limitOf c (memberNum s s.die.id) with
    | some a => if own < a then sendNotice own s else s
    | none => s

/-- R325: OWN_LIMIT_CHANGE. -/
def execOwnLimitChange (d mhz : Nat) (s : State) : Out :=
  .next (asDie d (fun s => limitChanged (onClock (fun c => { c with monitor := clampMhz mhz }) s)) s)

/-- R331: the lower limits of a solitary die whose time has come apply. -/
def solitaryDue (now : Nat) (c : Clock) : Clock :=
  if c.gid ≠ 0 then c else
    { c with
      freq := (c.pending.filter fun p => decide (p.2 ≤ now)).foldl (fun f p => min f p.1) c.freq
      pending := c.pending.filter fun p => decide (now < p.2) }

/-- R331: SOLITARY_LIMIT_EFFECTIVE. -/
def execSolitaryLimitEffective (d : Nat) (s : State) : Out :=
  .next (asDie d (fun s => onClock (solitaryDue s.dev.time.toNat) s) s)

/-- R326, R327: an announced limit lowered, and with it the ceiling. -/
def lowerLimit (m v : Nat) (c : Clock) : Clock :=
  match limitOf c m with
  | none => c
  | some a => { c with members := setLimit c.members m (min a v), freq := min c.freq v }

/-- R327: notices apply; they are kept for a commit that stands before them and is still to apply (R334). -/
def lowerLimits (ns : List Notice) (c : Clock) : Clock :=
  ns.foldl (fun c x => lowerLimit x.member x.value c) { c with applied := c.applied ++ ns }

/-- R327, R328, R330, R434: REEF_NOTICE. A notice past its time applies on arrival; a die whose join is under way keeps it. -/
def execReefNotice (d m v t : Nat) (s : State) : Out :=
  .next (asDie d (fun s =>
    if s.die.clock.joining.isSome then onClock (fun c => { c with notices := c.notices ++ [{ member := m, value := v, time := t }] }) s
    else if (limitOf s.die.clock m).isNone then s
    else
      let s := onClock (lowerAnswer m v) (hear m (some v) s)
      if t ≤ s.dev.time.toNat then onClock (lowerLimits [{ member := m, value := v, time := t }]) s else noteNotice m v t s) s)

/-- R334: a notice applies now: its time has come, and no commit of an earlier time stands before it. -/
def noticeDue (now : Nat) (c : Clock) (n : Notice) : Bool :=
  decide (n.time ≤ now) && c.joining.isNone && (c.shake.bind (·.commit)).all fun t => decide (n.time ≤ t)

/-- The notices that satisfy a test apply. -/
def applyNotices (p : Notice → Bool) (c : Clock) : Clock :=
  lowerLimits (c.notices.filter p) { c with notices := c.notices.filter fun n => !p n }

/-- R327, R333: REEF_NOTICE_EFFECTIVE: the notices whose effective time has come apply. -/
def execReefNoticeEffective (d : Nat) (s : State) : Out :=
  .next (asDie d (onClock fun c => applyNotices (noticeDue s.dev.time.toNat c) c) s)

/-- R328: every member of the group has answered the shake-out. -/
def allAnswered (c : Clock) : Bool :=
  match c.shake with
  | none => false
  | some k => k.commit.isNone && c.members.all fun m => k.answers.any (·.1 == m.num)

/-- R328: a commit with effective time `t` stands on the die in focus. -/
def noteCommit (proposer t : Nat) (answers : List (Nat × Nat)) (s : State) : State :=
  atTime t (.shakeoutCommitEffective s.die.id)
    (onClock (fun c => { c with shake := some { proposer := proposer, answers := answers, commit := some t } }) s)

/-- R328: the proposer commits, 20 µs ahead, once every member has answered. -/
def commitIfDone (s : State) : State :=
  match s.die.clock.shake with
  | none => s
  | some k =>
    if allAnswered s.die.clock && k.proposer == memberNum s s.die.id then
      let t := s.dev.time.toNat + 20000
      tell (fun d => .shakeoutCommit d t k.answers) (noteCommit k.proposer t k.answers s)
    else s

/-- R328: the shake-out under way on a die stands before the proposal of member `m`: it has been committed, or its proposer
has the lower number (DEDUCED, notes/assumptions/42.md). -/
def shakeStands (m : Nat) (c : Clock) : Bool := c.shake.any fun k => k.commit.isSome || decide (k.proposer < m)

/-- R328: a proposal reaches the die in focus, which answers with its own limit; of two proposals the one of the lower
member number proceeds. -/
def propose (m : Nat) (s : State) : State :=
  let self := memberNum s s.die.id
  let s := if m = self ∨ (limitOf s.die.clock m).isNone then s else hear m none s
  let c := s.die.clock
  if c.gid = 0 ∨ (limitOf c m).isNone ∨ shakeStands m c then s
  else
    let fresh := c.shake.all fun k => k.proposer != m
    let s := if fresh then onClock (fun c => { c with shake := some { proposer := m, answers := [(self, ownLimit c)], commit := none } }) s else s
    if m = self then commitIfDone (tell (fun d => .shakeoutProposal d m) s)
    else tellMember m (.shakeoutAnswer (m % 4) self (ownLimit c)) s

/-- R328: a die proposes a shake-out only where its own limit exceeds C. One whose join is under way keeps the proposal of
another, to answer it (R330). -/
def proposalAct (m : Nat) (s : State) : State :=
  let c := s.die.clock
  if m = memberNum s s.die.id ∧ ownLimit c ≤ c.freq then s
  else if c.joining.isSome ∧ c.gid ≠ 0 ∧ shakeStands m c = false then
    onClock (fun c => { c with shake := some { proposer := m, answers := [], commit := none } }) s
  else propose m s

/-- R328: SHAKEOUT_PROPOSAL. -/
def execShakeoutProposal (d m : Nat) (s : State) : Out := .next (asDie d (proposalAct m) s)

/-- R328: an answer noted in the shake-out under way. -/
def noteAnswer (m v : Nat) (c : Clock) : Clock :=
  { c with shake := c.shake.map fun k =>
      if k.commit.isSome then k else { k with answers := (m, v) :: k.answers.filter (·.1 != m) } }

/-- R328: SHAKEOUT_ANSWER. -/
def execShakeoutAnswer (d m v : Nat) (s : State) : Out :=
  .next (asDie d (fun s =>
    if (limitOf s.die.clock m).isNone then s else commitIfDone (onClock (noteAnswer m v) (hear m (some v) s))) s)

/-- R328: SHAKEOUT_COMMIT. -/
def execShakeoutCommit (d t : Nat) (values : List (Nat × Nat)) (s : State) : Out :=
  .next (asDie d (fun s =>
    if s.die.clock.gid = 0 then s
    else
      match s.die.clock.shake with
      | some k => noteCommit k.proposer t values (if (limitOf s.die.clock k.proposer).isNone then s else hear k.proposer none s)
      | none => noteCommit 0 t values s) s)

/-- R328: a commit applies: every announced limit becomes its agreement value. -/
def applyCommit (answers : List (Nat × Nat)) (c : Clock) : Clock :=
  let ms := answers.foldl (fun ms a => setLimit ms a.1 a.2) c.members
  { c with members := ms, freq := leastLimit ms 2250, shake := none }

/-- R328, R334: a commit of time `t` applies, and after it the notices of later times that have applied before it. -/
def settleCommit (t : Nat) (answers : List (Nat × Nat)) (c : Clock) : Clock :=
  lowerLimits (c.applied.filter fun n => decide (t < n.time)) { applyCommit answers c with applied := [] }

/-- R328, R333: SHAKEOUT_COMMIT_EFFECTIVE: at the commit's time every announced limit becomes its agreement value, and the
notices that waited for it apply. A member whose own limit is below its value then sends a notice (R327)
(DEDUCED, notes/assumptions/42.md). -/
def execShakeoutCommitEffective (d : Nat) (s : State) : Out :=
  .next (asDie d (fun s =>
    let now := s.dev.time.toNat
    match s.die.clock.shake with
    | some { commit := some t, answers := as, .. } =>
      if t ≤ now ∧ s.die.clock.joining.isNone then
        limitChanged (onClock (fun c => let k := settleCommit t as c; applyNotices (noticeDue now k) k) s)
      else s
    | _ => s) s)

/-- R329: a heartbeat of the die in focus, which while it is in a group sends the next 20 µs later. -/
def beat (s : State) : State :=
  if s.die.clock.gid = 0 then s
  else
    let self := memberNum s s.die.id
    inTime 20000 (.heartbeatSend s.die.id)
      (tell (fun d => .heartbeat d self (ownLimit s.die.clock)) (cancelTimer (.heartbeatSend s.die.id) s))

/-- R329: HEARTBEAT_SEND. -/
def execHeartbeatSend (d : Nat) (s : State) : Out := .next (asDie d beat s)

/-- R329, R332: HEARTBEAT: a member's message ends its silence; its announced limit is restored, the ceiling is not
raised. -/
def execHeartbeat (d m limit : Nat) (s : State) : Out :=
  .next (asDie d (fun s => if (limitOf s.die.clock m).isNone then s else hear m (some limit) s) s)

/-- R324, R330, R331: GGROUP written: the die leaves its group and asks to join the one named; with no answer within
200 µs it founds it. -/
def ggroupAct (v : Nat) (s : State) : State :=
  if v = s.die.clock.gid then s else
    let self := memberNum s s.die.id
    let s := tell (fun d => .leaveMessage d self) s
    let s := cancelTimer (.joinTimeout s.die.id) (onClock (fun c =>
      { c with gid := v, members := [], notices := [], applied := [], shake := none, silent := [], sent := [], asked := [], pending := []
               joining := if v = 0 then none else some v }) s)
    if v = 0 then limitChanged s
    else inTime 200000 (.joinTimeout s.die.id) (tell (fun d => .joinRequest d self (ownLimit s.die.clock)) s)

/-- R324, R330: a join request reaches a member: the lowest-numbered one answers, and every one adds the joiner at the ceiling. A
group of 256 members takes no other (DEDUCED, notes/assumptions/42.md). -/
def admitMember (m limit : Nat) (s : State) : State :=
  let c := s.die.clock
  let self := memberNum s s.die.id
  if c.gid = 0 ∨ (limitOf c m).isSome ∨ limit = 0 ∨ 256 ≤ c.members.length then s
  else
    let lowest := c.members.all fun x => decide (self ≤ x.num)
    let s := hear m none (onClock (fun c => { c with members := c.members ++ [{ num := m, limit := c.freq }] }) s)
    if lowest then
      tellMember m (.joinAnswer (m % 4) c.freq (c.members.map fun x => (x.num, x.limit))
        (c.notices.map fun n => (n.member, n.value, n.time)) (c.shake.map fun k => (k.proposer, k.answers, k.commit))) s
    else s

/-- R330: JOIN_REQUEST. A die whose own join is under way keeps the request until it is a member. -/
def execJoinRequest (d m limit : Nat) (s : State) : Out :=
  .next (asDie d (fun s =>
    if s.die.clock.gid ≠ 0 ∧ s.die.clock.joining.isSome then onClock (fun c => { c with asked := c.asked ++ [(m, limit)] }) s
    else admitMember m limit s) s)

/-- R330: a die that has become a member takes up the join requests that came to it meanwhile. -/
def admitAsked (s : State) : State :=
  s.die.clock.asked.foldl (fun s x => admitMember x.1 x.2 s) (onClock (fun c => { c with asked := [] }) s)

/-- R330, R328: a member that joins while a shake-out runs answers it with its own limit. -/
def answerJoined (s : State) : State :=
  match s.die.clock.shake with
  | none => s
  | some k =>
    if k.commit.isSome then s
    else tellMember k.proposer (.shakeoutAnswer (k.proposer % 4) (memberNum s s.die.id) (ownLimit s.die.clock)) s

/-- R330, R334: the notices and the commit that a join answer carried come due at their times. -/
def carriedDue (s : State) : State :=
  let d := s.die.id
  let s := s.die.clock.notices.foldl (fun s n => atTime n.time (.reefNoticeEffective d) s) s
  match s.die.clock.shake.bind (·.commit) with
  | some t => atTime t (.shakeoutCommitEffective d) s
  | none => s

/-- R330: the shake-out of a die that joins: the one that the answer carries, or the one that came to it meanwhile and is
committed, or of which the answer says nothing. -/
def joinShake (kept carried : Option Shakeout) : Option Shakeout := if kept.any (·.commit.isSome) then kept else carried.or kept

/-- R330: JOIN_ANSWER: C, every member's number and announced limit, the notices on their way, and the shake-out in progress
with its proposer, its answers and the time of its commit; the joiner holds them as its own beside what has come to it
meanwhile, and hears the members from then on. Its first act is the notice, where its own limit is below C. -/
def execJoinAnswer (d c : Nat) (members : List (Nat × Nat)) (notices : List (Nat × Nat × Nat))
    (shake : Option (Nat × List (Nat × Nat) × Option Nat)) (s : State) : Out :=
  .next (asDie d (fun s =>
    if s.die.clock.joining.isNone then s
    else
      let self := memberNum s s.die.id
      let s := cancelTimer (.joinTimeout s.die.id) (onClock (fun k =>
        { k with joining := none, freq := c
                 members := (members.map fun p => { num := p.1, limit := p.2 }) ++ [{ num := self, limit := c }]
                 notices := (k.notices ++ notices.map fun n => ({ member := n.1, value := n.2.1, time := n.2.2 } : Notice)).eraseDups
                 shake := joinShake k.shake (shake.map fun k => { proposer := k.1, answers := k.2.1, commit := k.2.2 }) }) s)
      admitAsked (beat (answerJoined (limitChanged (carriedDue (members.foldl (fun s p => hear p.1 none s) s)))))) s)

/-- R330: JOIN_TIMEOUT: the die founds the group alone. -/
def execJoinTimeout (d : Nat) (s : State) : Out :=
  .next (asDie d (fun s =>
    match s.die.clock.joining with
    | none => s
    | some _ =>
      let self := memberNum s s.die.id
      admitAsked (beat (dieEvent false (Word.ofNat (self % 4096 + 2 * 4096))
        (onClock (fun c => { c with joining := none, freq := ownLimit c, notices := [], shake := none
                                    members := [{ num := self, limit := ownLimit c }] }) s)))) s)

/-- R331, R332, R334: member `m` drops out of the group: a shake-out stops waiting for it, and one that it proposed ends. -/
def dropMember (m : Nat) (c : Clock) : Clock :=
  { c with
    members := c.members.filter (·.num != m), silent := c.silent.filter (· != m), notices := c.notices.filter (·.member != m)
    applied := c.applied.filter (·.member != m)
    shake := (c.shake.filter fun k => k.commit.isSome || k.proposer != m).map fun k => { k with answers := k.answers.filter (·.1 != m) } }

/-- R331, R334: LEAVE_MESSAGE: the leaver drops out; the ceiling does not rise. -/
def execLeaveMessage (d m : Nat) (s : State) : Out := .next (asDie d (fun s => commitIfDone (onClock (dropMember m) s)) s)

/-- R332: MEMBER_SILENCE, after 200 µs without a message of the member. -/
def execMemberSilence (d m : Nat) (s : State) : Out :=
  .next (asDie d (fun s =>
    if m = memberNum s s.die.id ∨ (limitOf s.die.clock m).isNone then s
    else if heardWithin m 200000 s then watch m (lastHeard m s) s
    else onClock (fun c =>
      { c with members := setLimit c.members m 800, freq := min c.freq 800, silent := m :: c.silent.filter (· != m) }) s) s)

/-- R332, R434: the lowest-numbered member of the group. -/
def lowestMember (c : Clock) : Nat := c.members.foldl (fun n x => min n x.num) (c.members.headD { num := 0, limit := 0 }).num

/-- R332: the die in focus, evicted, becomes solitary and runs at its own limit. -/
def goSolitary (s : State) : State :=
  dieEvent false (Word.ofNat (memberNum s s.die.id % 4096))
    (onClock (fun c => { c with gid := 0, members := [], notices := [], applied := [], shake := none, silent := [], sent := [], asked := [], pending := []
                                freq := ownLimit c }) s)

/-- R332, R434: member `m` has been silent for 1 ms. Where it holds the lowest number, its side keeps the group and the die
in focus becomes solitary; while the lowest member is silent too, which side that is stays open; else it is evicted, and
the lowest remaining member proposes a shake-out. A die that hears nobody is itself the evicted one. -/
def evictAct (m : Nat) (s : State) : State :=
  let c := s.die.clock
  let self := memberNum s s.die.id
  let low := lowestMember c
  let unheard : Nat → Bool := fun x => x != self && !heardWithin x 1000000 s
  if (limitOf c m).isNone then s
  else if m = self then (if low ≠ self ∧ c.members.all (fun x => x.num == self || unheard x.num) then goSolitary s else s)
  else if !unheard m then watch m (lastHeard m s) s
  else if m = low then goSolitary s
  else if c.silent.contains low then later [Instr.memberEviction s.die.id m] s
  else
    let s := dieEvent false (Word.ofNat (m % 4096 + 4096)) (onClock (dropMember m) s)
    if lowestMember s.die.clock = self then propose self s else s

/-- R332, R434: MEMBER_EVICTION, after 1 ms without a message of the member. -/
def execMemberEviction (d m : Nat) (s : State) : Out := .next (asDie d (evictAct m) s)

/-- R324: the ceiling after every notice and commit already received, in the order of their times (R334). -/
def nextCeiling (c : Clock) : Nat :=
  if c.gid = 0 then c.pending.foldl (fun f p => min f p.1) c.freq
  else
    match c.shake with
    | some { commit := some t, answers := as, .. } =>
      (applyNotices (fun _ => true) (settleCommit t as (applyNotices (fun n => decide (n.time ≤ t)) c))).freq
    | _ => (applyNotices (fun _ => true) c).freq

/-- R324: GFREQ as it reads. -/
def gfreq (c : Clock) : Word := Word.ofNat (c.freq % 4096 + ownLimit c % 4096 * 2 ^ 16 + nextCeiling c % 4096 * 2 ^ 28)

end

end Sys2Proof.Machine
end

