-- ==== Sys2Proof/Machine/Lanes.lean ====
section
/-!
DEFINITION. Lane groups and vector length (02_execution.md R45 to R48, R398), and the starting of refresh batches
(04_ciphertexts.md R106, R107) on which vector convoys wait.
-/
namespace Sys2Proof.Machine

noncomputable section

/-- R50: VTYPE.W. -/
def narrowW (t : BitVec 12) : Nat := bitsOf t.toNat 6 2
/-- R50: the bits of VTYPE.SEW. -/
def sewBits (t : BitVec 12) : Nat := 8 * 2 ^ bitsOf t.toNat 1 0
/-- R179: the element width in force. -/
def elemW (t : BitVec 12) : Nat := if narrowW t = 0 then sewBits t else narrowW t
/-- R50: VTYPE.NSGN. -/
def nsgn (t : BitVec 12) : Bool := t.getLsbD 7
/-- R50: VTYPE.HINT. -/
def hint (t : BitVec 12) : Bool := t.getLsbD 11
/-- R47: G. -/
def gmaxOf (t : BitVec 12) : Nat := if bitsOf t.toNat 10 8 = 0 then 8 else bitsOf t.toNat 10 8

/-- The number of lanes in a lane mask. -/
def laneCount (l : BitVec 64) : Nat := popN 64 l.toNat

/-- R398: the lanes of a set of groups that are not retired. -/
def lanesFor (groups : List Nat) (lanemap : BitVec 64) : BitVec 64 :=
  (groups.foldl (fun m g => m ||| ((0xFF : BitVec 64) <<< (8 * g))) 0) &&& ~~~lanemap

/-- R45: the physical lane of word `j` of a register: the hart's active lanes in ascending order, taken in turn. -/
def laneOf (h : Hart) (j : Nat) : Nat :=
  let ls := (List.range 64).filter fun k => h.lanes.getLsbD k
  ls.getD (j % ls.length) 0

/-- R397: the location code of a word of a V register (kind 0) or of a mask (kind 1). -/
def wordCode (h : Hart) (kind reg j : Nat) : Word :=
  Word.ofNat (2 ^ 63 + kind * 2 ^ 60 + j % 4096 * 2 ^ 16 + reg * 256 + laneOf h j % 64)

/-- R46: VLMAX of an element width over L lanes. -/
def vlmaxOf (l w : Nat) : Nat := l * 2048 / w

/-- R50: VLMAXR. -/
def vlmaxr (h : Hart) : Nat := 64 * laneCount h.lanes

/-- The groups in a mask, ascending. -/
def groupList (m : BitVec 8) : List Nat := (List.range 8).filter fun g => m.getLsbD g

/-- The mask of a list of groups. -/
def groupMask (gs : List Nat) : BitVec 8 := gs.foldl (fun m g => m ||| (1 <<< g)) 0

/-- R398: a group all of whose lanes are retired is never granted. -/
def deadGroup (lanemap : BitVec 64) (g : Nat) : Bool := laneCount (lanesFor [g] lanemap) == 0

/-- R47, R48: the groups that no hart of the core holds and that have been scrubbed. -/
def freeGroups (s : State) : List Nat :=
  (List.range 8).filter fun g =>
    !(coreHarts s).any (fun h => h.groups.getLsbD g) && !s.core.scrubbing.getLsbD g && !deadGroup s.core.lanemap g

/-- The groups a grant takes in turn: those held, then those free, then the rest (DESIGN CHOICE, notes/assumptions/14.md). -/
def grantOrder (s : State) : List Nat :=
  let held := (groupList s.hart.groups).filter fun g => !deadGroup s.core.lanemap g
  let free := freeGroups s
  let rest := (List.range 8).filter fun g => !held.contains g && !free.contains g && !deadGroup s.core.lanemap g
  held ++ free ++ rest

/-- R47: the least number of groups whose lanes satisfy a test; 8 when none does (DESIGN CHOICE, notes/assumptions/14.md). -/
def leastGroups (s : State) (ok : Nat → Bool) : Nat :=
  ((indices 1 9).find? fun g => ok (laneCount (lanesFor ((grantOrder s).take g) s.core.lanemap))).getD 8

/-- R89: KIND of a header. -/
def hdrKind (h : BitVec 128) : Nat := bitsOf h.toNat 1 0
/-- R89: PWORDS of a header. -/
def hdrPwords (h : BitVec 128) : Nat := bitsOf h.toNat 127 112

/-- R47: the payload words that the largest live of some headers holds. -/
def hdrsPwords (chdr : Vector (BitVec 128) 16) : Nat :=
  chdr.toList.foldl (fun n c => if hdrKind c = 0 then n else max n (hdrPwords c)) 0

/-- R47: the payload words that the largest live ciphertext register of a hart holds. -/
def livePwords (h : Hart) : Nat := hdrsPwords h.chdr

/-- R47: the ciphertext floor for a number of payload words. -/
def floorFor (s : State) (pw : Nat) : Nat := if pw = 0 then 0 else leastGroups s fun l => decide (pw ≤ 64 * l)

/-- R91: whether all eight groups over their healthy lanes hold that many words. -/
def fitsAll (s : State) (pw : Nat) : Bool := decide (pw ≤ 64 * laneCount (~~~s.core.lanemap))

/-- R47: the weight of a hart. -/
def weight (h : Hart) : Nat := (h.launch.prio + 1) * (if hint h.vtype then 2 else 1)

/-- R47: the share of the hart in focus. -/
def share (s : State) : Nat :=
  max 1 (8 * weight s.hart / max 1 ((coreHarts s).foldl (fun n h => n + weight h) 0))

/-- R47: another hart of the core waits for groups. -/
def othersWait (s : State) : Bool := (coreHarts s).any fun h => h.groupWait && h.id != s.hart.id

/-- R47: a waiting hart of the core that is served before the one in focus. A hart that waits behind one of higher
weight is not served before it, even where the free groups are too few for that one (DESIGN CHOICE, notes/assumptions/14.md). -/
def outranked (s : State) : Bool :=
  s.hart.groupWait && (coreHarts s).any fun h => h.groupWait && h.id != s.hart.id
    && (decide (weight s.hart < weight h) || (weight h == weight s.hart && decide (h.id < s.hart.id)))

/-- R47: the grant for a demand D above a floor. -/
def grantFor (s : State) (d floor : Nat) : Nat :=
  let c := if othersWait s then min d (max (share s) floor) else d
  min c (((groupList s.hart.groups).filter fun g => !deadGroup s.core.lanemap g).length + (freeGroups s).length)

/-- R48: the grant becomes a set of groups; words and mask bits are kept or lost, released groups begin to be
scrubbed (DESIGN CHOICE, notes/assumptions/4.md). -/
def regrant (gs : List Nat) (s : State) : State :=
  let lanes := lanesFor gs s.core.lanemap
  let l := laneCount lanes
  let released := (groupList s.hart.groups).filter fun g => !gs.contains g
  let s := if groupMask gs = s.hart.groups ∧ lanes = s.hart.lanes then s else
    s.onHart fun h =>
      { h with groups := groupMask gs, lanes := lanes
               v := h.v.map fun img => img % 2 ^ (2048 * l)
               m := h.m.map fun img => img % 2 ^ (64 * l)
               vbad := h.vbad.filter fun b => decide (b.2 < 64 * l)
               mbad := h.mbad.filter fun b => decide (32 * b.2 < 64 * l) }
  let s := s.onHart fun h => { h with groupWait := false }
  due (released.map fun g => Instr.laneGroupScrubbed s.core.id (Fin.ofNat 8 g))
    (s.onCore fun c => { c with scrubbing := c.scrubbing ||| groupMask released })

/-- R47, R291: `d` groups obtained; none while the hart waits for them. -/
def obtainGroups (d : Nat) (s : State) : Option State :=
  let have' := ((groupList s.hart.groups).filter fun g => !deadGroup s.core.lanemap g).length + (freeGroups s).length
  if have' < d ∨ outranked s then none else some (regrant ((grantOrder s).take d) s)

/-- R47, R183: the grant a SETVL obtains for AVL; none while it waits. -/
def grantSetvl (avl : Nat) (s : State) : Option State :=
  let w := elemW s.hart.vtype
  let need := leastGroups s fun l => decide (max avl 1 ≤ vlmaxOf l w)
  let fl := floorFor s (livePwords s.hart)
  let d := max (min (gmaxOf s.hart.vtype) need) fl
  let g := grantFor s d fl
  if g = 0 ∨ outranked s ∨ g < fl then none else some (regrant ((grantOrder s).take g) s)

/-- R91: the grant brought up to the floor that counts a ciphertext of `pw` words as live; none while it waits. -/
def grantFloor (pw : Nat) (s : State) : Option State :=
  let fl := floorFor s (max pw (livePwords s.hart))
  if pw ≤ vlmaxr s.hart ∧ livePwords s.hart ≤ vlmaxr s.hart then some s
  else
    let g := grantFor s fl fl
    if g < fl ∨ outranked s then none else some (regrant ((grantOrder s).take g) s)

/-- R47: the hart waits for lane groups. -/
def waitGroups (s : State) : State := s.onHart fun h => { h with groupWait := true }

/-- R48, R56: every lane group of the hart released. -/
def releaseGroups (s : State) : State := regrant [] s

/-- R237: the harts of the core that wait for the matrix claim, first the one served next. -/
def claimNext (s : State) : Option Nat :=
  let ws := (coreHarts s).filter (·.claimWait)
  (ws.find? fun h => ws.all fun g =>
    decide (weight g < weight h) || (weight g == weight h && decide (h.id ≤ g.id))).map (·.id)

/-- R237: the claim of the hart in focus ends: tiles, block state and ports are scrubbed, and a waiting hart is served. -/
def releaseClaim (s : State) : State :=
  if s.core.matrix.owner = some s.hart.id then
    due ((claimNext s).toList.map Instr.matrixClaimGrant) (s.onCore fun c => { c with matrix := {} })
  else s

/-! ### Batches (R105 to R107) -/

/-- R107: 2,048 cycles at the ceiling of the die in focus, in nanoseconds of TIME (DEDUCED, notes/assumptions/26.md). -/
def formingTime (s : State) : Nat := 2048000 / max 1 s.die.clock.freq

/-- R107: the open accumulators of a core under a handle join a pass that starts; the pass subscribes, and it forms for
2,048 cycles at most. -/
def startPass (handle : Nat) (s : State) : State :=
  let id := s.core.passCount
  let c := s.core
  let c := { c with passCount := id + 1
                    passes := c.passes ++ [{ id := id, handle := handle, forming := true, subscribed := false, buffered := [], step := 0 }]
                    accs := c.accs.map fun a => if a.pass = none ∧ a.handle = handle then { a with pass := some id } else a }
  inTime (formingTime s) (.passFormingEnd s.core.id id) (due [Instr.halyardSubscribe s.core.id id] { s with core := c })

/-- R107: passes started for the open batches of the harts that satisfy a test. -/
def startOpen (p : Acc → Bool) (s : State) : State :=
  ((s.core.accs.filter fun a => a.pass.isNone && p a).map (·.handle)).eraseDups.foldl (fun s h => startPass h s) s

/-- R107, R227: every open batch of the hart starts. -/
def startHartBatches (s : State) : State := startOpen (fun a => a.hart == s.hart.id) s

/-- Whether the hart has a refresh pending (R109). -/
def refreshPending (s : State) : Bool := s.core.accs.any fun a => a.hart == s.hart.id

/-- R105: the batches that hold the refreshes of some ciphertext registers start. -/
def startFor (cs : List (Fin 16)) (s : State) : State :=
  startOpen (fun a => a.hart == s.hart.id && cs.contains a.creg) s

end

end Sys2Proof.Machine
end

