-- ==== Sys2Proof/Machine/Operands.lean ====
section
/-!
DEFINITION. Operands of vector instructions (R35, R45, R179 to R182), and how a convoy of them runs: dispatch (R37,
R38), the checks and marks at its beginning (R33, R90, R273, R387, R408), its members chained (R30) and committed
jointly in element order (R32), its trap (R381) and its replies.
-/
namespace Sys2Proof.Machine

noncomputable section

/-- R28: the convoy classes. -/
inductive Cls where
  | alu | modular | load | store | perm | drain | solo
  deriving DecidableEq, Repr

/-- What a member runs with: the PC of its convoy, the captured X values, the lent state, its place in the convoy and
the element below which it stops. -/
structure Ctx where
  pc : Word
  x : Fin 32 → Word
  lend : Option Lend
  member : Nat
  lim : Nat

/-- The lowest of the elements `lo` to `hi - 1` of a width that has a bit in word `j`. -/
def spanRead (w lo hi j : Nat) : Option Nat :=
  let e := max lo (32 * j / w)
  if e < hi ∧ e * w < 32 * j + 32 then some e else none

/-- R179: an element-wise read of a source register, from VSTART up to the limit, active or not
(DESIGN CHOICE, notes/assumptions/64.md). -/
def elemRead (c : Ctx) (h : Hart) (_v : Fin 32) (j : Nat) : Option Nat :=
  spanRead (elemW h.vtype) h.vstart (min c.lim h.vl) j

/-- R32, R191: a read of the elements `lo` to `hi - 1`, made once whatever VSTART holds. -/
def onceRead (c : Ctx) (h : Hart) (w lo hi j : Nat) : Option Nat :=
  if h.vstart < c.lim then (spanRead w lo (min hi h.vl) j).map fun _ => h.vstart else none

/-- R32: the read of a cross-element instruction, of active elements or not (DESIGN CHOICE, notes/assumptions/64.md). -/
def wholeRead (c : Ctx) (h : Hart) (_v : Fin 32) (j : Nat) : Option Nat := onceRead c h (elemW h.vtype) 0 h.vl j

/-- One vector-queue instruction: its class, the registers it names (R29), whether it is a vector instruction in the
sense of R33, whether it is cross-element (R32), whether the scalar side fetches nothing past it, the causes of
TDELEG it can raise (R383), whether it may run while a context is held (R384), whether its effect sets the pc (R286),
whether it acts where VSTART is at or above VL (R203), whether it ignores a lent predicate (R181), the checks made whatever
VL is (R33), the ciphertext registers that it comes to name while it runs (R408), the element at which it reads a word of a
source register, if it does (R397), and its effect with what it replies. -/
structure VOp where
  i : Instr
  cls : Cls := .solo
  pm : Fin 8 := 0
  vsrc : List (Fin 32) := []
  vdst : List (Fin 32) := []
  msrc : List (Fin 8) := []
  mdst : List (Fin 8) := []
  xsrc : List (Fin 32) := []
  xdst : List (Fin 32) := []
  crefs : List (Fin 16) := []
  vector : Bool := true
  cross : Bool := false
  holds : Bool := false
  deleg : Bool := false
  inHandler : Bool := false
  jumps : Bool := false
  ownRange : Bool := false
  unlent : Bool := false
  check : State → Option Nat := fun _ => none
  later : State → List (Fin 16) := fun _ => []
  first : Ctx → State → Option Stop := fun _ _ => none
  readAt : Ctx → Hart → Fin 32 → Nat → Option Nat := if cross then wholeRead else elemRead
  effect : Ctx → State → Except Stop (State × List Word)

/-! ### Elements -/

/-- R35: the predicate of a mask register, 0 being "all ones". -/
def maskBit (h : Hart) (p : Fin 8) (i : Nat) : Bool := p == 0 || (h.m[p]).testBit i

/-- R35: the lent predicate. -/
def lentBit (h : Hart) (l : Option Lend) (i : Nat) : Bool :=
  match l with
  | none => true
  | some l => maskBit h l.pm i != l.neg

/-- R35: active(i). -/
def active (h : Hart) (p : Fin 8) (l : Option Lend) (i : Nat) : Bool :=
  maskBit h p i && lentBit h l i && decide (i < h.vl)

/-- R185 and its like: an element-wise result over the elements `idx`: field `i` becomes `f i` where `act i`. -/
def mapElems (act : Nat → Bool) (w : Nat) (f : Nat → Nat) (idx : List Nat) (img : Nat) : Nat :=
  idx.foldl (fun img i => if act i then setField img w i (f i) else img) img

/-- Element `i` of a V register at a width. -/
def elemAt (h : Hart) (v : Fin 32) (w i : Nat) : Nat := getField h.v[v] w i

/-- A V register image replaced. -/
def setV (v : Fin 32) (img : Nat) (s : State) : State := s.onHart fun h => { h with v := h.v.set v img }

/-- A mask image replaced. -/
def setM (m : Fin 8) (img : Nat) (s : State) : State := s.onHart fun h => { h with m := h.m.set m img }

/-- R35: the register that receives a copy of the result. -/
def lentCopy (l : Option Lend) : Option (Fin 32) :=
  match l with
  | some l => if l.cen then some l.dc else none
  | none => none

/-- R399: the failing words of a register that a write covers whole no longer fail. -/
def healV (d : Fin 32) (act : Nat → Bool) (w : Nat) (idx : List Nat) (s : State) : State :=
  s.onHart fun h =>
    { h with vbad := h.vbad.filter fun b =>
        b.1 != d || !((indices (32 * b.2 / w) ((32 * b.2 + 31) / w + 1)).all fun i => idx.contains i && act i) }

/-- R399: as `healV`, of a destination and the lent copy of a result. -/
def healElems (d : Fin 32) (lend : Option Lend) (act : Nat → Bool) (w : Nat) (idx : List Nat) (s : State) : State :=
  match lentCopy lend with
  | none => healV d act w idx s
  | some c => healV c act w idx (healV d act w idx s)

/-- R35, R185: results written to a destination and to the lent copy. -/
def writeElems (d : Fin 32) (lend : Option Lend) (act : Nat → Bool) (w : Nat) (f : Nat → Nat) (idx : List Nat)
    (s : State) : State :=
  let s' := healV d act w idx (setV d (mapElems act w f idx s.hart.v[d]) s)
  match lentCopy lend with
  | none => s'
  | some c => healV c act w idx (setV c (mapElems act w f idx s.hart.v[c]) s')

/-- The elements an instruction covers, from VSTART up (R33). -/
def elems (c : Ctx) (h : Hart) : List Nat := indices h.vstart (min c.lim h.vl)

/-- A state with a result and no reply. -/
def quiet (s : State) : Except Stop (State × List Word) := .ok (s, [])

/-! ### Traps of the vector side -/

/-- The word of an instruction, for TVAL of cause 0x01. -/
def wordOf (i : Instr) : Nat := (encode i).getD 0

/-- R386, R387: cause 0x01. -/
def illegal (i : Instr) (reason member : Nat) : Trap :=
  { cause := 0x01, tval := Word.ofNat (wordOf i + reason % 256 * 2 ^ 32 + member % 4 * 2 ^ 40), member := member }

/-- R402: the TVAL of causes 0x0A to 0x0D. -/
def cipherVal (value reason creg : Nat) (deferred : Bool) : Word :=
  Word.ofNat (value % 2 ^ 32 * 2 ^ 32 + reason * 2 ^ 16 + creg * 16 + if deferred then 8 else 0)

/-- A trap at its element, seen by the vector side. -/
def stopTrap {α : Type} (t : Trap) : Except Stop α := .error (.trap t 0)

/-! ### Bound stream registers (R272, R273) -/

/-- R272, R273: element `i` of the strip at hand: as the stream engine fetched it, or read now. -/
def stripElem (b : Binding) (i : Nat) (s : State) : Except Stop (Nat × State) :=
  match b.fetched with
  | strip :: _ => .ok (strip.getD i 0, s)
  | [] =>
    let n := 2 ^ b.sewc
    load (reqOf s .load .vector .neither) (b.base + BitVec.ofNat 64 (b.pos + i) * b.estride) n n s

/-- R272: the elements of a strip received into a bound register, one after another. -/
def stripElems (b : Binding) (idx : List Nat) (s : State) : Except Stop State :=
  let w := 8 * 2 ^ b.sewc
  idx.foldl (fun acc i =>
    match acc with
    | .error e => .error e
    | .ok s =>
      if i < b.strip ∧ (b.count = 0 ∨ b.pos + i < b.count) then
        match stripElem b i s with
        | .error (.trap t _) => .error (.trap t i)
        | .error e => .error e
        | .ok (x, s') => .ok (writeElems b.v none (fun _ => true) w (fun _ => x) [i] s')
      else .ok (writeElems b.v none (fun _ => true) w (fun _ => 0) [i] s)) (.ok s)

/-- R272: a strip received into a bound register, up to a limit. -/
def receiveStrip (b : Binding) (lim : Nat) (s : State) : Except Stop State :=
  let idx := indices s.hart.vstart (min lim s.hart.vl)
  match stripElems b idx s with
  | .ok t => .ok (healV b.v (fun _ => true) (8 * 2 ^ b.sewc) idx t)
  | .error e => .error e

/-- R272: every bound source of an instruction receives its strip, and its position moves on. -/
def receiveStrips (vs : List (Fin 32)) (lim : Nat) (s : State) : Except Stop State :=
  (s.hart.binds.filter fun b => vs.contains b.v).foldl (fun acc b =>
    match acc with
    | .error e => .error e
    | .ok s =>
      match receiveStrip b lim s with
      | .error e => .error e
      | .ok s' =>
        .ok (fetchSoon b.v (s'.onHart fun h =>
          { h with binds := h.binds.map fun c =>
              if c.v = b.v then { c with pos := c.pos + c.strip, fetched := c.fetched.drop 1 } else c }))) (.ok s)

/-- R272, R387: a bound source read under another element width. -/
def bindUnsuited (h : Hart) (vs : List (Fin 32)) : Bool :=
  h.binds.any fun b => vs.contains b.v && !(narrowW h.vtype == 0 && bitsOf h.vtype.toNat 1 0 == b.sewc)

/-! ### The beginning of a convoy -/

/-- R90: the ciphertext registers whose payload registers are written. -/
def payloadRegs (vs : List (Fin 32)) : List (Fin 16) :=
  (vs.filter fun v => decide (16 ≤ v.val)).map fun v => Fin.ofNat 16 (v.val - 16)

/-- The V registers a member writes, its lent copy among them. -/
def VOp.writes (o : VOp) (l : Option Lend) : List (Fin 32) := o.vdst ++ (lentCopy l).toList

/-- R408: the ciphertext registers a member names, directly or by a payload register. -/
def VOp.names (o : VOp) (l : Option Lend) : List (Fin 16) := o.crefs ++ payloadRegs (o.vsrc ++ o.writes l)

/-- R90: KIND of a ciphertext register set to 0. -/
def clearKind (d : Fin 16) (h : Hart) : Hart := { h with chdr := h.chdr.set d (h.chdr[d] &&& ~~~3#128) }

/-- R90, R273: what writing V registers does when the convoy begins: headers lose their KIND, bindings end. -/
def beginWrites (vs : List (Fin 32)) (s : State) : State :=
  s.onHart fun h =>
    let h := (payloadRegs vs).foldl (fun h d => clearKind d h) h
    { h with binds := h.binds.filter fun b => !vs.contains b.v }

/-- R408: the trap of a recorded refresh failure. -/
def deferredTrap (h : Hart) (d : Fin 16) : Trap :=
  if h.crerr[d] = 1 then { cause := 0x0B, tval := cipherVal h.failHdr[d].toNat 3 d.val true }
  else { cause := 0x09, tval := Word.ofNat (2 ^ 63 + (if h.crerr[d] = 2 then 4 else 5) * 2 ^ 60 + d.val * 256) }

/-- R408: delivery clears the record. -/
def clearFail (d : Fin 16) (s : State) : State := s.onHart fun h => { h with crerr := h.crerr.set d 0 }

/-- R35, R181: the masks a member reads, its own predicate and the lent one among them. -/
def VOp.masks (o : VOp) (l : Option Lend) : List (Fin 8) :=
  o.msrc ++ (if o.pm = 0 then [] else [o.pm]) ++ match l with
    | some l => if l.pm = 0 ∨ o.unlent then [] else [l.pm]
    | none => []

/-- The fault at the lowest element, and of those the first. -/
def lowest : List (Trap × Nat) → Option (Trap × Nat)
  | [] => none
  | x :: xs =>
    match lowest xs with
    | none => some x
    | some y => if x.2 ≤ y.2 then some x else some y

/-- R397: the failing words of source registers and masks that a member reads, and of these the one it reads first. -/
def sramTrap (o : VOp) (c : Ctx) (s : State) : Option (Trap × Nat) :=
  let h := s.hart
  let words := h.vbad.filterMap fun b =>
    if o.vsrc.contains b.1 then (o.readAt c h b.1 b.2).map fun e => ({ cause := 0x09, tval := wordCode h 0 b.1.val b.2 }, e)
    else none
  let masks := h.mbad.filterMap fun b =>
    if (o.masks c.lend).contains b.1 then
      (if o.cross then onceRead c h 1 0 h.vl b.2 else spanRead 1 h.vstart (min c.lim h.vl) b.2).map fun e =>
        ({ cause := 0x09, tval := wordCode h 1 b.1.val b.2 }, e)
    else none
  lowest (words ++ masks)

/-! ### Running the members -/

/-- The outcome of running a convoy: done, with one list of values per replying member; a trap with the state its
commit leaves; or a wait. -/
inductive RunOut where
  | done (s : State) (replies : List (List Word))
  | trap (t : Trap) (s : State)
  | wait (s : State)

/-- R30: one member, over the elements from VSTART to the limit. -/
def runMember (pc : Word) (x : Fin 32 → Word) (lim k : Nat) (o : VOp) (l : Option Lend) (s : State) :
    Except Stop (State × List Word) :=
  let c : Ctx := { pc := pc, x := x, lend := l, member := k, lim := lim }
  let mine : Stop → Stop := fun e => match e with
    | .trap t e => .trap { t with member := k } e
    | e => e
  match if s.hart.vstart < lim then o.first c s else none with
  | some e => .error (mine e)
  | none =>
    match sramTrap o c s with
    | some (t, e) => .error (mine (.trap t e))
    | none =>
      match (if s.hart.vl = 0 then .ok s else receiveStrips o.vsrc lim s) with
      | .error e => .error (mine e)
      | .ok s =>
        match o.effect c s with
        | .error e => .error (mine e)
        | .ok r => .ok r

/-- R30: the members one after another. `skip` keeps only the replying members (R33); the others consume the strips of
their bound sources where VL is at least 1 (R272). -/
def runMembers (pc : Word) (x : Fin 32 → Word) (lim : Nat) (skip : Bool) :
    Nat → List (VOp × Option Lend) → State → Except Stop (State × List (List Word))
  | _, [], s => .ok (s, [])
  | k, (o, l) :: rest, s =>
    if skip && o.xdst.isEmpty then
      match (if s.hart.vl = 0 then .ok s else receiveStrips o.vsrc lim s) with
      | .ok s' => runMembers pc x lim skip (k + 1) rest s'
      | .error e => .error e
    else
      match runMember pc x lim k o l s with
      | .error e => .error e
      | .ok (s', r) =>
        match runMembers pc x lim skip (k + 1) rest s' with
        | .error e => .error e
        | .ok (s'', rs) => .ok (s'', if o.xdst.isEmpty then rs else r :: rs)

/-- What an attempt comes to: a clean run, with the fault and its element found on the way if any, or a wait. -/
inductive Attempt where
  | clean (s : State) (replies : List (List Word)) (fault : Option (Trap × Nat))
  | wait (s : State)

/-- R32, R382: the members run below a limit that every fault lowers, so that the last fault found is the one at the
lowest element, and there of the lowest member. A trim sets VL (R200). -/
def attempt (pc : Word) (x : Fin 32 → Word) (skip : Bool) (ops : List (VOp × Option Lend)) :
    Nat → Nat → Option (Trap × Nat) → State → Attempt
  | 0, _, _, s => .wait s
  | fuel + 1, lim, fault, s =>
    match runMembers pc x lim skip 0 ops s with
    | .ok (t, rs) => .clean t rs fault
    | .error (.trap tr e) => attempt pc x skip ops fuel e (some (tr, e)) s
    | .error (.cut tr _) => attempt pc x skip ops fuel s.hart.vstart (some (tr, s.hart.vstart)) s
    | .error (.trim f) => attempt pc x skip ops fuel f none (s.onHart fun h => { h with vl := f })
    | .error (.wait t) => .wait t

/-- R194: an interruption falls only on multiples of 32 in a convoy that holds a VSCALE. One in the block in which VSTART
already stood, at no such multiple, leaves VSTART where it stood (DESIGN CHOICE, notes/assumptions/54.md). -/
def stopElement (ops : List (VOp × Option Lend)) (h : Hart) (e : Nat) : Nat :=
  if ops.any fun o => match o.1.i with
    | .vscale .. => true
    | _ => false
  then max h.vstart (e / 32 * 32) else e

/-- R33: VSTART after the convoy has retired. -/
def setVstart (n : Nat) (s : State) : State := s.onHart fun h => { h with vstart := n }

/-- R260, R261: a VWAIT, which is alone in its convoy. -/
def isVwait (i : Instr) : Bool :=
  match i with
  | .vwaiteq .. | .vwaitne .. | .vwaitlt .. | .vwaitltu .. | .vwaitge .. | .vwaitgeu .. => true
  | _ => false

/-- A convoy that waits before it commits: of what the attempt did, only the marks of the wait, the release it has made (R259),
the events due and the packets sent stay (DEDUCED, notes/assumptions/25.md). -/
def keepWait (s t : State) : State :=
  { s with
    hart := { s.hart with waits := t.hart.waits, satisfied := t.hart.satisfied, releasedOnce := t.hart.releasedOnce }
    dev := { s.dev with timers := t.dev.timers, ports := t.dev.ports }
    agenda := t.agenda, defer := t.defer }

/-- R261, R123: a VWAIT that has begun: its reads have been performed, and what they mark stays. Its registers are as before, but
for VSTART, which an interruption leaves at 0. -/
def keepReads (s t : State) : State :=
  { t with hart := { s.hart with waits := t.hart.waits, satisfied := t.hart.satisfied, vstart := 0 } }

/-- R32, R202: a fault at element `e` of a convoy: what it has committed. Of two VNARROW members the second leaves its residual
in ECARRY (DESIGN CHOICE, notes/assumptions/65.md). Of a VWAIT the reads below that element have been performed (R261). -/
def commitFault (pc : Word) (x : Fin 32 → Word) (ops : List (VOp × Option Lend)) (whole : Bool) (e : Nat)
    (s : State) : State :=
  if ops.any fun o => isVwait o.1.i then
    match runMembers pc x e false 0 ops s with
    | .ok (t, _) => keepReads s t
    | .error _ => setVstart 0 s
  else if whole then setVstart 0 s
  else
    let e' := stopElement ops s.hart e
    match runMembers pc x e' false 0 ops s with
    | .ok (t, _) => setVstart e' (t.onHart fun h => { h with binds := s.hart.binds, vl := s.hart.vl, vtype := s.hart.vtype })
    | .error _ => setVstart e' s

/-- R380: a convoy stopped before element `e` by a trap that is due; one that is cross-element has made no effect. -/
def stopConvoy (pc : Word) (x : Fin 32 → Word) (ops : List (VOp × Option Lend)) (whole : Bool) (s : State) (e : Nat) : RunOut :=
  .wait (commitFault pc x ops whole e s)

/-- R33: the elements of vector instructions, from VSTART to VL. `overlap` says, of the state before the convoy, whether
its load and its store share a byte (R202). A release that it has made is not repeated (R259). A VFILL runs to the VL of its frame, so it goes on where VSTART is at or above
the VL that is to be replaced (R203) (DEDUCED, notes/assumptions/57.md). -/
def runElements (pc : Word) (x : Fin 32 → Word) (ops : List (VOp × Option Lend)) (overlap : State → Bool)
    (s : State) : RunOut :=
  let skip := decide (s.hart.vl ≤ s.hart.vstart) && (s.hart.vl == 0 || !ops.any (·.1.ownRange))
  match attempt pc x skip ops (3 * ops.length + 3) (2 ^ 18) none s with
  | .wait t => .wait ((if ops.any fun o => isVwait o.1.i then keepReads else keepWait) s t)
  | .clean t rs fault =>
    let whole := ops.any (·.1.cross) || overlap (s.onHart fun h => { h with vl := t.hart.vl })
    let s := s.onHart fun h => { h with releasedOnce := t.hart.releasedOnce }
    match stopIn s.hart s.hart.vstart (fault.elim t.hart.vl (·.2)) with
    | some e => stopConvoy pc x ops whole s e
    | none =>
      match fault with
      | none => .done ((setVstart 0 t).onHart fun h => { h with releasedOnce := false }) rs
      | some (tr, e) => .trap tr (commitFault pc x ops whole e s)

/-- A convoy of one instruction that keeps its own progress: it runs whole. -/
def runSolo (pc : Word) (x : Fin 32 → Word) (o : VOp) (s : State) : RunOut :=
  match o.effect { pc := pc, x := x, lend := none, member := 0, lim := s.hart.vl } s with
  | .ok (t, r) => .done t (if o.xdst.isEmpty then [] else [r])
  | .error (.trap t _) => .trap t s
  | .error (.cut t s') => .trap t s'
  | .error (.trim _) => .wait s
  | .error (.wait t) => .wait t

/-- R33, R387: the first member whose checks fail, whatever VL is. -/
def failedCheck (s : State) : Nat → List (VOp × Option Lend) → Option Trap
  | _, [] => none
  | k, (o, _) :: rest =>
    match o.check s with
    | some r => some (illegal o.i r k)
    | none => if o.vector && bindUnsuited s.hart o.vsrc then some (illegal o.i 2 k) else failedCheck s (k + 1) rest

/-- R31 to R33: a convoy at the head of the vector queue runs. -/
def runConvoy (pc : Word) (x : Fin 32 → Word) (ops : List (VOp × Option Lend)) (overlap : State → Bool)
    (s : State) : RunOut :=
  let named := ops.flatMap fun o => o.1.names o.2
  let pend := named.filter fun d => hdrKind s.hart.chdr[d] == 2
  if !pend.isEmpty then .wait (startFor pend s)
  else
    match named.find? fun d => s.hart.crerr[d] != 0 && !(ops.any fun o => match o.1.i with
        | .cinv d' => d' == d
        | _ => false) with
    | some d => .trap (deferredTrap s.hart d) (clearFail d s)
    | none =>
      match failedCheck s 0 ops with
      | some t => .trap t s
      | none =>
        match ops with
        | [(o, none)] =>
          if o.vector then runElements pc x ops overlap (beginWrites o.vdst s) else runSolo pc x o s
        | _ => runElements pc x ops overlap (beginWrites (ops.flatMap fun o => o.1.writes o.2) s)

/-! ### Dispatch (R37, R38) -/

/-- R37: the X values a convoy captures. -/
def capture (ops : List (VOp × Option Lend)) (s : State) : List (Nat × Word) :=
  ((ops.flatMap (·.1.xsrc)).eraseDups).map fun r => (r.val, rx r s)

/-- The captured value of a register. -/
def captured (xs : List (Nat × Word)) (r : Fin 32) : Word := ((xs.find? (·.1 == r.val)).map (·.2)).getD 0

/-- R38, R175: the registers of a reply written; its completion sets the wake latch. -/
def writeReply (ds : List (Fin 32)) (vs : List Word) (s : State) : State :=
  ((ds.zip vs).foldl (fun s p => wx p.1 p.2 s) s).onHart fun h => { h with latch := true }

/-- R38: replies written in order, or queued behind those still pending. -/
def sendReplies (ds : List (List (Fin 32))) (vs : List (List Word)) (s : State) : State :=
  if s.hart.replies.isEmpty then (ds.zip vs).foldl (fun s p => writeReply p.1 p.2 s) s
  else s.onHart fun h => { h with replies := h.replies ++ (ds.zip vs).map fun p => { dests := p.1, vals := some p.2 } }

/-- The reply entries a convoy owes, in member order (R38). -/
def replyDests (ops : List (VOp × Option Lend)) : List (List (Fin 32)) :=
  (ops.map (·.1.xdst)).filter fun d => !d.isEmpty

/-- R38: entries made in the reply queue at dispatch. -/
def oweReplies (ops : List (VOp × Option Lend)) (s : State) : State :=
  s.onHart fun h => { h with replies := h.replies ++ (replyDests ops).map fun d => { dests := d, vals := none } }

/-- R37: a convoy placed in the vector queue, and the scalar side goes on. -/
def enqueue (e : QEntry) (n : Nat) (ops : List (VOp × Option Lend)) (s : State) : State :=
  advance n (oweReplies ops (s.onHart fun h => { h with vq := h.vq ++ [e] }))

/-- R383: a convoy that can raise a cause TDELEG names waits for its turn before the scalar side goes on
(DEDUCED, notes/assumptions/47.md). -/
def delegates (ops : List (VOp × Option Lend)) (s : State) : Bool :=
  s.hart.priv == .u && s.hart.tdeleg != 0 && (ops.any (·.1.deleg)
    || (ops.flatMap fun o => o.1.names o.2 ++ o.1.later s).any fun d => hdrKind s.hart.chdr[d] == 2 || s.hart.crerr[d] != 0)

/-- R387: the causes 0x01 the scalar side finds are precise; the vector side raises the rest (R381). -/
def vectorTrap (t : Trap) (e : QEntry) (n : Nat) (ops : List (VOp × Option Lend)) (s0 s : State) : State :=
  if delegated s0.hart t then takeDelegated t e.pc (s.onHart fun h => { h with lend := none })
  else
    let s := oweReplies ops (advance n s)
    takeImprecise { t with vside := true } [e] s

/-- R291, R384: a queued convoy that saves or restores a frame. -/
def framesQueued (h : Hart) : Bool :=
  h.vq.any fun e => e.members.any fun m => match m.2 with
    | .fsave .. | .frstr .. => true
    | _ => false

/-- R37, R38: a convoy of `n` words from the pc on is dispatched: run at once where nothing is before it, the run is not put
off and the scalar side does not run ahead, else queued. Behind an FSAVE or FRSTR that is queued it waits: whether there is a held
context is known once that has run (R384). -/
def dispatch (n : Nat) (ops : List (VOp × Option Lend)) (overlap : State → Bool) (s : State) : State :=
  let h := s.hart
  if framesQueued h then wait s
  else if h.held.isSome && !(ops.all (·.1.inHandler)) then
    raise (illegal ((ops.head?.map (·.1.i)).getD .ecall) 6 0) s
  else if (ops.flatMap fun o => o.1.xsrc ++ o.1.xdst).any (pendingX s) then wait s
  else if 8 < h.replies.length + (replyDests ops).length then wait s
  else
    let e : QEntry := { pc := convoyPc h, members := ops.map fun o => (o.2, o.1.i), x := capture ops s }
    let del := delegates ops s
    if ((s.defer = 0 && !h.ahead) || del || ops.any (·.1.holds)) && h.vq.isEmpty then
      match runConvoy e.pc (captured e.x) ops overlap s with
      | .done t rs =>
        let u := advance n (sendReplies (replyDests ops) rs (forget .vector t))
        if ops.any (·.1.jumps) then u.onHart fun h => { h with pc := t.hart.pc } else u
      | .trap t t' => vectorTrap t e n ops s t'
      | .wait t => if del then wait t else enqueue e n ops t
    else if del then wait s
    else if 16 ≤ h.vq.length then wait s
    else enqueue e n ops s

/-- R178, R259, R370: every V access the hart has issued before the convoy at hand is performed. -/
def released (s : State) : Bool := s.hart.xfers.isEmpty && (runningSlots s.hart).isEmpty && s.hart.queries.isEmpty

/-- A trap of an instruction that keeps its own progress. -/
def fail {α : Type} (t : Trap) : Except Stop α := .error (.trap t 0)

/-- No byte is shared. -/
def noOverlap (_ : State) : Bool := false

/-- An instruction alone in its convoy, with what is lent to it (R34). -/
def vector (o : VOp) (s : State) : State := dispatch 1 [(o, s.hart.lend)] noOverlap s

end

end Sys2Proof.Machine
end

