-- ==== Sys2Proof/Machine/Layout.lean ====
section
/-!
DEFINITION. The state of a hart's vector side as bytes: the frames of 11_isa_sync.md R290, whose implementation part is the
model's own (DESIGN CHOICE, notes/assumptions/12.md), stream control blocks (10_isa_matrix.md R251), key set table entries
(04_ciphertexts.md R98), and the shrouds of 15_trust.md R344.
-/
namespace Sys2Proof.Machine

noncomputable section

/-- A stretch of bytes of a fixed length. -/
def padTo (n : Nat) (bs : List Byte) : List Byte := (bs ++ leBytes (n - bs.length) 0).take n

/-- One bit as a byte. -/
def flagByte (b : Bool) : List Byte := leBytes 1 (if b then 1 else 0)

/-- R290: PFXL, bits [24:15] of the PFX word. -/
def pfxl (l : Lend) : Nat := l.pm.val * 128 + (if l.neg then 64 else 0) + l.dc.val * 2 + if l.cen then 1 else 0

/-- R290: LOOP0 or LOOP1. -/
def loopBytes (l : HwLoop) (later : Bool) : List Byte :=
  leBytes 8 l.start.toNat ++ leBytes 8 l.last.toNat
    ++ leBytes 4 (l.count % 2 ^ 24 + (if l.live then 2 ^ 24 else 0) + if later then 2 ^ 25 else 0)

/-- R290: QADDR of a queued convoy. -/
def wordOffset (vpc pc : Word) : Nat := (((pc - vpc).toInt / 4) % (2 ^ 32 : Nat)).toNat

/-- R290: RDEST and RVAL of the pending replies. -/
def replyBytes (rs : List Reply) : List Byte :=
  padTo 8 (rs.map fun r => BitVec.ofNat 8 (((r.dests.head?.map (·.val)).getD 0) + if r.vals.isSome then 128 else 0))
    ++ padTo 64 (rs.flatMap fun r => leBytes 8 ((r.vals.getD []).headD 0).toNat)

/-- R290: the architected part of the frame of a held context. -/
def archPart (h : Hart) (c : Held) : List Byte :=
  leBytes 8 c.vpc.toNat ++ leBytes 4 h.vstart ++ leBytes 1 h.mstart
    ++ leBytes 1 ((if c.lend.isSome then 1 else 0) + if c.inDeleg then 2 else 0) ++ leBytes 2 ((c.lend.map pfxl).getD 0)
    ++ leBytes 8 h.vl ++ leBytes 8 h.vtype.toNat ++ leBytes 4 h.ecarry.toNat
    ++ leBytes 2 ((groupList h.groups).length * 256 + h.groups.toNat) ++ leBytes 1 c.queue.length ++ leBytes 1 c.replies.length
    ++ loopBytes c.loops.lc0 c.loops.zeroLater ++ loopBytes c.loops.lc1 (c.loops.lc1.live && !c.loops.zeroLater)
    ++ h.streams.toList.flatMap (fun sl => leBytes 8 sl.scb.prog)
    ++ padTo 64 (c.queue.flatMap fun e => leBytes 4 (wordOffset c.vpc e.pc)) ++ replyBytes c.replies ++ leBytes 8 0

/-- R98: the bytes of a key set table entry. -/
def entryBytes (p : ParamSet) : List Byte :=
  let four : List Nat → Nat → List Byte := fun l n => padTo (4 * n) (l.flatMap (leBytes 4))
  leBytes 2 p.ktag ++ leBytes 1 p.psid ++ leBytes 1 p.valid ++ leBytes 2 p.part ++ leBytes 1 p.logn ++ leBytes 1 p.logp ++ leBytes 2 p.n
    ++ leBytes 1 p.l ++ leBytes 1 p.beta ++ leBytes 1 p.ell ++ leBytes 1 p.betaks ++ leBytes 1 p.ellks ++ leBytes 1 0 ++ four p.primes 4
    ++ leBytes 4 p.nvFresh ++ leBytes 4 p.nvBoot ++ leBytes 4 p.nvKs ++ leBytes 4 p.nvMax ++ leBytes 4 p.nvInmax ++ four p.dms 3
    ++ four p.nvms 3 ++ leBytes 4 0 ++ leBytes 8 p.bskLoc ++ leBytes 8 p.kskLoc

/-- The code of a stream slot's state. -/
def SlotState.code : SlotState → Nat
  | .empty => 0
  | .opened => 1
  | .running => 2
  | .done => 3

/-- R251: the 128 bytes of a stream control block. -/
def scbBytes (b : Scb) : List Byte :=
  leBytes 1 b.kind ++ leBytes 1 b.flags ++ leBytes 1 b.logn ++ leBytes 1 b.wa ++ leBytes 4 b.q ++ leBytes 4 b.psi ++ leBytes 2 b.nin
    ++ leBytes 2 0 ++ leBytes 8 b.count ++ leBytes 8 b.prog ++ leBytes 8 b.src0.toNat ++ leBytes 8 b.str0.toNat
    ++ leBytes 8 b.src1.toNat ++ leBytes 8 b.str1.toNat ++ leBytes 8 b.dst.toNat ++ leBytes 8 b.strd.toNat ++ leBytes 48 0

/-- R254: what a stream keeps of the set that governs its images, in 36 bytes. -/
def govBytes (sl : StreamSlot) : List Byte :=
  let p := sl.gov.getD {}
  padTo 36 (flagByte sl.gov.isSome ++ leBytes 2 p.ktag ++ leBytes 1 p.psid ++ leBytes 1 p.l ++ leBytes 2 p.n ++ leBytes 4 p.nvMax
    ++ p.primes.flatMap (leBytes 4))

/-- A stream binding in 48 bytes. -/
def bindBytes (b : Binding) : List Byte :=
  leBytes 1 1 ++ leBytes 1 b.v.val ++ leBytes 1 b.sewc ++ leBytes 1 0 ++ leBytes 4 b.strip ++ leBytes 8 b.base.toNat
    ++ leBytes 8 b.estride.toNat ++ leBytes 8 b.count ++ leBytes 8 b.pos ++ leBytes 8 0

/-- A queued convoy in 132 bytes: its members and the captured X values. -/
def queueBytes (e : QEntry) : List Byte :=
  padTo 132 (leBytes 1 e.members.length ++ leBytes 1 e.x.length
    ++ padTo 28 (e.members.flatMap fun m => leBytes 4 (wordOf m.2) ++ flagByte m.1.isSome ++ leBytes 2 ((m.1.map pfxl).getD 0))
    ++ e.x.flatMap fun p => leBytes 1 p.1 ++ leBytes 8 p.2.toNat)

/-- R290: the implementation part up to its MAC (DESIGN CHOICE, notes/assumptions/12.md). -/
def implPart (h : Hart) (c : Held) : List Byte :=
  padTo 0xEE0
    (h.chdr.toList.flatMap (fun x => leBytes 16 x.toNat) ++ h.failHdr.toList.flatMap (fun x => leBytes 4 x.toNat)
      ++ h.crerr.toList.flatMap (fun x => leBytes 1 x.val) ++ h.qm.toList.flatMap (leBytes 8)
      ++ h.keys.toList.flatMap (fun k => padTo 8 (flagByte k.bound) ++ leBytes 8 k.handle ++ entryBytes k.set)
      ++ h.streams.toList.flatMap (fun sl => padTo 8 (leBytes 1 sl.state.code) ++ leBytes 8 sl.order ++ (scbBytes sl.scb).take 80)
      ++ padTo 192 (h.binds.flatMap bindBytes)
      ++ leBytes 1 (c.running.foldl (fun n k => n + 2 ^ k.val) 0) ++ flagByte h.releasedOnce ++ flagByte h.surrogate.isSome
      ++ leBytes 1 ((h.surrogate.map (·.1.val)).getD 0) ++ leBytes 4 0 ++ leBytes 8 0
      ++ leBytes 8 ((h.surrogate.map (·.2)).getD 0) ++ leBytes 8 0
      ++ padTo 128 (c.replies.flatMap fun r => padTo 8 (flagByte (decide (1 < r.dests.length))) ++ leBytes 8 ((r.vals.getD []).getD 1 0).toNat)
      ++ padTo 2112 (c.queue.flatMap queueBytes) ++ h.streams.toList.flatMap govBytes)

/-! ### Shrouds (R344) -/

/-- What a shroud keeps, as a hart and its held contexts: the switched hart's own, and the one it held. -/
def shroudHart (k : Shroud) : Hart :=
  { Hart.fresh k.hart with
    v := k.v, m := k.m, vbad := k.vbad, mbad := k.mbad, chdr := k.chdr, crerr := k.crerr, failHdr := k.failHdr, keys := k.keys, qm := k.qm, vl := k.vl, vtype := k.vtype
    vstart := k.vstart, ecarry := k.ecarry, mstart := k.mstart, groups := k.groups, streams := k.streams, binds := k.binds
    surrogate := k.surrogate, releasedOnce := k.releasedOnce }

/-- The failing words of the registers of a shroud, one bit for each of 4,096 words of each register (R399). -/
def badBytes (regs : Nat) (bad : List (Nat × Nat)) : List Byte :=
  leBytes (512 * regs) (bad.foldl (fun n b => setBit n (4096 * b.1 + b.2) true) 0)

/-- A shroud as bytes: its place, its registers, the frame of its hart and that of the context it held. -/
def shroudBytes (k : Shroud) : List Byte :=
  let h := shroudHart k
  let own : Held := { loops := k.loops, lend := k.lend, inDeleg := k.inDeleg }
  leBytes 2 k.hart ++ leBytes 1 k.world ++ flagByte k.held.isSome ++ k.v.toList.flatMap (leBytes 16384) ++ k.m.toList.flatMap (leBytes 512)
    ++ padTo 4096 (archPart h own ++ implPart h own) ++ padTo 4096 (archPart h (k.held.getD {}) ++ implPart h (k.held.getD {}))
    ++ badBytes 32 (k.vbad.map fun b => (b.1.val, b.2)) ++ badBytes 8 (k.mbad.map fun b => (b.1.val, b.2))

/-- The length of a shroud's bytes with its MAC. -/
def shroudLen : Nat := 4 + 32 * 16384 + 8 * 512 + 2 * 4096 + 40 * 512 + 32

/-- The bytes of one place of the shroud area, in whole blocks. -/
def shroudPlace : Nat := 0x88100

/-- R344: where a place of a hart slot begins in the shroud area, the last bytes of local main memory
(DESIGN CHOICE, notes/assumptions/17.md). -/
def shroudKey (d : Dev) (hart place : Nat) : Nat := d.devid * 2 ^ 44 + (d.capacity - d.shroudArea) + (4 * hart + place) * shroudPlace

/-- A shroud and its MAC as the shroud area holds them. -/
def shroudImage (k : Shroud) : List Byte := shroudBytes k ++ padTo 32 k.mac

/-- The plaintext of a block of main memory: where a shroud stands, what `shrouds` says of it, and else what `mem` says. -/
def blockBytes (s : State) (b : Nat) : List Byte :=
  (List.range 256).map fun i =>
    let a := b * 256 + i
    match s.dev.shrouds.find? fun k => let lo := shroudKey s.dev k.hart k.place; decide (lo ≤ a) && decide (a < lo + shroudLen) with
    | some k => (shroudImage k).getD (a - shroudKey s.dev k.hart k.place) 0
    | none => Memory.read s.mem a

/-- R345: what main memory holds of a block, of which State has the plaintext. -/
def storedBlock (s : State) (b : Nat) : List Byte := padBlock s b (blockBytes s b)

/-- R345: the tag beside a stored block. -/
def storedTag (s : State) (b : Nat) : BitVec 64 :=
  Config.blockTag (Config.memoryKey s.dev.resets) (b * 256) (blockVersion s b) (storedBlock s b)

/-- R344: the HMAC-SM3 of a shroud under the key of its world. -/
def shroudMac (key : List Byte) (k : Shroud) : List Byte := Config.hmacSm3 key (shroudBytes k)

end

end Sys2Proof.Machine
end

