-- ==== Sys2Proof/Machine/System.lean ====
section
/-!
DEFINITION. The system instructions (07_isa_scalar.md R170 to R178): CSR access and the registers of R154, ECALL,
EBREAK, TRET, PARK, WSW with its shrouds (15_trust.md R342 to R344), the fences, and the asynchronous causes (R382,
R393, R394).
-/
namespace Sys2Proof.Machine

noncomputable section

/-! ### Worlds (R342) -/

/-- R342: a world a hart may run in. -/
def worldOk (s : State) (w : Nat) : Bool :=
  w == 0 || (ctxOfWorld s w).any fun c => c.state == .opened

/-- R342: the constant-time flag of a world. -/
def worldCt (s : State) (w : Nat) : Bool :=
  if w = 0 then s.dev.world0Ct else (s.dev.worlds.find? (·.world == w)).any (·.ct)

/-- R155, R342: every hart's CT is the constant-time flag of its world. -/
def refreshCt (s : State) : State :=
  let f : Hart → Hart := fun h => { h with ct := worldCt s h.world.val }
  { s with hart := f s.hart, harts := s.harts.map f }

/-- R341, R342: the key of a world. -/
def worldKey (s : State) (w : Nat) : List Byte :=
  if w = 0 then Config.hmacSm3 (deviceSecret s.dev) (label "world" ++ [0] ++ (Config.resetRandom (2 * s.dev.resets)).toList)
  else
    match ctxOfWorld s w with
    | none => []
    | some c => ctxKey c (label "world" ++ [BitVec.ofNat 8 w])

/-- R341, R342: the context key of a world. -/
def worldCtxKey (s : State) (w : Nat) : List Byte :=
  if w = 0 then Config.hmacSm3 (deviceSecret s.dev) (label "ctx" ++ (Config.resetRandom (2 * s.dev.resets + 1)).toList)
  else
    match ctxOfWorld s w with
    | none => []
    | some c => ctxKey c (label "ctx")

/-- R342: the context id of a world; 0 for world 0. -/
def worldCtxId (s : State) (w : Nat) : BitVec 64 := if w = 0 then 0 else ((ctxOfWorld s w).map (·.id)).getD 0

/-- R344: what the outgoing world leaves in its shroud, sealed under the key of that world. -/
def shroudOf (s : State) : Shroud :=
  let h := s.hart
  let k : Shroud :=
  { hart := h.id, place := 0, world := h.world.val, mac := [], v := h.v, m := h.m, vbad := h.vbad, mbad := h.mbad, chdr := h.chdr, crerr := h.crerr
    failHdr := h.failHdr, keys := h.keys, qm := h.qm, vl := h.vl, vtype := h.vtype, vstart := h.vstart, ecarry := h.ecarry
    mstart := h.mstart, groups := h.groups, loops := h.loops, lend := h.lend, inDeleg := h.inDeleg, streams := h.streams
    binds := h.binds, held := h.held, surrogate := h.surrogate, releasedOnce := h.releasedOnce }
  { k with mac := shroudMac (worldKey s h.world.val) k }

/-- R344: the registers of the outgoing world scrubbed to zero. -/
def scrub (h : Hart) : Hart :=
  { h with
    v := Vector.replicate 32 0, m := Vector.replicate 8 0, vbad := [], mbad := [], chdr := Vector.replicate 16 0
    crerr := Vector.replicate 16 0, failHdr := Vector.replicate 16 0, keys := Vector.replicate 4 {}
    qm := Vector.replicate 4 0, vl := 0, vtype := 0, vstart := 0, ecarry := 0, mstart := 0, loops := {}, lend := none
    inDeleg := false, streams := Vector.replicate 4 {}, binds := [], held := none, echo := none, surrogate := none, releasedOnce := false }

/-- R344: a shroud restored over the grant the hart holds (R48) (DEDUCED, notes/assumptions/41.md). -/
def restoreShroud (k : Shroud) (h : Hart) : Hart :=
  { h with
    v := k.v.map fun img => img % 2 ^ (2048 * laneCount h.lanes)
    m := k.m.map fun img => img % 2 ^ (64 * laneCount h.lanes)
    vbad := k.vbad.filter fun b => decide (b.2 < 64 * laneCount h.lanes)
    mbad := k.mbad.filter fun b => decide (32 * b.2 < 64 * laneCount h.lanes)
    chdr := k.chdr, crerr := k.crerr, failHdr := k.failHdr, keys := k.keys, qm := k.qm, vl := k.vl, vtype := k.vtype
    vstart := k.vstart, ecarry := k.ecarry, mstart := k.mstart, loops := k.loops, lend := k.lend, inDeleg := k.inDeleg
    streams := k.streams, xferCount := countAbove k.streams h.xferCount, binds := k.binds, held := k.held, surrogate := k.surrogate, releasedOnce := k.releasedOnce }

/-- R287: every Echo region of the core becomes INVALID and unbound. -/
def dropEcho (c : Core) : Core := { c with echo := c.echo.map fun e => { e with state := 0, bound := none } }

/-- R344: the lowest place of a hart slot that lies in the shroud area and holds no shroud of a world but those given. -/
def freePlace (d : Dev) (hart : Nat) (but : List Nat) : Option Nat :=
  (List.range 4).find? fun p => decide ((4 * hart + p + 1) * shroudPlace ≤ d.shroudArea)
    && !d.shrouds.any fun k => k.hart == hart && k.place == p && !but.contains k.world

/-- R344: the place for the shroud of the outgoing world: a free one, or that of the incoming world's shroud, which is
restored. -/
def sealPlace (s : State) (w : Fin 256) : Option Nat :=
  (freePlace s.dev s.hart.id [s.hart.world.val]).or (freePlace s.dev s.hart.id [s.hart.world.val, w.val])

/-- R344: whether sealing the outgoing world would need a fifth place, or one past the shroud area. -/
def shroudFull (s : State) (w : Fin 256) : Bool := (sealPlace s w).isNone

/-- R344, R345: a write of a place of the shroud area, which raises the versions of its blocks. -/
def touchShroud (hart place : Nat) (s : State) : State :=
  { s with versions := versionsAfter s.dev (shroudKey s.dev hart place) shroudLen s.versions }

/-- R386: cause 0x0E. -/
def sealTrap (world reason : Nat) : Trap := { cause := 0x0E, tval := Word.ofNat (world + 256 * reason) }

/-- R91, R395: the groups that a shroud is restored over: as many as its hart held, and no fewer than its ciphertext
floor (DEDUCED, notes/assumptions/41.md). -/
def shroudGroups (k : Shroud) (s : State) : Nat := max (groupList k.groups).length (floorFor s (hdrsPwords k.chdr))

/-- R344: the shroud of a world for the hart in focus, where it verifies. -/
def shroudFor (w : Nat) (s : State) : Option Shroud :=
  (s.dev.shrouds.find? fun k => k.hart == s.hart.id && k.world == w).filter fun k => shroudMac (worldKey s w) k == k.mac

/-- R91, R395: the grant that the shroud of the incoming world needs; none while the hart waits for groups. -/
def shroudGrant (w : Nat) (s : State) : Option State :=
  match shroudFor w s with
  | none => some s
  | some k => if shroudGroups k s = 0 then some s else obtainGroups (shroudGroups k s) s

/-- R344, R395: the switch into another world, with the shroud `out` of the world that is left; none where the incoming
shroud fails its verification, with the state that leaves. The hart holds the grant that the incoming shroud needs. -/
def switchWorld (w : Fin 256) (out : Shroud) (s : State) : State × Bool :=
  let mine : Shroud → Nat → Bool := fun k x => k.hart == s.hart.id && k.world == x
  let place := (sealPlace s w).getD 0
  let s0 := touchShroud s.hart.id place s
  let s1 := (s0.onDev fun d => { d with shrouds := { out with place := place } :: d.shrouds.filter fun k => !mine k s.hart.world.val }).onCore dropEcho
  let s2 := s1.onHart fun h => { scrub h with world := w, ct := worldCt s w.val, switching := none }
  match s2.dev.shrouds.find? fun k => mine k w.val with
  | none => (s2, true)
  | some k =>
    if shroudMac (worldKey s2 w.val) k = k.mac then
      let s3 := ((touchShroud k.hart k.place s2).onDev fun d =>
        { d with shrouds := d.shrouds.filter fun k => !mine k w.val }).onHart (restoreShroud k)
      (due ((runningSlots s3.hart).map fun j => Instr.streamElementComplete s3.hart.id j) s3, true)
    else (s2, false)

/-- R176, R396: a switch of world at WSW or TRET, once nothing of the hart is under way; `before` is done in the outgoing
world, and `after` follows a switch that succeeds (DEDUCED, notes/assumptions/41.md). -/
def wswInto (w : Fin 256) (before after : State → State) (s : State) : State :=
  if !worldOk s w.val && s.hart.switching != some w then raise (sealTrap w.val 2) s
  else if !s.hart.vq.isEmpty || refreshPending s then wait (s.onHart fun h => { h with switching := some w })
  else if shroudFull s w then raise (sealTrap s.hart.world.val 1) (s.onHart fun h => { h with switching := none })
  else
    match shroudGrant w.val s with
    | none => wait (waitGroups (s.onHart fun h => { h with switching := some w }))
    | some g =>
      match switchWorld w (shroudOf (before s)) (before g) with
      | (t, true) => after t
      | (t, false) => raise (sealTrap w.val 0) t

/-- R388: cause 0x02 at U. -/
def privileged (i : Instr) (f : State → State) (s : State) : State :=
  if s.hart.priv = .u then raise { cause := 0x02, tval := Word.ofNat (wordOf i) } s else f s

/-- R176, R2: WSW. The back-edge test of its convoy is made in the outgoing world (DEDUCED, notes/assumptions/41.md). Where bits
[63:8] of its operand are not 0 it switches nothing (DESIGN CHOICE, notes/assumptions/20.md). -/
def execWsw (a : Fin 32) (s : State) : Out :=
  .next (privileged (.wsw a) (scalar [a] fun s =>
    let w : Fin 256 := Fin.ofNat 256 (rx a s).toNat
    if 256 ≤ (rx a s).toNat then retire s
    else if w = s.hart.world then
      if !s.hart.vq.isEmpty || refreshPending s then wait s else retire s
    else
      wswInto w (fun t => t.onHart fun h => { h with loops := (h.loops.test h.pc).2 })
        (jump ((s.hart.loops.test s.hart.pc).1.getD (s.hart.pc + 4))) s) s)

/-! ### Traps asked for (R173) -/

/-- R173: ECALL. -/
def execEcall (s : State) : Out :=
  .next (let t := retire s
         takeTrap { cause := if s.hart.priv = .u then 0x18 else 0x19, tval := s.hart.pc } t.hart.pc [] t)

/-- R173, R383: EBREAK; its delivery to the hart's own U handler waits until every earlier convoy has drained
(DEDUCED, notes/assumptions/47.md). -/
def execEbreak (s : State) : Out :=
  .next (let t := retire s
         let tr : Trap := { cause := 0x1A, tval := s.hart.pc }
         if delegated s.hart tr && !s.hart.vq.isEmpty then wait s else trapTo tr t.hart.pc t)

/-! ### TRET (R174, R379) -/

/-- R408: the trap of the lowest recorded refresh failure, raised at an instruction that waited for the refreshes. -/
def failureAt (h : Hart) : Option (Fin 16) := (List.finRange 16).find? fun d => h.crerr[d] != 0

/-- R408: the recorded failure `d` raised at the convoy at hand. -/
def raiseFailure (d : Fin 16) (s : State) : State :=
  raise { deferredTrap s.hart d with vside := true } (clearFail d s)

/-- R56: a retiring hart gives up its lane groups, the matrix claim (R237) and its stream bindings. -/
def releaseAll (s : State) : State := (releaseClaim (releaseGroups s)).onHart fun h => { h with binds := [] }

/-- R174, R408: TRET at U outside a delegated handler. A failure that TDELEG names is delivered once every earlier convoy
has drained (R383). -/
def endTask (s : State) : State :=
  let s := startHartBatches s
  if refreshPending s then wait s
  else
    match failureAt s.hart with
    | some d => if delegated s.hart (deferredTrap s.hart d) && !s.hart.vq.isEmpty then wait s else raiseFailure d s
    | none =>
      if !s.hart.vq.isEmpty then wait s
      else jump (s.hart.exitv &&& ~~~3#64) ((releaseAll s).onHart fun h => { h with priv := .s })

/-- R291, R47: a held context that was restored from a frame obtains the number of groups the frame records, or the
ciphertext floor where that is higher; none while it waits (DEDUCED, notes/assumptions/48.md). -/
def regrantHeld (s : State) : Option State :=
  match s.hart.held with
  | some { regrant := some g, .. } =>
    let n := max g (floorFor s (livePwords s.hart))
    if n = 0 then some s else obtainGroups n s
  | _ => some s

/-- R379: what follows a TRET at S or M: the grant of a restored frame, then the return. -/
def finishTret (s : State) : State :=
  match regrantHeld s with
  | none => wait (waitGroups s)
  | some s => returnTrap s

/-- R379, R384: TRET at S or M, once the handler's FSAVE and FRSTR have drained (DEDUCED, notes/assumptions/48.md). -/
def trapReturn (s : State) : State :=
  if framesQueued s.hart then wait s else
  let w : Fin 256 := Fin.ofNat 256 (bitsOf (trapRegs s.hart.priv s.hart).tcause.toNat 31 24)
  if w = s.hart.world then finishTret s else wswInto w id finishTret s

/-- R174: TRET. -/
def execTret (s : State) : Out :=
  .next (if s.hart.priv = .u then
      if s.hart.inDeleg then jump (s.hart.utpc &&& ~~~3#64) (s.onHart fun h => { h with inDeleg := false }) else endTask s
    else trapReturn s)

/-! ### Asynchronous causes (R382, R393, R394) -/

/-- R382, R394: the oldest event of a die that names a hart as its receiver; of several dies' the one of the lowest code. -/
def eventFor (s : State) (h : Nat) : Option (Nat × Bool × Word) :=
  let evs := (List.range 4).filterMap fun d =>
    let x := dieAt d s
    match x.events with
    | (lk, v) :: _ =>
      if x.evhart.getLsbD 15 && bitsOf x.evhart.toNat 8 0 == h then some (d, lk, if x.dropped then v ||| (1#64 <<< 63) else v)
      else none
    | [] => none
  (evs.find? fun e => !e.2.1).or evs.head?

/-- R393, R109: a pre-emption may be taken now. -/
def preemptNow (s : State) : Bool := s.hart.bound && s.hart.ie && s.hart.preq && !refreshPending s

/-- R393: PREEMPTION. -/
def execPreemption (h : Nat) (s : State) : Out :=
  .next (asHart h (fun s =>
    if preemptNow s then
      takeTrap { cause := 0x20, tval := 0 } s.hart.pc [] (s.onHart fun h => { h with preq := false })
    else s) s)

/-- R394: an event of a kind delivered to its receiver. -/
def deliverEvent (lk : Bool) (s : State) : State :=
  match eventFor s s.hart.id with
  | some (d, k, v) =>
    if s.hart.bound && s.hart.ie && k == lk then
      takeTrap { cause := if lk then 0x22 else 0x21, tval := v } s.hart.pc []
        (asDie d (fun s => s.onDie fun x => { x with events := x.events.drop 1, dropped := false }) s)
    else s
  | none => s

/-- R394: CLOCK_GROUP_EVENT. -/
def execClockGroupEvent (h : Nat) (s : State) : Out := .next (asHart h (deliverEvent false) s)

/-- R394, R433: LINK_EVENT. -/
def execLinkEvent (h : Nat) (s : State) : Out := .next (asHart h (deliverEvent true) s)

/-! ### PARK (R175) -/

/-- R175: the wake latch, which a pending interrupt or pre-emption request sets while IE is 1. -/
def latched (s : State) : Bool := s.hart.latch || (s.hart.ie && (s.hart.preq || (eventFor s s.hart.id).isSome))

/-- R175: PARK continues when the latch is set, clearing it. The latch is set at the latest 65,536 ns after it began. -/
def parkTry (s : State) : State :=
  if latched s then retire (s.onHart fun h => { h with latch := false, parked := false })
  else
    let s := if s.hart.parked then s else inTime 65536 (.parkTimeout s.hart.id) (cancelTimer (.parkTimeout s.hart.id) s)
    wait (s.onHart fun h => { h with parked := true })

/-- R175: PARK. -/
def execPark (s : State) : Out := .next (parkTry s)

/-- R175: PARK_WAKE. -/
def execParkWake (h : Nat) (s : State) : Out :=
  .next (asHart h (fun s => if s.hart.parked && latched s then parkTry s else s) s)

/-- R175: PARK_TIMEOUT (DEDUCED, notes/assumptions/46.md). -/
def execParkTimeout (h : Nat) (s : State) : Out :=
  .next (asHart h (fun s => if s.hart.parked then s.onHart fun h => { h with latch := true } else s) s)

/-! ### Fences (R177, R178) -/

/-- R178: every V access the hart has issued is performed. -/
def vPerformed (h : Hart) : Bool := h.vq.isEmpty && h.xfers.isEmpty && (runningSlots h).isEmpty && h.queries.isEmpty

/-- R177: a fence whose earlier agent is, or includes, V (DEDUCED, notes/assumptions/52.md). -/
def fenceAfterV (s : State) : State := if vPerformed s.hart then retire s else wait s

/-- FENCE.SV in the vector queue. -/
def opFenceSv (c : Fin 8) : VOp := { i := .fenceSv c, vector := false, inHandler := true, effect := fun _ s => quiet s }

/-- R177, R178: FENCE.SV goes through the vector queue once the earlier S accesses of the hart have been performed. -/
def execFenceSv (c : Fin 8) (s : State) : Out := .next (vector (opFenceSv c) (performBuffered s))

/-- R177: FENCE.VS. -/
def execFenceVs (_s : Fin 8) (s : State) : Out := .next (fenceAfterV s)

/-- R177: FENCE.VV. -/
def execFenceVv (_s : Fin 8) (s : State) : Out := .next (fenceAfterV s)

/-- R177: FENCE.ALL. -/
def execFenceAll (_s : Fin 8) (s : State) : Out := .next (fenceAfterV s)

/-! ### Effects of writing TLBINV, PREQ, VICTQ and GGROUP -/

/-- R116: the TLB entries that a write of TLBINV removes. -/
def tlbDrop (all keepg : Bool) (vpn : Nat) (s : State) : State :=
  s.onDev fun d => { d with tlb := d.tlb.filter fun e =>
    if all then keepg && bitAt e.pte 5 else decide (e.page % 2 ^ 57 / e.size ≠ vpn * 4096 / e.size) }

/-- R116: the harts with accesses of the S agent that have been translated and are not performed yet. -/
def translatedHarts (s : State) : List Nat := ((s.hart :: s.harts).filter fun h => !h.sbuf.isEmpty).map (·.id)

/-- R116: a write of TLBINV: entries are removed, and every access that used one is performed before it retires. -/
def tlbInvalidate (all keepg : Bool) (vpn : Nat) (s : State) : State :=
  tlbDrop all keepg vpn ((translatedHarts s).foldl (fun t n => asHart n performBuffered t) s)

/-- R116: TLBINV_ALL. -/
def execTlbinvAll (keepg : Bool) (s : State) : Out := .next (tlbInvalidate true keepg 0 s)

/-- R116: TLBINV_PAGE. -/
def execTlbinvPage (vpn : Nat) (s : State) : Out := .next (tlbInvalidate false false vpn s)

/-- R393: a pre-emption requested of a hart by the hart in focus. -/
def preqAct (n : Nat) (s : State) : State :=
  if isPartHart s n s.hart.part || (s.hart.priv == .m && (boundHarts s).any (·.id == n)) then
    let f : Hart → Hart := fun h => if h.id = n then { h with preq := true } else h
    { s with hart := f s.hart, harts := s.harts.map f }
  else s

/-- R393: PREQ_WRITE. -/
def execPreqWrite (h : Fin 512) (s : State) : Out := .next (preqAct h.val s)

/-- The bits of `old` replaced by those of `x` under a mask. -/
def masked (mask old x : Word) : Word := (old &&& ~~~mask) ||| (x &&& mask)

/-- R124: VICTQ written: the ring starts at slot 0. -/
def victqAct (v : Word) (s : State) : State :=
  s.onDie fun d => { d with victq := v &&& 0x0FFFFFFFFFFFF000, victPos := 0 }

/-- R124: VICTQ_WRITE. -/
def execVictqWrite (v : BitVec 64) (s : State) : Out := .next (victqAct v s)

/-- R324: GGROUP_WRITE. -/
def execGgroupWrite (gid : Fin 4096) (s : State) : Out := .next (ggroupAct gid.val s)

/-! ### CSRs (R154, R170) -/

/-- R154: the CSRs that exist. -/
def csrExists (n : Nat) : Bool :=
  within n 0x000 12 || within n 0x010 9 || within n 0x020 2 || within n 0x030 3 || within n 0x040 4 || within n 0x048 5
    || within n 0x050 5 || within n 0x060 16 || within n 0x070 3 || within n 0x080 2 || within n 0x090 4 || within n 0x0A0 7

/-- R154: the CSRs accessible only at S and M. -/
def csrSystem (n : Nat) : Bool := within n 0x001 7 || within n 0x0A0 7

/-- R39: the CSRs whose read waits for the earlier vector convoys. -/
def csrQueue (n : Nat) : Bool := within n 0x010 7 || within n 0x030 3

/-- R39: the CSRs whose write travels through the vector queue. -/
def csrVector (n : Nat) : Bool := n == 0x012 || n == 0x015 || n == 0x016 || n == 0x031 || n == 0x032

/-- R99: KSTATk. -/
def kstat (s : State) (k : Fin 4) : Word :=
  let x := s.hart.keys[k]
  if !x.bound then 0 else
    Word.ofNat ((s.core.accs.filter fun a => a.hart == s.hart.id && a.slot == k).length % 256 * 2 ^ 40 + x.handle % 256 * 2 ^ 32
      + x.set.psid % 256 * 2 ^ 24 + x.set.ktag % 65536 * 256 + x.set.logn % 16 * 16 + x.set.l % 8 * 2 + 1)

/-- Whether the hart holds the matrix claim (R237). -/
def claims (s : State) : Bool := s.core.matrix.owner == some s.hart.id

/-- R238: MCFG. -/
def mcfg (s : State) : Word :=
  if claims s then masked 0xFF s.core.matrix.cfg (Word.ofNat s.core.matrix.mvl) else 0

/-- R407: CRERR. -/
def crerrWord (h : Hart) : Word :=
  Word.ofNat ((List.finRange 16).foldl (fun n d => n + h.crerr[d].val * 4 ^ d.val) 0)

/-- R289: APXSTAT. -/
def apxstat (s : State) : Word :=
  Word.ofNat ((List.finRange 8).foldl (fun n r =>
    n + ((s.core.echo[r]).state.val + if (s.core.echo[r]).bound.isSome then 4 else 0) * 16 ^ r.val) 0)

/-- R311: ENQn of the hart's partition. -/
def enq (s : State) (n : Nat) : Word :=
  ((s.dev.energies.find? fun e => e.part == s.hart.part && e.queue == n).map (·.value)).getD 0

/-- R170: the value of a CSR. -/
def csrRead (n : Nat) (s : State) : Word :=
  let h := s.hart
  let t := trapRegs h.priv h
  if n = 0x000 then hstat h else if n = 0x001 then t.tvec else if n = 0x002 then t.tcause
  else if n = 0x003 then t.tval else if n = 0x004 then t.tpc else if n = 0x005 then t.tscratch
  else if n = 0x006 then h.exitv else if n = 0x007 then h.tdeleg else if n = 0x008 then h.utvec
  else if n = 0x009 then h.utcause else if n = 0x00A then h.utval else if n = 0x00B then h.utpc
  else if n = 0x010 then Word.ofNat h.vl else if n = 0x011 then h.vtype.zeroExtend 64 else if n = 0x012 then Word.ofNat h.vstart
  else if n = 0x013 then Word.ofNat (vlmaxr h)
  else if n = 0x014 then Word.ofNat ((groupList h.groups).length * 256 + h.groups.toNat)
  else if n = 0x015 then (if h.ct then 0 else h.cthresh.zeroExtend 64) else if n = 0x016 then h.ecarry.zeroExtend 64
  else if n = 0x017 then s.core.lanemap else if n = 0x018 then 3840
  else if n = 0x020 then Word.ofNat h.loops.lc0.count else if n = 0x021 then Word.ofNat h.loops.lc1.count
  else if n = 0x030 then mcfg s else if n = 0x031 then (if claims s then Word.ofNat s.core.matrix.mvl else 0)
  else if n = 0x032 then Word.ofNat h.mstart
  else if within n 0x040 4 then Word.ofNat (h.qm[n % 4]'(Nat.mod_lt _ (by decide)))
  else if within n 0x048 4 then kstat s (Fin.ofNat 4 (n % 4)) else if n = 0x04C then crerrWord h
  else if n = 0x050 then h.apxctl.zeroExtend 64 else if n = 0x051 then h.apxerr.zeroExtend 64
  else if n = 0x052 then h.apxrate.zeroExtend 64 else if n = 0x053 then h.apxlr.zeroExtend 64 else if n = 0x054 then apxstat s
  else if within n 0x060 16 then enq s (n % 16) else if n = 0x070 then gfreq s.die.clock
  else if n = 0x071 then Word.ofNat s.die.clock.gid else if n = 0x072 then Word.ofNat s.core.issuecap
  else if n = 0x080 then s.dev.time else if n = 0x081 then s.core.cycle else if n = 0x090 then Word.ofNat h.id
  else if n = 0x091 then Word.ofNat s.core.id else if n = 0x092 then Word.ofNat s.dev.devid else if n = 0x093 then Word.ofNat h.part
  else if n = 0x0A0 then h.ptbase else if n = 0x0A2 then s.die.victq else if n = 0x0A4 then s.die.evhart
  else if n = 0x0A5 then h.engflt else if n = 0x0A6 then t.memerr else 0

/-- R377: TCAUSE written; a PPRIV of 2, or of 3 in S's copy, keeps the old one. -/
def tcauseWrite (p : Priv) (old x : Word) : Word :=
  let pp := bitsOf x.toNat 19 18
  masked (if pp = 2 ∨ (pp = 3 ∧ p ≠ .m) then 0xFF02F0FF else 0xFF0EF0FF) old x

/-- The trap registers of the current privilege changed (R377). -/
def onTrapRegs (f : TrapRegs → TrapRegs) (s : State) : State :=
  s.onHart fun h => setTrapRegs h.priv (f (trapRegs h.priv h)) h

/-- R239: MVL written while the hart holds the claim (DEDUCED, notes/assumptions/49.md). -/
def mvlWrite (x : Word) (s : State) : State :=
  if claims s then s.onCore fun c => { c with matrix := { c.matrix with mvl := max 1 (min 128 (bitsOf x.toNat 7 0)) } } else s

/-- R407: CRERR written: a 1 in either bit of a field clears it. -/
def crerrWrite (x : Word) (s : State) : State :=
  s.onHart fun h => { h with crerr := Vector.ofFn fun d => if bitsOf x.toNat (2 * d.val + 1) (2 * d.val) = 0 then h.crerr[d] else 0 }

/-- R170: a CSR written; only the fields the privilege may write change. The CSRs of R154 that only S and M reach are
kept from U by `csrSystem`. -/
def csrWrite (n : Nat) (x : Word) (s : State) : State :=
  let h := s.hart
  if n = 0x000 then (if h.priv = .u then s else s.onHart fun h => { h with ie := x.getLsbD 3 })
  else if n = 0x001 then onTrapRegs (fun t => { t with tvec := masked (~~~3#64) 0 x }) s
  else if n = 0x002 then onTrapRegs (fun t => { t with tcause := tcauseWrite h.priv t.tcause x }) s
  else if n = 0x003 then onTrapRegs (fun t => { t with tval := x }) s
  else if n = 0x004 then onTrapRegs (fun t => { t with tpc := masked (~~~3#64) 0 x }) s
  else if n = 0x005 then onTrapRegs (fun t => { t with tscratch := x }) s
  else if n = 0x006 then s.onHart fun h => { h with exitv := masked (~~~3#64) 0 x }
  else if n = 0x007 then s.onHart fun h => { h with tdeleg := masked 0x04083C00 0 x }
  else if n = 0x008 then s.onHart fun h => { h with utvec := masked (~~~3#64) 0 x }
  else if n = 0x009 then s.onHart fun h => { h with utcause := masked 0xFF 0 x }
  else if n = 0x00A then s.onHart fun h => { h with utval := x }
  else if n = 0x00B then s.onHart fun h => { h with utpc := masked (~~~3#64) 0 x }
  else if n = 0x012 then s.onHart fun h => { h with vstart := bitsOf x.toNat 17 0 }
  else if n = 0x015 then (if h.ct then s else s.onHart fun h => { h with cthresh := x.truncate 18 })
  else if n = 0x016 then s.onHart fun h => { h with ecarry := x.truncate 32 }
  else if n = 0x017 then (if h.priv = .m then s.onCore fun c => { c with lanemap := x } else s)
  else if n = 0x031 then mvlWrite x s
  else if n = 0x032 then s.onHart fun h => { h with mstart := bitsOf x.toNat 6 0 }
  else if n = 0x04C then crerrWrite x s
  else if n = 0x050 then s.onHart fun h => { h with apxctl := x.truncate 8 }
  else if n = 0x051 then s.onHart fun h => { h with apxerr := x.truncate 32 }
  else if n = 0x052 then s.onHart fun h => { h with apxrate := x.truncate 16 }
  else if n = 0x053 then s.onHart fun h => { h with apxlr := x.truncate 32 }
  else if n = 0x071 then (if h.priv = .u then s else ggroupAct (bitsOf x.toNat 11 0) s)
  else if n = 0x0A0 then s.onHart fun h => { h with ptbase := masked 0x0FFFFFFFFFFFFFFF 0 x }
  else if n = 0x0A1 then tlbInvalidate (x.getLsbD 63) (x.getLsbD 62) (bitsOf x.toNat 56 12) s
  else if n = 0x0A2 then victqAct x s
  else if n = 0x0A3 then preqAct (bitsOf x.toNat 8 0) s
  else if n = 0x0A4 then s.onDie fun d => { d with evhart := masked 0x81FF 0 x }
  else if n = 0x0A5 then s.onHart fun h => { h with engflt := masked 0xC0000FFFFFFFFFFF 0 x }
  else if n = 0x0A6 then onTrapRegs (fun t => { t with memerr := masked 0xFCFFFFFFFFFFFFFF 0 x }) s
  else s

/-- R39: a CSRW with X0 as its destination, which reads nothing, in the vector queue. -/
def opCsrw (a : Fin 32) (c : Fin 4096) : VOp :=
  { i := .csrw 0 a c, xsrc := [a], vector := false, effect := fun x s => quiet (csrWrite c.val (x.x a) s) }

/-- R39: an access that reads waits for the earlier vector convoys, and a mere write follows them into the vector queue
(DEDUCED, notes/assumptions/56.md). -/
def csrWaits (i : Instr) (n : Nat) (s : State) : State :=
  match i with
  | .csrw 0 a c => if csrVector n then vector (opCsrw a c) s else wait s
  | _ => wait s

/-- R170: a CSR access: `new` gives the value written, if any, from the old value. -/
def csrAccess (i : Instr) (d a : Fin 32) (n : Nat) (new : Word → Option Word) (s : State) : State :=
  if !csrExists n then raise (illegal i 8 0) s
  else if csrSystem n ∧ s.hart.priv = .u then raise { cause := 0x02, tval := Word.ofNat (wordOf i) } s
  else
    scalar [d, a] (fun s =>
      if csrQueue n && !s.hart.vq.isEmpty && (s.hart.held.isNone || framesQueued s.hart) then csrWaits i n s
      else
        let old := csrRead n s
        let t := match new old with
          | some x => csrWrite n x s
          | none => s
        retire (wx d old t)) s

/-- R170: CSRR. -/
def execCsrr (d : Fin 32) (c : Fin 4096) (s : State) : Out :=
  .next (csrAccess (.csrr d c) d 0 c.val (fun _ => none) s)

/-- R170: CSRW. -/
def execCsrw (d a : Fin 32) (c : Fin 4096) (s : State) : Out :=
  .next (csrAccess (.csrw d a c) d a c.val (fun _ => some (rx a s)) s)

/-- R170: CSRS. -/
def execCsrs (d a : Fin 32) (c : Fin 4096) (s : State) : Out :=
  .next (csrAccess (.csrs d a c) d a c.val (fun old => if a = 0 then none else some (old ||| rx a s)) s)

/-- R170: CSRC. -/
def execCsrc (d a : Fin 32) (c : Fin 4096) (s : State) : Out :=
  .next (csrAccess (.csrc d a c) d a c.val (fun old => if a = 0 then none else some (old &&& ~~~rx a s)) s)

end

end Sys2Proof.Machine
end

