-- ==== Sys2Proof/Machine/Vector.lean ====
section
/-!
DEFINITION. SETVL (08_isa_vector.md R183), the integer element operations (R185) and the
compares (R186).
-/
namespace Sys2Proof.Machine

noncomputable section

/-! ### SETVL (R183) -/

/-- R183: VTYPE, the grant, VL and VSTART, with VL replied. -/
def setvlEffect (a : Fin 32) (v : Nat) (c : Ctx) (s : State) : Except Stop (State × List Word) :=
  let avl := (c.x a).toNat
  let s1 := s.onHart fun h => { h with vtype := BitVec.ofNat 12 v }
  match grantSetvl avl s1 with
  | none => .error (.wait (waitGroups s1))
  | some t =>
    let vl := min avl (vlmaxOf (laneCount t.hart.lanes) (elemW t.hart.vtype))
    .ok (t.onHart fun h => { h with vl := vl, vstart := 0 }, [Word.ofNat vl])

/-- SETVL as a convoy member. -/
def opSetvl (d a : Fin 32) (v : Fin 4096) : VOp :=
  { i := .setvl d a v, xsrc := [a], xdst := [d], vector := false, effect := setvlEffect a v.val }

/-- R183: SETVL. -/
def execSetvl (d a : Fin 32) (v : Fin 4096) (s : State) : Out := .next (vector (opSetvl d a v) s)

/-! ### Integer element operations (R185) -/

/-- R179: operand B: a register element, or the captured X value. -/
def operandB (c : Ctx) (h : Hart) (b : Fin 32) (sc : Bool) (w i : Nat) : Nat :=
  if sc then (c.x b).toNat % 2 ^ w else elemAt h b w i

/-- R185: an element-wise integer operation `f w A B`. -/
def aluOp (i : Instr) (d a b : Fin 32) (p : Fin 8) (sc : Bool) (f : Nat → Nat → Nat → Nat) : VOp :=
  { i := i, cls := .alu, pm := p, vsrc := a :: (if sc then [] else [b]), vdst := [d], xsrc := if sc then [b] else []
    effect := fun c s =>
      let h := s.hart
      let w := elemW h.vtype
      quiet (writeElems d c.lend (active h p c.lend) w (fun i => f w (elemAt h a w i) (operandB c h b sc w i)) (elems c h) s) }

/-- VADD as a convoy member. -/
def opVadd (e : Bool) (d a b : Fin 32) (p : Fin 8) (s : Bool) : VOp :=
  aluOp (.vadd e d a b p s) d a b p s fun _ x y => x + y

/-- R185: VADD: A + B. -/
def execVadd (e : Bool) (d a b : Fin 32) (p : Fin 8) (s : Bool) (st : State) : Out := .next (vector (opVadd e d a b p s) st)

/-- VSUB as a convoy member. -/
def opVsub (e : Bool) (d a b : Fin 32) (p : Fin 8) (s : Bool) : VOp :=
  aluOp (.vsub e d a b p s) d a b p s fun w x y => x + (2 ^ w - y)

/-- R185: VSUB: A - B. -/
def execVsub (e : Bool) (d a b : Fin 32) (p : Fin 8) (s : Bool) (st : State) : Out := .next (vector (opVsub e d a b p s) st)

/-- VRSUB as a convoy member. -/
def opVrsub (e : Bool) (d a b : Fin 32) (p : Fin 8) (s : Bool) : VOp :=
  aluOp (.vrsub e d a b p s) d a b p s fun w x y => y + (2 ^ w - x)

/-- R185: VRSUB: B - A. -/
def execVrsub (e : Bool) (d a b : Fin 32) (p : Fin 8) (s : Bool) (st : State) : Out := .next (vector (opVrsub e d a b p s) st)

/-- VMUL as a convoy member. -/
def opVmul (e : Bool) (d a b : Fin 32) (p : Fin 8) (s : Bool) : VOp :=
  aluOp (.vmul e d a b p s) d a b p s fun _ x y => x * y

/-- R185: VMUL: the low half of the product (R61). -/
def execVmul (e : Bool) (d a b : Fin 32) (p : Fin 8) (s : Bool) (st : State) : Out := .next (vector (opVmul e d a b p s) st)

/-- VMULH as a convoy member. -/
def opVmulh (e : Bool) (d a b : Fin 32) (p : Fin 8) (s : Bool) : VOp :=
  aluOp (.vmulh e d a b p s) d a b p s fun w x y => mulhW w x y

/-- R185: VMULH: the high half of the signed product (R61). -/
def execVmulh (e : Bool) (d a b : Fin 32) (p : Fin 8) (s : Bool) (st : State) : Out := .next (vector (opVmulh e d a b p s) st)

/-- VMULHU as a convoy member. -/
def opVmulhu (e : Bool) (d a b : Fin 32) (p : Fin 8) (s : Bool) : VOp :=
  aluOp (.vmulhu e d a b p s) d a b p s fun w x y => mulhuW w x y

/-- R185: VMULHU: the high half of the unsigned product (R61). -/
def execVmulhu (e : Bool) (d a b : Fin 32) (p : Fin 8) (s : Bool) (st : State) : Out := .next (vector (opVmulhu e d a b p s) st)

/-- VAND as a convoy member. -/
def opVand (e : Bool) (d a b : Fin 32) (p : Fin 8) (s : Bool) : VOp :=
  aluOp (.vand e d a b p s) d a b p s fun _ x y => x &&& y

/-- R185: VAND: bitwise and. -/
def execVand (e : Bool) (d a b : Fin 32) (p : Fin 8) (s : Bool) (st : State) : Out := .next (vector (opVand e d a b p s) st)

/-- VOR as a convoy member. -/
def opVor (e : Bool) (d a b : Fin 32) (p : Fin 8) (s : Bool) : VOp :=
  aluOp (.vor e d a b p s) d a b p s fun _ x y => x ||| y

/-- R185: VOR: bitwise or. -/
def execVor (e : Bool) (d a b : Fin 32) (p : Fin 8) (s : Bool) (st : State) : Out := .next (vector (opVor e d a b p s) st)

/-- VXOR as a convoy member. -/
def opVxor (e : Bool) (d a b : Fin 32) (p : Fin 8) (s : Bool) : VOp :=
  aluOp (.vxor e d a b p s) d a b p s fun _ x y => x ^^^ y

/-- R185: VXOR: bitwise exclusive or. -/
def execVxor (e : Bool) (d a b : Fin 32) (p : Fin 8) (s : Bool) (st : State) : Out := .next (vector (opVxor e d a b p s) st)

/-- VSLL as a convoy member. -/
def opVsll (e : Bool) (d a b : Fin 32) (p : Fin 8) (s : Bool) : VOp :=
  aluOp (.vsll e d a b p s) d a b p s fun w x y => shlW w x y

/-- R185: VSLL: left shift (R60). -/
def execVsll (e : Bool) (d a b : Fin 32) (p : Fin 8) (s : Bool) (st : State) : Out := .next (vector (opVsll e d a b p s) st)

/-- VSRL as a convoy member. -/
def opVsrl (e : Bool) (d a b : Fin 32) (p : Fin 8) (s : Bool) : VOp :=
  aluOp (.vsrl e d a b p s) d a b p s fun w x y => shrW w x y

/-- R185: VSRL: logical right shift (R60). -/
def execVsrl (e : Bool) (d a b : Fin 32) (p : Fin 8) (s : Bool) (st : State) : Out := .next (vector (opVsrl e d a b p s) st)

/-- VSRA as a convoy member. -/
def opVsra (e : Bool) (d a b : Fin 32) (p : Fin 8) (s : Bool) : VOp :=
  aluOp (.vsra e d a b p s) d a b p s fun w x y => sraW w x y

/-- R185: VSRA: arithmetic right shift (R60). -/
def execVsra (e : Bool) (d a b : Fin 32) (p : Fin 8) (s : Bool) (st : State) : Out := .next (vector (opVsra e d a b p s) st)

/-- VMIN as a convoy member. -/
def opVmin (e : Bool) (d a b : Fin 32) (p : Fin 8) (s : Bool) : VOp :=
  aluOp (.vmin e d a b p s) d a b p s fun w x y => minW w x y

/-- R185: VMIN: signed lesser. -/
def execVmin (e : Bool) (d a b : Fin 32) (p : Fin 8) (s : Bool) (st : State) : Out := .next (vector (opVmin e d a b p s) st)

/-- VMAX as a convoy member. -/
def opVmax (e : Bool) (d a b : Fin 32) (p : Fin 8) (s : Bool) : VOp :=
  aluOp (.vmax e d a b p s) d a b p s fun w x y => maxW w x y

/-- R185: VMAX: signed greater. -/
def execVmax (e : Bool) (d a b : Fin 32) (p : Fin 8) (s : Bool) (st : State) : Out := .next (vector (opVmax e d a b p s) st)

/-- VMINU as a convoy member. -/
def opVminu (e : Bool) (d a b : Fin 32) (p : Fin 8) (s : Bool) : VOp :=
  aluOp (.vminu e d a b p s) d a b p s fun w x y => minuW w x y

/-- R185: VMINU: unsigned lesser. -/
def execVminu (e : Bool) (d a b : Fin 32) (p : Fin 8) (s : Bool) (st : State) : Out := .next (vector (opVminu e d a b p s) st)

/-- VMAXU as a convoy member. -/
def opVmaxu (e : Bool) (d a b : Fin 32) (p : Fin 8) (s : Bool) : VOp :=
  aluOp (.vmaxu e d a b p s) d a b p s fun w x y => maxuW w x y

/-- R185: VMAXU: unsigned greater. -/
def execVmaxu (e : Bool) (d a b : Fin 32) (p : Fin 8) (s : Bool) (st : State) : Out := .next (vector (opVmaxu e d a b p s) st)

/-- VSADD as a convoy member. -/
def opVsadd (e : Bool) (d a b : Fin 32) (p : Fin 8) (s : Bool) : VOp :=
  aluOp (.vsadd e d a b p s) d a b p s fun w x y => wrapN w (satS w (sextN w x + sextN w y))

/-- R185: VSADD: saturating signed sum (R59). -/
def execVsadd (e : Bool) (d a b : Fin 32) (p : Fin 8) (s : Bool) (st : State) : Out := .next (vector (opVsadd e d a b p s) st)

/-- VSSUB as a convoy member. -/
def opVssub (e : Bool) (d a b : Fin 32) (p : Fin 8) (s : Bool) : VOp :=
  aluOp (.vssub e d a b p s) d a b p s fun w x y => wrapN w (satS w (sextN w x - sextN w y))

/-- R185: VSSUB: saturating signed difference (R59). -/
def execVssub (e : Bool) (d a b : Fin 32) (p : Fin 8) (s : Bool) (st : State) : Out := .next (vector (opVssub e d a b p s) st)

/-- VSADDU as a convoy member. -/
def opVsaddu (e : Bool) (d a b : Fin 32) (p : Fin 8) (s : Bool) : VOp :=
  aluOp (.vsaddu e d a b p s) d a b p s fun w x y => wrapN w (satU w ((x : Int) + (y : Int)))

/-- R185: VSADDU: saturating unsigned sum (R59). -/
def execVsaddu (e : Bool) (d a b : Fin 32) (p : Fin 8) (s : Bool) (st : State) : Out := .next (vector (opVsaddu e d a b p s) st)

/-- VSSUBU as a convoy member. -/
def opVssubu (e : Bool) (d a b : Fin 32) (p : Fin 8) (s : Bool) : VOp :=
  aluOp (.vssubu e d a b p s) d a b p s fun w x y => wrapN w (satU w ((x : Int) - (y : Int)))

/-- R185: VSSUBU: saturating unsigned difference (R59). -/
def execVssubu (e : Bool) (d a b : Fin 32) (p : Fin 8) (s : Bool) (st : State) : Out := .next (vector (opVssubu e d a b p s) st)

/-- VMERGE as a convoy member: it selects by M0 itself. -/
def opVmerge (e : Bool) (d a b : Fin 32) (p : Fin 8) (s : Bool) : VOp :=
  { aluOp (.vmerge e d a b p s) d a b p s fun _ x _ => x with
    msrc := [0]
    effect := fun c st =>
      let h := st.hart
      let w := elemW h.vtype
      quiet (writeElems d c.lend (active h p c.lend) w
        (fun i => if (h.m[0]).testBit i then operandB c h b s w i else elemAt h a w i) (elems c h) st) }

/-- R185: VMERGE. -/
def execVmerge (e : Bool) (d a b : Fin 32) (p : Fin 8) (s : Bool) (st : State) : Out :=
  .next (vector (opVmerge e d a b p s) st)

/-- VMV as a convoy member. -/
def opVmv (e : Bool) (d b : Fin 32) (p : Fin 8) (s : Bool) : VOp :=
  { aluOp (.vmv e d b p s) d b b p s fun _ _ y => y with vsrc := if s then [] else [b] }

/-- R185: VMV. -/
def execVmv (e : Bool) (d b : Fin 32) (p : Fin 8) (s : Bool) (st : State) : Out := .next (vector (opVmv e d b p s) st)

/-- VID as a convoy member. -/
def opVid (e : Bool) (d : Fin 32) (p : Fin 8) : VOp :=
  { i := .vid e d p, cls := .alu, pm := p, vdst := [d]
    effect := fun c s =>
      let h := s.hart
      let w := elemW h.vtype
      quiet (writeElems d c.lend (active h p c.lend) w (fun i => i % 2 ^ w) (elems c h) s) }

/-- R185: VID. -/
def execVid (e : Bool) (d : Fin 32) (p : Fin 8) (st : State) : Out := .next (vector (opVid e d p) st)

/-! ### Compares (R186) -/

/-- R180: mask bits of active elements written. -/
def writeMask (d : Fin 8) (act : Nat → Bool) (f : Nat → Bool) (idx : List Nat) (s : State) : State :=
  (setM d (mapElems act 1 (fun i => if f i then 1 else 0) idx s.hart.m[d]) s).onHart fun h =>
    { h with mbad := h.mbad.filter fun b => b.1 != d || !((indices (32 * b.2) (32 * b.2 + 32)).all fun i => idx.contains i && act i) }

/-- R186: a compare. -/
def cmpOp (i : Instr) (d : Fin 8) (a b : Fin 32) (p : Fin 8) (sc : Bool) (k : Cond) : VOp :=
  { i := i, cls := .alu, pm := p, vsrc := a :: (if sc then [] else [b]), mdst := [d], xsrc := if sc then [b] else []
    effect := fun c s =>
      let h := s.hart
      let w := elemW h.vtype
      quiet (writeMask d (active h p c.lend) (fun i => k.holds w (elemAt h a w i) (operandB c h b sc w i)) (elems c h) s) }

/-- VCMPEQ as a convoy member. -/
def opVcmpeq (e : Bool) (d : Fin 8) (a b : Fin 32) (p : Fin 8) (s : Bool) : VOp := cmpOp (.vcmpeq e d a b p s) d a b p s .eq

/-- R186: VCMPEQ. -/
def execVcmpeq (e : Bool) (d : Fin 8) (a b : Fin 32) (p : Fin 8) (s : Bool) (st : State) : Out := .next (vector (opVcmpeq e d a b p s) st)

/-- VCMPNE as a convoy member. -/
def opVcmpne (e : Bool) (d : Fin 8) (a b : Fin 32) (p : Fin 8) (s : Bool) : VOp := cmpOp (.vcmpne e d a b p s) d a b p s .ne

/-- R186: VCMPNE. -/
def execVcmpne (e : Bool) (d : Fin 8) (a b : Fin 32) (p : Fin 8) (s : Bool) (st : State) : Out := .next (vector (opVcmpne e d a b p s) st)

/-- VCMPLT as a convoy member. -/
def opVcmplt (e : Bool) (d : Fin 8) (a b : Fin 32) (p : Fin 8) (s : Bool) : VOp := cmpOp (.vcmplt e d a b p s) d a b p s .lt

/-- R186: VCMPLT. -/
def execVcmplt (e : Bool) (d : Fin 8) (a b : Fin 32) (p : Fin 8) (s : Bool) (st : State) : Out := .next (vector (opVcmplt e d a b p s) st)

/-- VCMPLTU as a convoy member. -/
def opVcmpltu (e : Bool) (d : Fin 8) (a b : Fin 32) (p : Fin 8) (s : Bool) : VOp := cmpOp (.vcmpltu e d a b p s) d a b p s .ltu

/-- R186: VCMPLTU. -/
def execVcmpltu (e : Bool) (d : Fin 8) (a b : Fin 32) (p : Fin 8) (s : Bool) (st : State) : Out := .next (vector (opVcmpltu e d a b p s) st)

/-- VCMPLE as a convoy member. -/
def opVcmple (e : Bool) (d : Fin 8) (a b : Fin 32) (p : Fin 8) (s : Bool) : VOp := cmpOp (.vcmple e d a b p s) d a b p s .le

/-- R186: VCMPLE. -/
def execVcmple (e : Bool) (d : Fin 8) (a b : Fin 32) (p : Fin 8) (s : Bool) (st : State) : Out := .next (vector (opVcmple e d a b p s) st)

/-- VCMPLEU as a convoy member. -/
def opVcmpleu (e : Bool) (d : Fin 8) (a b : Fin 32) (p : Fin 8) (s : Bool) : VOp := cmpOp (.vcmpleu e d a b p s) d a b p s .leu

/-- R186: VCMPLEU. -/
def execVcmpleu (e : Bool) (d : Fin 8) (a b : Fin 32) (p : Fin 8) (s : Bool) (st : State) : Out := .next (vector (opVcmpleu e d a b p s) st)

end

end Sys2Proof.Machine
end

