-- ==== Sys2Proof/Machine/VectorFp.lean ====
section
/-!
DEFINITION. FP32 element operations (08_isa_vector.md R187) and narrow conversions (R193 to R196, 03_numbers.md R78,
R79).
-/
namespace Sys2Proof.Machine

noncomputable section

/-- R67, R387: SEW 32 and W 0. -/
def needs32 (s : State) : Option Nat := if bitsOf s.hart.vtype.toNat 6 0 = 2 then none else some 2

/-- The element as an FP32 pattern. -/
def f32At (h : Hart) (v : Fin 32) (i : Nat) : F32 := BitVec.ofNat 32 (elemAt h v 32 i)

/-- R187: an element-wise FP32 operation on A, B and the old destination element. -/
def fpOp (i : Instr) (d a b : Fin 32) (p : Fin 8) (sc acc : Bool) (f : F32 → F32 → F32 → F32) : VOp :=
  { i := i, cls := .alu, pm := p, vsrc := (a :: (if sc then [] else [b])) ++ (if acc then [d] else []), vdst := [d]
    xsrc := if sc then [b] else [], check := needs32
    effect := fun c s =>
      let h := s.hart
      quiet (writeElems d c.lend (active h p c.lend) 32
        (fun i => (f (f32At h a i) (BitVec.ofNat 32 (operandB c h b sc 32 i)) (f32At h d i)).toNat) (elems c h) s) }

/-- R187: an FP32 comparison. -/
def fpCmp (i : Instr) (d : Fin 8) (a b : Fin 32) (p : Fin 8) (sc : Bool) (f : F32 → F32 → Bool) : VOp :=
  { i := i, cls := .alu, pm := p, vsrc := a :: (if sc then [] else [b]), mdst := [d], xsrc := if sc then [b] else []
    check := needs32
    effect := fun c s =>
      let h := s.hart
      quiet (writeMask d (active h p c.lend) (fun i => f (f32At h a i) (BitVec.ofNat 32 (operandB c h b sc 32 i)))
        (elems c h) s) }

/-- VFADD as a convoy member. -/
def opVfadd (e : Bool) (d a b : Fin 32) (p : Fin 8) (s : Bool) : VOp := fpOp (.vfadd e d a b p s) d a b p s false (fun x y _ => fadd x y)

/-- R187: VFADD: A + B. -/
def execVfadd (e : Bool) (d a b : Fin 32) (p : Fin 8) (s : Bool) (st : State) : Out := .next (vector (opVfadd e d a b p s) st)

/-- VFSUB as a convoy member. -/
def opVfsub (e : Bool) (d a b : Fin 32) (p : Fin 8) (s : Bool) : VOp := fpOp (.vfsub e d a b p s) d a b p s false (fun x y _ => fsub x y)

/-- R187: VFSUB: A - B. -/
def execVfsub (e : Bool) (d a b : Fin 32) (p : Fin 8) (s : Bool) (st : State) : Out := .next (vector (opVfsub e d a b p s) st)

/-- VFMUL as a convoy member. -/
def opVfmul (e : Bool) (d a b : Fin 32) (p : Fin 8) (s : Bool) : VOp := fpOp (.vfmul e d a b p s) d a b p s false (fun x y _ => fmul x y)

/-- R187: VFMUL: A times B. -/
def execVfmul (e : Bool) (d a b : Fin 32) (p : Fin 8) (s : Bool) (st : State) : Out := .next (vector (opVfmul e d a b p s) st)

/-- VFMA as a convoy member. -/
def opVfma (e : Bool) (d a b : Fin 32) (p : Fin 8) (s : Bool) : VOp := fpOp (.vfma e d a b p s) d a b p s true (fun x y z => ffma x y z)

/-- R187: VFMA: A times B plus the old element, one rounding. -/
def execVfma (e : Bool) (d a b : Fin 32) (p : Fin 8) (s : Bool) (st : State) : Out := .next (vector (opVfma e d a b p s) st)

/-- VFMIN as a convoy member. -/
def opVfmin (e : Bool) (d a b : Fin 32) (p : Fin 8) (s : Bool) : VOp := fpOp (.vfmin e d a b p s) d a b p s false (fun x y _ => fmin x y)

/-- R187: VFMIN: the lesser (R65). -/
def execVfmin (e : Bool) (d a b : Fin 32) (p : Fin 8) (s : Bool) (st : State) : Out := .next (vector (opVfmin e d a b p s) st)

/-- VFMAX as a convoy member. -/
def opVfmax (e : Bool) (d a b : Fin 32) (p : Fin 8) (s : Bool) : VOp := fpOp (.vfmax e d a b p s) d a b p s false (fun x y _ => fmax x y)

/-- R187: VFMAX: the greater (R65). -/
def execVfmax (e : Bool) (d a b : Fin 32) (p : Fin 8) (s : Bool) (st : State) : Out := .next (vector (opVfmax e d a b p s) st)

/-- VFCMPEQ as a convoy member. -/
def opVfcmpeq (e : Bool) (d : Fin 8) (a b : Fin 32) (p : Fin 8) (s : Bool) : VOp := fpCmp (.vfcmpeq e d a b p s) d a b p s feq

/-- R187: VFCMPEQ. -/
def execVfcmpeq (e : Bool) (d : Fin 8) (a b : Fin 32) (p : Fin 8) (s : Bool) (st : State) : Out := .next (vector (opVfcmpeq e d a b p s) st)

/-- VFCMPLT as a convoy member. -/
def opVfcmplt (e : Bool) (d : Fin 8) (a b : Fin 32) (p : Fin 8) (s : Bool) : VOp := fpCmp (.vfcmplt e d a b p s) d a b p s flt

/-- R187: VFCMPLT. -/
def execVfcmplt (e : Bool) (d : Fin 8) (a b : Fin 32) (p : Fin 8) (s : Bool) (st : State) : Out := .next (vector (opVfcmplt e d a b p s) st)

/-- VFCMPLE as a convoy member. -/
def opVfcmple (e : Bool) (d : Fin 8) (a b : Fin 32) (p : Fin 8) (s : Bool) : VOp := fpCmp (.vfcmple e d a b p s) d a b p s fle

/-- R187: VFCMPLE. -/
def execVfcmple (e : Bool) (d : Fin 8) (a b : Fin 32) (p : Fin 8) (s : Bool) (st : State) : Out := .next (vector (opVfcmple e d a b p s) st)

/-- VFCVTIF as a convoy member. -/
def opVfcvtif (e : Bool) (d a : Fin 32) (p : Fin 8) : VOp := fpOp (.vfcvtif e d a p) d a a p false false (fun x _ _ => fOfInt x.toInt)

/-- R66, R187: VFCVTIF: a signed integer to FP32. -/
def execVfcvtif (e : Bool) (d a : Fin 32) (p : Fin 8) (st : State) : Out := .next (vector (opVfcvtif e d a p) st)

/-- VFCVTFI as a convoy member. -/
def opVfcvtfi (e : Bool) (d a : Fin 32) (p : Fin 8) : VOp := fpOp (.vfcvtfi e d a p) d a a p false false (fun x _ _ => BitVec.ofInt 32 (fToInt (satS 32) x))

/-- R66, R187: VFCVTFI: FP32 to a saturated integer. -/
def execVfcvtfi (e : Bool) (d a : Fin 32) (p : Fin 8) (st : State) : Out := .next (vector (opVfcvtfi e d a p) st)

/-! ### Narrow conversions (R193) -/

/-- R193, R387: a narrow width from 1 to 16. -/
def needsNarrow (s : State) : Option Nat :=
  if 1 ≤ narrowW s.hart.vtype ∧ narrowW s.hart.vtype ≤ 16 then none else some 2

/-- R193: an element with no FP32 word is treated as inactive. -/
def narrowActive (h : Hart) (p : Fin 8) (l : Option Lend) (i : Nat) : Bool := active h p l i && decide (i < vlmaxr h)

/-- R74: the scale code of element `i` in a scale register's image. -/
def scaleByte (img i : Nat) : Nat := getField img 8 (i / 32)

/-- R193: a destination that is one of the sources takes values that depend on timing (DESIGN CHOICE, notes/assumptions/7.md). -/
def timed (s : State) (clash : Bool) (i x : Nat) : Nat := if clash then (Config.timingElement s.tick i).toNat else x

/-- R78, R79: VNARROW over a list of elements: the narrow results in order, and the residual left. -/
def narrowRun (h : Hart) (a b : Fin 32) (act : Nat → Bool) (idx : List Nat) (e : F32) : List (Nat × Nat) × F32 :=
  let w := narrowW h.vtype
  idx.foldl (fun (acc : List (Nat × Nat) × F32) i =>
    if act i then
      let r := narrowStep (nsgn h.vtype) w (f32At h a i) (scaleByte h.v[b] i) acc.2
      ((i, wrapN w r.1) :: acc.1, r.2)
    else acc) ([], e)

/-- R193: the element at which the FP32 side of a conversion reads word `j`, from element `lo` up. -/
def fp32Read (c : Ctx) (h : Hart) (lo j : Nat) : Option Nat := spanRead 32 lo (min (min c.lim h.vl) (vlmaxr h)) j

/-- R74, R193: the element at which a conversion reads the scale codes in word `j`, each for 32 elements. -/
def scaleRead (c : Ctx) (h : Hart) (j : Nat) : Option Nat :=
  let e := max h.vstart (128 * j)
  if e < min (min c.lim h.vl) (vlmaxr h) ∧ e < 128 * j + 128 then some e else none

/-- VNARROW as a convoy member. Its sources are read as they stood before it, a lent copy that is one of them too (DESIGN
CHOICE, notes/assumptions/53.md). A second VNARROW of the convoy goes on from the residual of the first
(DESIGN CHOICE, notes/assumptions/65.md). -/
def opVnarrow (e : Bool) (d a b : Fin 32) (p : Fin 8) : VOp :=
  { i := .vnarrow e d a b p, cls := .alu, pm := p, vsrc := [a, b], vdst := [d], check := needsNarrow
    readAt := fun c h v j => if v = a then (fp32Read c h h.vstart j).or (if a = b then scaleRead c h j else none) else scaleRead c h j
    effect := fun c s =>
      let h := s.hart
      let idx := elems c h
      let act := narrowActive h p c.lend
      let r := narrowRun h a b act idx (residIn h.ecarry)
      let y : Nat → Nat := fun i => timed s (d == a || d == b) i (((r.1.find? (·.1 == i)).map (·.2)).getD 0)
      let t := writeElems d c.lend act (narrowW h.vtype) y idx s
      quiet (if idx.isEmpty then t else t.onHart fun h => { h with ecarry := r.2 }) }

/-- R195: VNARROW. -/
def execVnarrow (e : Bool) (d a b : Fin 32) (p : Fin 8) (st : State) : Out := .next (vector (opVnarrow e d a b p) st)

/-- VWIDEN as a convoy member. Its sources are read as they stood before it, a lent copy that is one of them too (DESIGN
CHOICE, notes/assumptions/53.md). -/
def opVwiden (e : Bool) (d a b : Fin 32) (p : Fin 8) : VOp :=
  { i := .vwiden e d a b p, cls := .alu, pm := p, vsrc := [a, b], vdst := [d], check := needsNarrow
    readAt := fun c h v j =>
      if v = a then (spanRead (narrowW h.vtype) h.vstart (min (min c.lim h.vl) (vlmaxr h)) j).or (if a = b then scaleRead c h j else none)
      else scaleRead c h j
    effect := fun c s =>
      let h := s.hart
      let w := narrowW h.vtype
      let y : Nat → Nat := fun i =>
        let x := elemAt h a w i
        (scaleInt (if nsgn h.vtype then sextN w x else (x : Int)) (scaleByte h.v[b] i)).toNat
      quiet (writeElems d c.lend (narrowActive h p c.lend) 32 (fun i => timed s (d == a || d == b) i (y i)) (elems c h) s) }

/-- R196: VWIDEN. -/
def execVwiden (e : Bool) (d a b : Fin 32) (p : Fin 8) (st : State) : Out := .next (vector (opVwiden e d a b p) st)

/-- R194: the code of block `k`, if the block holds an active element. -/
def blockCode (h : Hart) (a : Fin 32) (act : Nat → Bool) (lim k : Nat) : Option Nat :=
  let ms := ((indices (32 * k) (min (32 * k + 32) (min lim h.vl))).filter act).map fun i => fabs (f32At h a i)
  let w := narrowW h.vtype
  match ms with
  | [] => none
  | m :: rest =>
    if ms.any F32.isNan then some 0xFF
    else some (scaleCode (rest.foldl fmax m) (if nsgn h.vtype then 2 ^ (w - 1) - 1 else 2 ^ w - 1))

/-- VSCALE as a convoy member. Its elements are the code bytes of whole blocks. Its source is read as it stood before it, a
lent copy that is the source too (DESIGN CHOICE, notes/assumptions/53.md). -/
def opVscale (e : Bool) (d a : Fin 32) (p : Fin 8) : VOp :=
  { i := .vscale e d a p, cls := .alu, pm := p, vsrc := [a], vdst := [d], check := needsNarrow
    readAt := fun c h _ j => if h.vstart < c.lim then fp32Read c h (h.vstart / 32 * 32) j else none
    effect := fun c s =>
      let h := s.hart
      let act := narrowActive h p c.lend
      let top := min c.lim h.vl
      let blocks := if top ≤ h.vstart then [] else indices (h.vstart / 32) (ceilDiv top 32)
      let code := blockCode h a act top
      quiet (writeElems d c.lend (fun k => (code k).isSome) 8 (fun k => timed s (d == a) k ((code k).getD 0)) blocks s) }

/-- R194: VSCALE. -/
def execVscale (e : Bool) (d a : Fin 32) (p : Fin 8) (st : State) : Out := .next (vector (opVscale e d a p) st)

end

end Sys2Proof.Machine
end

