-- ==== Sys2Proof/Machine/VectorPerm.lean ====
section
/-!
DEFINITION. Permutations, reductions and mask instructions of major 0x25 (08_isa_vector.md R188 to R192).
-/
namespace Sys2Proof.Machine

noncomputable section

/-- R182: a cross-element instruction, over elements 0 to VL - 1 whatever VSTART holds. -/
def crossOp (i : Instr) (p : Fin 8) (vsrc : List (Fin 32)) (d : Fin 32) (xsrc : List (Fin 32)) (msrc : List (Fin 8))
    (effect : Ctx → State → State) : VOp :=
  { i := i, cls := .perm, pm := p, vsrc := vsrc, vdst := [d], xsrc := xsrc, msrc := msrc, cross := true
    effect := fun c s => quiet (if s.hart.vl = 0 then s else effect c s) }

/-- R188: the elements a slide or shuffle writes, and what it writes. -/
def permWrite (d : Fin 32) (p : Fin 8) (c : Ctx) (sel : Nat → Bool) (f : Nat → Nat) (s : State) : State :=
  let h := s.hart
  writeElems d c.lend (fun i => active h p c.lend i && sel i) (elemW h.vtype) f (List.range h.vl) s

/-- VSLIDEUP as a convoy member. -/
def opVslideup (e : Bool) (d a b : Fin 32) (p : Fin 8) : VOp :=
  { crossOp (.vslideup e d a b p) p [a] d [b] [] fun c s =>
      let k := (c.x b).toNat
      permWrite d p c (fun i => decide (k ≤ i)) (fun i => elemAt s.hart a (elemW s.hart.vtype) (i - k)) s with
    readAt := fun c h _ j => onceRead c h (elemW h.vtype) 0 (h.vl - (c.x b).toNat) j }

/-- R188: VSLIDEUP. -/
def execVslideup (e : Bool) (d a b : Fin 32) (p : Fin 8) (st : State) : Out := .next (vector (opVslideup e d a b p) st)

/-- VSLIDEDN as a convoy member. -/
def opVslidedn (e : Bool) (d a b : Fin 32) (p : Fin 8) : VOp :=
  { crossOp (.vslidedn e d a b p) p [a] d [b] [] fun c s =>
      let k := (c.x b).toNat
      permWrite d p c (fun _ => true) (fun i => if i + k < s.hart.vl then elemAt s.hart a (elemW s.hart.vtype) (i + k) else 0) s with
    readAt := fun c h _ j => onceRead c h (elemW h.vtype) (c.x b).toNat h.vl j }

/-- R188: VSLIDEDN. -/
def execVslidedn (e : Bool) (d a b : Fin 32) (p : Fin 8) (st : State) : Out := .next (vector (opVslidedn e d a b p) st)

/-- VSHUF as a convoy member. -/
def opVshuf (e : Bool) (d a b : Fin 32) (p : Fin 8) : VOp :=
  { crossOp (.vshuf e d a b p) p [a, b] d [] [] fun c s =>
      let w := elemW s.hart.vtype
      permWrite d p c (fun _ => true) (fun i =>
        let j := elemAt s.hart b w i
        if j < s.hart.vl then elemAt s.hart a w j else 0) s with
    readAt := fun c h v j =>
      let w := elemW h.vtype
      let picks := (List.range h.vl).filter fun i => active h p c.lend i && decide (elemAt h b w i < h.vl) && (spanRead w (elemAt h b w i) (elemAt h b w i + 1) j).isSome
      if v = b ∨ !picks.isEmpty then onceRead c h w 0 h.vl j else none }

/-- R188: VSHUF. -/
def execVshuf (e : Bool) (d a b : Fin 32) (p : Fin 8) (st : State) : Out := .next (vector (opVshuf e d a b p) st)

/-- R189: the elements selected by predicate and mask, ascending. -/
def selected (h : Hart) (p : Fin 8) (l : Option Lend) (b : Fin 8) : List Nat :=
  (List.range h.vl).filter fun i => active h p l i && (h.m[b]).testBit i

/-- VCOMPRESS as a convoy member. -/
def opVcompress (e : Bool) (d a : Fin 32) (b p : Fin 8) : VOp :=
  crossOp (.vcompress e d a b p) p [a] d [] [b] fun c s =>
    let w := elemW s.hart.vtype
    let sel := selected s.hart p c.lend b
    writeElems d c.lend (fun _ => true) w (fun i => elemAt s.hart a w (sel.getD i 0)) (List.range sel.length) s

/-- R189: VCOMPRESS. -/
def execVcompress (e : Bool) (d a : Fin 32) (b p : Fin 8) (st : State) : Out := .next (vector (opVcompress e d a b p) st)

/-- VEXPAND as a convoy member. -/
def opVexpand (e : Bool) (d a : Fin 32) (b p : Fin 8) : VOp :=
  crossOp (.vexpand e d a b p) p [a] d [] [b] fun c s =>
    let w := elemW s.hart.vtype
    let sel := selected s.hart p c.lend b
    writeElems d c.lend (fun _ => true) w (fun i => elemAt s.hart a w (sel.idxOf i)) sel s

/-- R189: VEXPAND. -/
def execVexpand (e : Bool) (d a : Fin 32) (b p : Fin 8) (st : State) : Out := .next (vector (opVexpand e d a b p) st)

/-- R190: a reduction. -/
def redOp (i : Instr) (d a b : Fin 32) (p : Fin 8) (f : Nat → Nat → Nat → Nat) : VOp :=
  { crossOp i p [a, b] d [] [] fun c s =>
      let h := s.hart
      let w := elemW h.vtype
      let acc := (List.range h.vl).foldl (fun acc i => if active h p c.lend i then f w acc (elemAt h a w i) else acc) (elemAt h b w 0)
      writeElems d c.lend (fun _ => true) w (fun _ => acc) [0] s with
    readAt := fun c h v j => onceRead c h (elemW h.vtype) 0 (if v = a then h.vl else 1) j }

/-- VREDSUM as a convoy member. -/
def opVredsum (e : Bool) (d a b : Fin 32) (p : Fin 8) : VOp := redOp (.vredsum e d a b p) d a b p (fun _ x y => x + y)

/-- R190: VREDSUM: wrapping sum. -/
def execVredsum (e : Bool) (d a b : Fin 32) (p : Fin 8) (st : State) : Out := .next (vector (opVredsum e d a b p) st)

/-- VREDMAX as a convoy member. -/
def opVredmax (e : Bool) (d a b : Fin 32) (p : Fin 8) : VOp := redOp (.vredmax e d a b p) d a b p maxW

/-- R190: VREDMAX: signed maximum. -/
def execVredmax (e : Bool) (d a b : Fin 32) (p : Fin 8) (st : State) : Out := .next (vector (opVredmax e d a b p) st)

/-- VREDMIN as a convoy member. -/
def opVredmin (e : Bool) (d a b : Fin 32) (p : Fin 8) : VOp := redOp (.vredmin e d a b p) d a b p minW

/-- R190: VREDMIN: signed minimum. -/
def execVredmin (e : Bool) (d a b : Fin 32) (p : Fin 8) (st : State) : Out := .next (vector (opVredmin e d a b p) st)

/-- VREDAND as a convoy member. -/
def opVredand (e : Bool) (d a b : Fin 32) (p : Fin 8) : VOp := redOp (.vredand e d a b p) d a b p (fun _ x y => x &&& y)

/-- R190: VREDAND: bitwise and. -/
def execVredand (e : Bool) (d a b : Fin 32) (p : Fin 8) (st : State) : Out := .next (vector (opVredand e d a b p) st)

/-- VREDOR as a convoy member. -/
def opVredor (e : Bool) (d a b : Fin 32) (p : Fin 8) : VOp := redOp (.vredor e d a b p) d a b p (fun _ x y => x ||| y)

/-- R190: VREDOR: bitwise or. -/
def execVredor (e : Bool) (d a b : Fin 32) (p : Fin 8) (st : State) : Out := .next (vector (opVredor e d a b p) st)

/-! ### Masks (R191) -/

/-- VMFIRST as a convoy member. -/
def opVmfirst (e : Bool) (d : Fin 32) (a p : Fin 8) : VOp :=
  { i := .vmfirst e d a p, cls := .perm, pm := p, msrc := [a], xdst := [d], cross := true
    effect := fun c s => .ok (s, [Word.ofNat ((selected s.hart p c.lend a).headD s.hart.vl)]) }

/-- R191: VMFIRST. -/
def execVmfirst (e : Bool) (d : Fin 32) (a p : Fin 8) (st : State) : Out := .next (vector (opVmfirst e d a p) st)

/-- VMPOPC as a convoy member. -/
def opVmpopc (e : Bool) (d : Fin 32) (a p : Fin 8) : VOp :=
  { i := .vmpopc e d a p, cls := .perm, pm := p, msrc := [a], xdst := [d], cross := true
    effect := fun c s => .ok (s, [Word.ofNat (selected s.hart p c.lend a).length]) }

/-- R191: VMPOPC. -/
def execVmpopc (e : Bool) (d : Fin 32) (a p : Fin 8) (st : State) : Out := .next (vector (opVmpopc e d a p) st)

/-- R191: a mask instruction. -/
def maskOp (i : Instr) (d a b p : Fin 8) (f : Bool → Bool → Bool) : VOp :=
  { i := i, cls := .perm, pm := p, msrc := [a, b], mdst := [d]
    effect := fun c s =>
      let h := s.hart
      quiet (writeMask d (active h p c.lend) (fun i => f ((h.m[a]).testBit i) ((h.m[b]).testBit i)) (elems c h) s) }

/-- VMAND as a convoy member. -/
def opVmand (e : Bool) (d a b p : Fin 8) : VOp := maskOp (.vmand e d a b p) d a b p (fun x y => x && y)

/-- R191: VMAND. -/
def execVmand (e : Bool) (d a b p : Fin 8) (st : State) : Out := .next (vector (opVmand e d a b p) st)

/-- VMOR as a convoy member. -/
def opVmor (e : Bool) (d a b p : Fin 8) : VOp := maskOp (.vmor e d a b p) d a b p (fun x y => x || y)

/-- R191: VMOR. -/
def execVmor (e : Bool) (d a b p : Fin 8) (st : State) : Out := .next (vector (opVmor e d a b p) st)

/-- VMXOR as a convoy member. -/
def opVmxor (e : Bool) (d a b p : Fin 8) : VOp := maskOp (.vmxor e d a b p) d a b p (fun x y => x != y)

/-- R191: VMXOR. -/
def execVmxor (e : Bool) (d a b p : Fin 8) (st : State) : Out := .next (vector (opVmxor e d a b p) st)

/-- VMNOT as a convoy member. -/
def opVmnot (e : Bool) (d a p : Fin 8) : VOp := maskOp (.vmnot e d a p) d a a p (fun x _ => !x)

/-- R191: VMNOT. -/
def execVmnot (e : Bool) (d a p : Fin 8) (st : State) : Out := .next (vector (opVmnot e d a p) st)

/-! ### One element and a scalar (R192) -/

/-- R192: an element extended to 64 bits. -/
def extElem (t : BitVec 12) (x : Nat) : Word :=
  let w := elemW t
  if narrowW t ≠ 0 ∧ !nsgn t then Word.ofNat x else Word.ofInt (sextN w x)

/-- VMVXS as a convoy member; it ignores every predicate. -/
def opVmvxs (e : Bool) (d a b : Fin 32) : VOp :=
  { i := .vmvxs e d a b, cls := .perm, vsrc := [a], xsrc := [b], xdst := [d], unlent := true
    readAt := fun c h _ j => onceRead c h (elemW h.vtype) (c.x b).toNat ((c.x b).toNat + 1) j
    effect := fun c s =>
      let j := (c.x b).toNat
      .ok (s, [if j < s.hart.vl then extElem s.hart.vtype (elemAt s.hart a (elemW s.hart.vtype) j) else 0]) }

/-- R192: VMVXS. -/
def execVmvxs (e : Bool) (d a b : Fin 32) (st : State) : Out := .next (vector (opVmvxs e d a b) st)

/-- VSPLAT as a convoy member. -/
def opVsplat (e : Bool) (d a : Fin 32) (p : Fin 8) : VOp :=
  { i := .vsplat e d a p, cls := .perm, pm := p, xsrc := [a], vdst := [d]
    effect := fun c s =>
      let h := s.hart
      let w := elemW h.vtype
      quiet (writeElems d c.lend (active h p c.lend) w (fun _ => (c.x a).toNat % 2 ^ w) (elems c h) s) }

/-- R192: VSPLAT. -/
def execVsplat (e : Bool) (d a : Fin 32) (p : Fin 8) (st : State) : Out := .next (vector (opVsplat e d a p) st)

end

end Sys2Proof.Machine
end

