-- ==== Sys2Proof/Machine/VectorMem.lean ====
section
/-!
DEFINITION. Vector loads and stores, spill and fill (08_isa_vector.md R197 to R203, 03_numbers.md R69 to R71,
05_memory.md R136).
-/
namespace Sys2Proof.Machine

noncomputable section

/-- The active elements of a list in order, each with its own access; a trap carries its element (R382). -/
def eachElem (act : Nat → Bool) (f : Nat → State → Except Stop State) : List Nat → State → Except Stop State
  | [], s => .ok s
  | i :: is, s =>
    if act i then
      match f i s with
      | .ok s' => eachElem act f is s'
      | .error (.trap t _) => .error (.trap t i)
      | .error e => .error e
    else eachElem act f is s

/-- R69: the byte, the bit in it and the number of bytes of narrow field `i` of a strip that begins at bit `o`. -/
def fieldPlace (o w i : Nat) : Nat × Nat × Nat := ((o + i * w) / 8, (o + i * w) % 8, ceilDiv ((o + i * w) % 8 + w) 8)

/-- R69: a narrow field read from a strip. -/
def loadField (r : Req) (base : Word) (o w i : Nat) (s : State) : Except Stop (Nat × State) :=
  let (byte, bit, n) := fieldPlace o w i
  match loadBytes r (base + BitVec.ofNat 64 byte) n s with
  | .error e => .error e
  | .ok (bs, s') => .ok (leNat bs / 2 ^ bit % 2 ^ w, s')

/-- R71: a narrow field written into a strip, byte by byte, the bits around it kept. -/
def storeField (r : Req) (base : Word) (o w i x : Nat) (s : State) : Except Stop State :=
  let (byte, bit, n) := fieldPlace o w i
  (List.range n).foldl (fun acc j =>
    match acc with
    | .error e => .error e
    | .ok s =>
      storeBits r (base + BitVec.ofNat 64 (byte + j)) ((2 ^ w - 1) * 2 ^ bit / 256 ^ j % 256) (x % 2 ^ w * 2 ^ bit / 256 ^ j % 256) s)
    (.ok s)

/-- An element written to a destination and its lent copy. -/
def putElem (d : Fin 32) (l : Option Lend) (w i x : Nat) (s : State) : State := writeElems d l (fun _ => true) w (fun _ => x) [i] s

/-- R197: the forms of a vector memory access. -/
inductive MemForm where
  | unit (bit : Option (Fin 32))
  | stride (b : Fin 32)
  | index (b : Fin 32)
  deriving DecidableEq, Repr

/-- R197: the address of element `i` of a strided or indexed form. -/
def elemAddr (f : MemForm) (c : Ctx) (h : Hart) (base : Word) (i : Nat) : Word :=
  match f with
  | .unit _ => base + BitVec.ofNat 64 (i * (elemW h.vtype / 8))
  | .stride b => base + BitVec.ofNat 64 i * c.x b
  | .index b => base + BitVec.ofNat 64 (if narrowW h.vtype = 0 then elemAt h b (elemW h.vtype) i else elemAt h b 32 i)

/-- R197: the bit offset of a unit form. -/
def bitOffset (f : MemForm) (c : Ctx) : Nat :=
  match f with
  | .unit (some b) => (c.x b).toNat % 8
  | _ => 0

/-- R197: a unit form moves a bit stream. -/
def isStream (f : MemForm) (h : Hart) : Bool :=
  match f with
  | .unit b => b.isSome || narrowW h.vtype != 0
  | _ => false

/-- R197: an indexed form treats an element with no offset word as inactive. -/
def memActive (f : MemForm) (h : Hart) (p : Fin 8) (l : Option Lend) (i : Nat) : Bool :=
  active h p l i &&
    match f with
    | .index _ => narrowW h.vtype == 0 || decide (i < vlmaxr h)
    | _ => true

/-- R123, R201: the bearing of a form on ONCE. -/
def useOf (f : MemForm) (once : Bool) : Use :=
  match f with
  | .unit _ => .sweep
  | .stride _ => if once then .sweep else .neither
  | .index _ => if once then .neither else .clears

/-- R197, R198: one element loaded. -/
def loadElem (r : Req) (f : MemForm) (c : Ctx) (base : Word) (i : Nat) (s : State) : Except Stop (Nat × State) :=
  let h := s.hart
  let w := elemW h.vtype
  if isStream f h then loadField r base (bitOffset f c) w i s
  else if narrowW h.vtype = 0 then load r (elemAddr f c h base i) (w / 8) (w / 8) s
  else
    match load r (elemAddr f c h base i) 2 2 s with
    | .ok (x, s') => .ok (x % 2 ^ w, s')
    | .error e => .error e

/-- R197, R199: one element stored. -/
def storeElem (r : Req) (f : MemForm) (c : Ctx) (base : Word) (d : Fin 32) (i : Nat) (s : State) : Except Stop State :=
  let h := s.hart
  let w := elemW h.vtype
  let x := elemAt h d w i
  if isStream f h then storeField r base (bitOffset f c) w i x s
  else if narrowW h.vtype = 0 then store r (elemAddr f c h base i) (w / 8) (w / 8) x s
  else store r (elemAddr f c h base i) 2 2 (if nsgn h.vtype then wrapN 16 (sextN w x) else x) s

/-- The registers a form reads: index registers, and X registers beside the base. -/
def MemForm.vregs : MemForm → List (Fin 32)
  | .index b => [b]
  | _ => []

/-- The X registers a form reads beside the base. -/
def MemForm.xregs : MemForm → List (Fin 32)
  | .unit (some b) => [b]
  | .stride b => [b]
  | _ => []

/-- R179, R197: where a memory member reads a word of a source register: the stored elements at their width, and of an
index register the offset of each element, which under a narrow VTYPE is a word of its own. -/
def memRead (f : MemForm) (data : List (Fin 32)) (c : Ctx) (h : Hart) (v : Fin 32) (j : Nat) : Option Nat :=
  let idx := if !f.vregs.contains v then none
    else if narrowW h.vtype = 0 then elemRead c h v j
    else if h.vstart ≤ j ∧ j < min c.lim h.vl then some j else none
  match (if data.contains v then elemRead c h v j else none), idx with
  | some a, some b => some (min a b)
  | some a, none => some a
  | none, o => o

/-- R198: a vector load. -/
def loadOp (i : Instr) (f : MemForm) (d a : Fin 32) (p : Fin 8) (once : Bool) : VOp :=
  { i := i, cls := .load, pm := p, vsrc := f.vregs, vdst := [d], xsrc := a :: f.xregs, readAt := memRead f []
    effect := fun c s =>
      match eachElem (memActive f s.hart p c.lend) (fun i t =>
          match loadElem (reqOf t .load .vector (useOf f once)) f c (c.x a) i t with
          | .ok (x, t') => .ok (putElem d c.lend (elemW t'.hart.vtype) i x t')
          | .error e => .error e) (elems c s.hart) s with
      | .ok t => quiet (healElems d c.lend (memActive f s.hart p c.lend) (elemW s.hart.vtype) (elems c s.hart) t)
      | .error e => .error e }

/-- R419: the stretches of addresses that a store writes: those of its active elements, and for a bit stream each byte
that they cover whole. -/
def storeSpans (f : MemForm) (c : Ctx) (h : Hart) (base : Word) (p : Fin 8) : List (Nat × Nat) :=
  let w := elemW h.vtype
  if isStream f h then
    let o := bitOffset f c
    ((indices (ceilDiv (o + h.vstart * w) 8) ((o + min c.lim h.vl * w) / 8)).filter fun k =>
      (indices ((8 * k - o) / w) ((8 * k + 7 - o) / w + 1)).all (memActive f h p c.lend)).map fun k => (base.toNat + k, base.toNat + k + 1)
  else
    ((elems c h).filter (memActive f h p c.lend)).map fun i =>
      let a := (elemAddr f c h base i).toNat
      (a, a + if narrowW h.vtype = 0 then w / 8 else 2)

/-- R199: a vector store. -/
def storeOp (i : Instr) (f : MemForm) (d a : Fin 32) (p : Fin 8) (once : Bool) : VOp :=
  { i := i, cls := .store, pm := p, vsrc := d :: f.vregs, xsrc := a :: f.xregs, readAt := memRead f [d]
    effect := fun c s =>
      let whole := storeSpans f c s.hart (c.x a) p
      match eachElem (memActive f s.hart p c.lend) (fun i t =>
          storeElem { reqOf t .store .vector (useOf f once) with whole := whole } f c (c.x a) d i t) (elems c s.hart) s with
      | .ok t => quiet t
      | .error e => .error e }

/-- VLD as a convoy member. -/
def opVld (e : Bool) (d a : Fin 32) (p : Fin 8) (o : Bool) : VOp := loadOp (.vld e d a p o) (.unit none) d a p o

/-- R198: VLD. -/
def execVld (e : Bool) (d a : Fin 32) (p : Fin 8) (o : Bool) (st : State) : Out := .next (vector (opVld e d a p o) st)

/-- VLDS as a convoy member. -/
def opVlds (e : Bool) (d a b : Fin 32) (p : Fin 8) (o : Bool) : VOp := loadOp (.vlds e d a b p o) (.stride b) d a p o

/-- R198: VLDS. -/
def execVlds (e : Bool) (d a b : Fin 32) (p : Fin 8) (o : Bool) (st : State) : Out := .next (vector (opVlds e d a b p o) st)

/-- VLDX as a convoy member. -/
def opVldx (e : Bool) (d a b : Fin 32) (p : Fin 8) (o : Bool) : VOp := loadOp (.vldx e d a b p o) (.index b) d a p o

/-- R198: VLDX. -/
def execVldx (e : Bool) (d a b : Fin 32) (p : Fin 8) (o : Bool) (st : State) : Out := .next (vector (opVldx e d a b p o) st)

/-- VLDB as a convoy member. -/
def opVldb (e : Bool) (d a b : Fin 32) (p : Fin 8) (o : Bool) : VOp := loadOp (.vldb e d a b p o) (.unit (some b)) d a p o

/-- R198, R70: VLDB. -/
def execVldb (e : Bool) (d a b : Fin 32) (p : Fin 8) (o : Bool) (st : State) : Out := .next (vector (opVldb e d a b p o) st)

/-- R116, R200: an address that lies in an ATTR 2 page, whatever stands behind the page. -/
def devicePage (r : Req) (va : Word) (s : State) : Bool :=
  canonical va.toNat && !inWindow va.toNat && !inAperture va.toNat && match findLeaf s r va with
    | .ok (l, _) => !bitAt l.pte 12 && bitsOf l.pte 15 14 == 2
    | .error _ => false

/-- R200, R415: a byte at which VLDFF trims: it fails translation or protection, or lies in an ATTR 2 page (DEDUCED,
notes/assumptions/50.md). -/
def trimsAt (r : Req) (va : Word) (s : State) : Bool :=
  devicePage r va s || match resolve r va s with
    | .error (.trap t _) => t.cause == 0x05 || t.cause == 0x07
    | .error _ => false
    | .ok (t, _) => t.attr == 2

/-- R200: an element any of whose bytes lies in such a page. -/
def elemTrims (base : Word) (i : Nat) (s : State) : Bool :=
  let h := s.hart
  let w := elemW h.vtype
  let (byte, n) := if narrowW h.vtype = 0 then (i * (w / 8), w / 8) else ((fieldPlace 0 w i).1, (fieldPlace 0 w i).2.2)
  (List.range n).any fun j => trimsAt (reqOf s .load .vector .sweep) (base + BitVec.ofNat 64 (byte + j)) s

/-- VLDFF as a convoy member. -/
def opVldff (e : Bool) (d a : Fin 32) (p : Fin 8) (o : Bool) : VOp :=
  { loadOp (.vldff e d a p o) (.unit none) d a p o with
    effect := fun c s =>
      let idx := elems c s.hart
      match (idx.drop 1).find? fun i => memActive (.unit none) s.hart p c.lend i && elemTrims (c.x a) i s with
      | some f => .error (.trim f)
      | none => (loadOp (.vldff e d a p o) (.unit none) d a p o).effect c s }

/-- R200: VLDFF. -/
def execVldff (e : Bool) (d a : Fin 32) (p : Fin 8) (o : Bool) (st : State) : Out := .next (vector (opVldff e d a p o) st)

/-- VST as a convoy member. -/
def opVst (e : Bool) (d a : Fin 32) (p : Fin 8) (o : Bool) : VOp := storeOp (.vst e d a p o) (.unit none) d a p o

/-- R199: VST. -/
def execVst (e : Bool) (d a : Fin 32) (p : Fin 8) (o : Bool) (st : State) : Out := .next (vector (opVst e d a p o) st)

/-- VSTS as a convoy member. -/
def opVsts (e : Bool) (d a b : Fin 32) (p : Fin 8) (o : Bool) : VOp := storeOp (.vsts e d a b p o) (.stride b) d a p o

/-- R199: VSTS. -/
def execVsts (e : Bool) (d a b : Fin 32) (p : Fin 8) (o : Bool) (st : State) : Out := .next (vector (opVsts e d a b p o) st)

/-- VSTX as a convoy member. -/
def opVstx (e : Bool) (d a b : Fin 32) (p : Fin 8) (o : Bool) : VOp := storeOp (.vstx e d a b p o) (.index b) d a p o

/-- R199: VSTX. -/
def execVstx (e : Bool) (d a b : Fin 32) (p : Fin 8) (o : Bool) (st : State) : Out := .next (vector (opVstx e d a b p o) st)

/-- VSTB as a convoy member. -/
def opVstb (e : Bool) (d a b : Fin 32) (p : Fin 8) (o : Bool) : VOp := storeOp (.vstb e d a b p o) (.unit (some b)) d a p o

/-- R199, R71: VSTB. -/
def execVstb (e : Bool) (d a b : Fin 32) (p : Fin 8) (o : Bool) (st : State) : Out := .next (vector (opVstb e d a b p o) st)

/-! ### Spill and fill (R203, R136) -/

/-- R136: the address of the data of a frame. -/
def frameData (base : Word) : Word := base + 0x40

/-- R203: the elements of a frame move as a unit-stride access of its VTYPE moves them. -/
def frameForm : MemForm := .unit none

/-- R203: with its last element a spill also writes the other bits of that element's byte. -/
def spillTail (c : Ctx) (h : Hart) : Bool := decide (h.vstart < h.vl) && decide (h.vl ≤ c.lim) && h.vl * elemW h.vtype % 8 != 0

/-- R203: what VSPILL stores, as one request. -/
def spillReq (base : Word) (c : Ctx) (s : State) : Req :=
  let h := s.hart
  let tail := (frameData base).toNat + h.vl * elemW h.vtype / 8
  { reqOf s .store .vector .neither with
    whole := (base.toNat, base.toNat + 64) :: storeSpans frameForm { c with lend := none } h (frameData base) 0
      ++ if spillTail c h then [(tail, tail + 1)] else [] }

/-- R203: the header of a spill frame, written at every issue. -/
def spillHead (a : Fin 32) (c : Ctx) (s : State) : Except Stop State :=
  let h := s.hart
  let base := c.x a
  if !aligned base 64 then .error (.trap { cause := 0x03, tval := base } h.vstart)
  else
    match storeBytes (spillReq base c s) base (leBytes 8 h.vl ++ leBytes 8 h.vtype.toNat ++ List.replicate 48 0) s with
    | .error (.trap t _) => .error (.trap t h.vstart)
    | x => x

/-- R203: a spill frame written: its header, its elements, and after the last element the rest of its byte. Where the convoy
stops at its first element the header stands, unless it is the header that failed. -/
def spillEffect (d a : Fin 32) (c : Ctx) (s : State) : Except Stop (State × List Word) :=
  let h := s.hart
  let data := frameData (c.x a)
  let r := spillReq (c.x a) c s
  let bits := h.vl * elemW h.vtype
  match spillHead a c s with
  | .error (.trap t e) => if c.lim ≤ h.vstart then quiet s else .error (.trap t e)
  | .error e => .error e
  | .ok s1 =>
    match eachElem (fun _ => true) (fun i t => storeElem r frameForm c data d i t) (elems c h) s1 with
    | .error e => .error e
    | .ok s2 =>
      if spillTail c h then
        match storeBits r (data + BitVec.ofNat 64 (bits / 8)) (256 - 2 ^ (bits % 8)) 0 s2 with
        | .error (.trap t _) => .error (.trap t (h.vl - 1))
        | .error e => .error e
        | .ok s3 => quiet s3
      else quiet s2

/-- VSPILL as a convoy member. A fault on the header goes before the elements that it reads. -/
def opVspill (d a : Fin 32) : VOp :=
  { i := .vspill d a, vsrc := [d], xsrc := [a], ownRange := true, effect := spillEffect d a
    first := fun c s => match spillHead a c s with
      | .error e => some e
      | .ok _ => none }

/-- R203: VSPILL. -/
def execVspill (d a : Fin 32) (st : State) : Out := .next (vector (opVspill d a) st)

/-- R203: VFILL. -/
def fillEffect (d a : Fin 32) (c : Ctx) (s : State) : Except Stop (State × List Word) :=
  let h := s.hart
  let base := c.x a
  let r := reqOf s .load .vector .neither
  if c.lim ≤ h.vstart then quiet s
  else if !aligned base 64 then .error (.trap { cause := 0x03, tval := base } h.vstart)
  else
    match load r base 8 8 s with
    | .error (.trap t _) => .error (.trap t h.vstart)
    | .error e => .error e
    | .ok (rvl, s1) =>
      match load r (base + 8) 8 8 s1 with
      | .error (.trap t _) => .error (.trap t h.vstart)
      | .error e => .error e
      | .ok (rt, s2) =>
        let rtype := BitVec.ofNat 12 rt
        if 16 < narrowW rtype then .error (.trap (illegal (.vfill d a) 2 0) h.vstart)
        else if vlmaxOf (laneCount h.lanes) (elemW rtype) < rvl then .error (.trap (illegal (.vfill d a) 7 0) h.vstart)
        else
          let s3 := s2.onHart fun h => { h with vtype := rtype, vl := rvl }
          match eachElem (fun _ => true) (fun i t =>
              match loadElem r frameForm c (frameData base) i t with
              | .ok (x, t') => .ok (putElem d none (elemW rtype) i x t')
              | .error e => .error e) (indices h.vstart (min c.lim rvl)) s3 with
          | .error e => .error e
          | .ok s4 => quiet (healElems d none (fun _ => true) (elemW rtype) (indices h.vstart (min c.lim rvl)) s4)

/-- VFILL as a convoy member. -/
def opVfill (d a : Fin 32) : VOp := { i := .vfill d a, vdst := [d], xsrc := [a], ownRange := true, effect := fillEffect d a }

/-- R203: VFILL. -/
def execVfill (d a : Fin 32) (st : State) : Out := .next (vector (opVfill d a) st)

end

end Sys2Proof.Machine
end

