-- ==== Sys2Proof/Machine/Modular.lean ====
section
/-!
DEFINITION. The modular vector instructions (09_isa_cipher.md R204 to R211) and gadget digits (04_ciphertexts.md R104).
-/
namespace Sys2Proof.Machine

noncomputable section

/-! ### Residues -/

/-- `b ^ e mod m` by squaring, for an exponent of at most `n` bits. -/
def powMod (m : Nat) : Nat → Nat → Nat → Nat
  | 0, _, _ => 1 % m
  | n + 1, b, e =>
    let r := powMod m n (b * b % m) (e / 2)
    if e % 2 = 1 then b * r % m else r

/-- R82: the centred lift of a residue. -/
def lift (r q : Nat) : Int := if r ≤ q / 2 then (r : Int) else (r : Int) - q

/-- R104: digits off a number, least first, and what remains above them. -/
def digitLoop (base : Int) : Nat → Int → List Int × Int
  | 0, y => ([], y)
  | n + 1, y =>
    let d := y - base * ((y + base / 2) / base)
    let r := digitLoop base n ((y - d) / base)
    (d :: r.1, r.2)

/-- R104: `digits` of a residue modulo Q: the remainder joins the top digit. -/
def digitsOf (qq c beta ell : Nat) : List Int :=
  let x := lift c qq
  let g := 2 ^ (beta * ell)
  let y := if qq ≤ g then x else (x * (g : Int) + (qq / 2 : Nat)) / (qq : Int)
  let r := digitLoop (2 ^ beta : Nat) ell y
  (List.range ell).map fun u => r.1.getD u 0 + if u + 1 = ell then r.2 * (2 ^ beta : Nat) else 0

/-! ### Operations -/

/-- R204, R205: the modulus of a register; 2^32 where it still reads 0. -/
def modulus (h : Hart) (q : Fin 4) : Nat := if h.qm[q] = 0 then 2 ^ 32 else h.qm[q]

/-- R205: an element-wise modular operation on A, B and the old element, under q. -/
def modOp (i : Instr) (d a : Fin 32) (b : Option (Fin 32)) (p : Fin 8) (q : Fin 4) (acc : Bool)
    (f : Nat → Nat → Nat → Nat → Nat) : VOp :=
  { i := i, cls := .modular, pm := p, vsrc := a :: b.toList ++ (if acc then [d] else []), vdst := [d], check := needs32
    effect := fun c s =>
      let h := s.hart
      let m := modulus h q
      quiet (writeElems d c.lend (active h p c.lend) 32
        (fun i => f m (elemAt h a 32 i) (elemAt h (b.getD a) 32 i) (elemAt h d 32 i)) (elems c h) s) }

/-- VMADD as a convoy member. -/
def opVmadd (e : Bool) (d a b : Fin 32) (p : Fin 8) (q : Fin 4) : VOp := modOp (.vmadd e d a b p q) d a (some b) p q false (fun m x y _ => (x + y) % m)

/-- R205: VMADD. -/
def execVmadd (e : Bool) (d a b : Fin 32) (p : Fin 8) (q : Fin 4) (st : State) : Out := .next (vector (opVmadd e d a b p q) st)

/-- VMSUB as a convoy member. -/
def opVmsub (e : Bool) (d a b : Fin 32) (p : Fin 8) (q : Fin 4) : VOp := modOp (.vmsub e d a b p q) d a (some b) p q false (fun m x y _ => modQ ((x : Int) - y) m)

/-- R205: VMSUB. -/
def execVmsub (e : Bool) (d a b : Fin 32) (p : Fin 8) (q : Fin 4) (st : State) : Out := .next (vector (opVmsub e d a b p q) st)

/-- VMMUL as a convoy member. -/
def opVmmul (e : Bool) (d a b : Fin 32) (p : Fin 8) (q : Fin 4) : VOp := modOp (.vmmul e d a b p q) d a (some b) p q false (fun m x y _ => x * y % m)

/-- R205: VMMUL. -/
def execVmmul (e : Bool) (d a b : Fin 32) (p : Fin 8) (q : Fin 4) (st : State) : Out := .next (vector (opVmmul e d a b p q) st)

/-- VMMAC as a convoy member. -/
def opVmmac (e : Bool) (d a b : Fin 32) (p : Fin 8) (q : Fin 4) : VOp := modOp (.vmmac e d a b p q) d a (some b) p q true (fun m x y z => (z + x * y) % m)

/-- R205: VMMAC. -/
def execVmmac (e : Bool) (d a b : Fin 32) (p : Fin 8) (q : Fin 4) (st : State) : Out := .next (vector (opVmmac e d a b p q) st)

/-- VMNEG as a convoy member. -/
def opVmneg (e : Bool) (d a : Fin 32) (p : Fin 8) (q : Fin 4) : VOp := modOp (.vmneg e d a p q) d a none p q false (fun m x _ _ => modQ (-(x : Int)) m)

/-- R205: VMNEG. -/
def execVmneg (e : Bool) (d a : Fin 32) (p : Fin 8) (q : Fin 4) (st : State) : Out := .next (vector (opVmneg e d a p q) st)

/-- VMRED as a convoy member. -/
def opVmred (e : Bool) (d a : Fin 32) (p : Fin 8) (q : Fin 4) : VOp := modOp (.vmred e d a p q) d a none p q false (fun m x _ _ => x % m)

/-- R205: VMRED. -/
def execVmred (e : Bool) (d a : Fin 32) (p : Fin 8) (q : Fin 4) (st : State) : Out := .next (vector (opVmred e d a p q) st)

/-- R206: a butterfly: `f` and `g` give the results of Vd and Va from u, v and w. With one register for both, each
active element takes one of the two results, chosen by timing (DESIGN CHOICE, notes/assumptions/7.md). A lent copy that is
Va keeps Va's own result (DESIGN CHOICE, notes/assumptions/55.md). -/
def bflyOp (i : Instr) (d a b : Fin 32) (p : Fin 8) (q : Fin 4) (f g : Nat → Nat → Nat → Nat → Nat) : VOp :=
  { i := i, cls := .modular, pm := p, vsrc := [d, a, b], vdst := [d, a], check := needs32
    effect := fun c s =>
      let h := s.hart
      let m := modulus h q
      let act := active h p c.lend
      let fd : Nat → Nat := fun i => f m (elemAt h d 32 i) (elemAt h a 32 i) (elemAt h b 32 i)
      let fa : Nat → Nat := fun i => g m (elemAt h d 32 i) (elemAt h a 32 i) (elemAt h b 32 i)
      let s1 := writeElems d c.lend act 32 fd (elems c h) s
      let fa' : Nat → Nat := fun i => if d = a ∧ !(Config.timingElement s.tick i).getLsbD 0 then fd i else fa i
      quiet (writeElems a none act 32 fa' (elems c h) s1) }

/-- VBFLY as a convoy member. -/
def opVbfly (e : Bool) (d a b : Fin 32) (p : Fin 8) (q : Fin 4) : VOp :=
  bflyOp (.vbfly e d a b p q) d a b p q (fun m u v w => (u + w * v % m) % m) (fun m u v w => modQ ((u : Int) - (w * v % m : Nat)) m)

/-- R206: VBFLY. -/
def execVbfly (e : Bool) (d a b : Fin 32) (p : Fin 8) (q : Fin 4) (st : State) : Out := .next (vector (opVbfly e d a b p q) st)

/-- VIBFLY as a convoy member. -/
def opVibfly (e : Bool) (d a b : Fin 32) (p : Fin 8) (q : Fin 4) : VOp :=
  bflyOp (.vibfly e d a b p q) d a b p q (fun m u v _ => (u + v) % m) (fun m u v w => modQ (((u : Int) - v) * w) m)

/-- R206: VIBFLY. -/
def execVibfly (e : Bool) (d a b : Fin 32) (p : Fin 8) (q : Fin 4) (st : State) : Out := .next (vector (opVibfly e d a b p q) st)

/-- R207: N of a control word. -/
def ctlN (x : Word) : Nat := 2 ^ bitsOf x.toNat 19 16

/-- R81, R208: an element of a block rotated or permuted: `m` names the source position modulo 2N. -/
def blockElem (h : Hart) (a : Fin 32) (q : Fin 4) (n i m : Nat) : Nat :=
  let b := i / n
  if m < n then elemAt h a 32 (n * b + m) % modulus h q else modQ (-(elemAt h a 32 (n * b + m - n) : Int)) (modulus h q)

/-- R207 to R209: VNEGROT and VAUTO: `src` gives the source position of coefficient j. -/
def polyOp (i : Instr) (d a b : Fin 32) (p : Fin 8) (q : Fin 4) (src : Word → Nat → Nat) : VOp :=
  { i := i, cls := .modular, pm := p, vsrc := [a], xsrc := [b], vdst := [d], check := needs32
    readAt := fun c h _ j =>
      let n := ctlN (c.x b)
      (indices h.vstart (min (min c.lim h.vl) (n * (h.vl / n)))).find? fun i =>
        active h p c.lend i && n * (i / n) + src (c.x b) (i % n) % n == j
    effect := fun c s =>
      let h := s.hart
      let n := ctlN (c.x b)
      let nb := n * (h.vl / n)
      quiet (writeElems d c.lend (fun i => active h p c.lend i && decide (i < nb)) 32
        (fun i => timed s (d == a) i (blockElem h a q n i (src (c.x b) (i % n)))) (elems c h) s) }

/-- R208: the source of VNEGROT. -/
def rotSrc (x : Word) (j : Nat) : Nat := modQ ((j : Int) - (bitsOf x.toNat 13 0 : Nat)) (2 * ctlN x)

/-- R208: the source of VAUTO, through the inverse of g modulo 2N. -/
def autoSrc (x : Word) (j : Nat) : Nat :=
  let n := ctlN x
  let g := (bitsOf x.toNat 13 0 % (2 * n)) ||| 1
  powMod (2 * n) 16 g (n - 1) * j % (2 * n)

/-- VNEGROT as a convoy member. Its source is read as it stood before, where the lent copy is Va too
(DESIGN CHOICE, notes/assumptions/71.md). -/
def opVnegrot (e : Bool) (d a b : Fin 32) (p : Fin 8) (q : Fin 4) : VOp := polyOp (.vnegrot e d a b p q) d a b p q rotSrc

/-- R208: VNEGROT. -/
def execVnegrot (e : Bool) (d a b : Fin 32) (p : Fin 8) (q : Fin 4) (st : State) : Out := .next (vector (opVnegrot e d a b p q) st)

/-- VAUTO as a convoy member. Its source is read as it stood before, where the lent copy is Va too
(DESIGN CHOICE, notes/assumptions/71.md). -/
def opVauto (e : Bool) (d a b : Fin 32) (p : Fin 8) (q : Fin 4) : VOp := polyOp (.vauto e d a b p q) d a b p q autoSrc

/-- R208: VAUTO. -/
def execVauto (e : Bool) (d a b : Fin 32) (p : Fin 8) (q : Fin 4) (st : State) : Out := .next (vector (opVauto e d a b p q) st)

/-- R210, R211: an element-wise operation under a control word. -/
def ctlOp (i : Instr) (d a b : Fin 32) (p : Fin 8) (q : Fin 4) (f : Nat → Word → Nat → Nat) : VOp :=
  { i := i, cls := .modular, pm := p, vsrc := [a], xsrc := [b], vdst := [d], check := needs32
    effect := fun c s =>
      let h := s.hart
      let m := modulus h q
      quiet (writeElems d c.lend (active h p c.lend) 32 (fun i => f m (c.x b) (elemAt h a 32 i % m)) (elems c h) s) }

/-- R210: one gadget digit. -/
def decomp (m : Nat) (x : Word) (r : Nat) : Nat :=
  let beta := max 1 (min 16 (bitsOf x.toNat 4 0))
  let u := bitsOf x.toNat 10 8
  let ell := bitsOf x.toNat 14 12 + 1
  if u < ell then modQ ((digitsOf m r beta ell).getD u 0) m else 0

/-- R211: a residue rescaled to another modulus. -/
def mswitch (q : Nat) (x : Word) (r : Nat) : Nat :=
  let m := bitsOf x.toNat 31 0
  if m < 2 then 0 else (m * r + q / 2) / q % m

/-- VDECOMP as a convoy member. -/
def opVdecomp (e : Bool) (d a b : Fin 32) (p : Fin 8) (q : Fin 4) : VOp := ctlOp (.vdecomp e d a b p q) d a b p q decomp

/-- R210: VDECOMP. -/
def execVdecomp (e : Bool) (d a b : Fin 32) (p : Fin 8) (q : Fin 4) (st : State) : Out := .next (vector (opVdecomp e d a b p q) st)

/-- VMSWITCH as a convoy member. -/
def opVmswitch (e : Bool) (d a b : Fin 32) (p : Fin 8) (q : Fin 4) : VOp := ctlOp (.vmswitch e d a b p q) d a b p q mswitch

/-- R211: VMSWITCH. -/
def execVmswitch (e : Bool) (d a b : Fin 32) (p : Fin 8) (q : Fin 4) (st : State) : Out := .next (vector (opVmswitch e d a b p q) st)

end

end Sys2Proof.Machine
end

