-- ==== Sys2Proof/Machine/VectorAtomic.lean ====
section
/-!
DEFINITION. Vector atomics and VWAIT (11_isa_sync.md R257 to R261).
-/
namespace Sys2Proof.Machine

noncomputable section

/-- R257, R260, R387: W 0 and SEW 32 or 64. -/
def needsAtomic (s : State) : Option Nat :=
  if narrowW s.hart.vtype = 0 ∧ 2 ≤ bitsOf s.hart.vtype.toNat 1 0 then none else some 2

/-- R257: the address of an element. -/
def atomAddr (h : Hart) (base : Word) (b : Fin 32) (i : Nat) : Word :=
  base + BitVec.ofNat 64 (elemAt h b (elemW h.vtype) i)

/-- R257: the request of an element. -/
def atomReq (s : State) (k : AccKind) : Req := reqOf s k .vector .clears

/-- R415: every active element checked in ascending order; what each one reaches. -/
def checkElems (k : AccKind) (h : Hart) (base : Word) (b : Fin 32) : List Nat → State → Except Stop (List (Nat × Target) × State)
  | [], s => .ok ([], s)
  | i :: is, s =>
    let va := atomAddr h base b i
    if !aligned va (elemW h.vtype / 8) then .error (.trap { cause := 0x03, tval := va } i)
    else
      match reach { atomReq s k with bytes := elemW h.vtype / 8 } va s with
      | .error (.trap t _) => .error (.trap t i)
      | .error e => .error e
      | .ok (t, s') =>
        match checkElems k h base b is s' with
        | .error e => .error e
        | .ok (ts, s'') => .ok ((i, t) :: ts, s'')

/-- An element put into a list ordered by arrival key. -/
def insertKey (tick i : Nat) : List Nat → List Nat
  | [] => [i]
  | j :: js => if Config.arrivalKey tick i ≤ Config.arrivalKey tick j then i :: j :: js else j :: insertKey tick i js

/-- R135, R257, R258: the order in which the elements of a VAMO are performed: any, given by free keys
(DESIGN CHOICE, notes/assumptions/8.md), where two of them meet at an address; those on ATTR 2 pages ascending. -/
def arrivalOrder (tick : Nat) (ts : List (Nat × Target)) : List Nat :=
  if ts.any fun x => ts.any fun y => x.1 != y.1 && x.2.rd == y.2.rd then
    ((ts.filter (·.2.attr == 2)).map (·.1)) ++ ((ts.filter (·.2.attr != 2)).map (·.1)).foldl (fun l i => insertKey tick i l) []
  else ts.map (·.1)

/-- R257: the elements performed in an order. -/
def performElems (k : RmwKind) (d b : Fin 32) (base : Word) (l : Option Lend) (h : Hart) :
    List Nat → State → Except Stop State
  | [], s => .ok s
  | i :: is, s =>
    let w := elemW h.vtype
    match rmw (atomReq s .atomic) (atomAddr h base b i) { kind := k, n := w / 8, b := elemAt h d w i } s with
    | .error (.trap t _) => .error (.trap t i)
    | .error e => .error e
    | .ok (old, s') => performElems k d b base l h is (writeElems d l (fun _ => true) w (fun _ => old) [i] s')

/-- R257: VAMO, or VAMOO with its elements in ascending order (R258). With .RL every earlier access of the hart is
performed before its first element, at the first issue only (R259). -/
def amoOp (i : Instr) (ordered : Bool) (d a b : Fin 32) (p : Fin 8) (acq rel : Bool) (k : RmwKind) : VOp :=
  { i := i, pm := p, vsrc := [d, b], xsrc := [a], vdst := [d], holds := acq, check := needsAtomic
    effect := fun c s =>
      let h := s.hart
      let idx := (elems c h).filter (active h p c.lend)
      let first := rel && (indices h.vstart h.vl).any (active h p c.lend)
      if first && !h.releasedOnce && !released s then .error (.wait s) else
      match checkElems .atomic h (c.x a) b idx (s.onHart fun h => { h with releasedOnce := h.releasedOnce || first }) with
      | .error e => .error e
      | .ok (ts, s1) =>
        match performElems k d b (c.x a) c.lend h (if ordered then idx else arrivalOrder s.tick ts) s1 with
        | .error e => .error e
        | .ok s2 => quiet s2 }

/-- VAMOADD as a convoy member. -/
def opVamoadd (d a b : Fin 32) (p : Fin 8) (q l : Bool) (s : Fin 4) : VOp := amoOp (.vamoadd d a b p q l s) false d a b p q l .add

/-- R257: VAMOADD. -/
def execVamoadd (d a b : Fin 32) (p : Fin 8) (q l : Bool) (s : Fin 4) (st : State) : Out := .next (vector (opVamoadd d a b p q l s) st)

/-- VAMOAND as a convoy member. -/
def opVamoand (d a b : Fin 32) (p : Fin 8) (q l : Bool) (s : Fin 4) : VOp := amoOp (.vamoand d a b p q l s) false d a b p q l .and

/-- R257: VAMOAND. -/
def execVamoand (d a b : Fin 32) (p : Fin 8) (q l : Bool) (s : Fin 4) (st : State) : Out := .next (vector (opVamoand d a b p q l s) st)

/-- VAMOOR as a convoy member. -/
def opVamoor (d a b : Fin 32) (p : Fin 8) (q l : Bool) (s : Fin 4) : VOp := amoOp (.vamoor d a b p q l s) false d a b p q l .or

/-- R257: VAMOOR. -/
def execVamoor (d a b : Fin 32) (p : Fin 8) (q l : Bool) (s : Fin 4) (st : State) : Out := .next (vector (opVamoor d a b p q l s) st)

/-- VAMOXOR as a convoy member. -/
def opVamoxor (d a b : Fin 32) (p : Fin 8) (q l : Bool) (s : Fin 4) : VOp := amoOp (.vamoxor d a b p q l s) false d a b p q l .xor

/-- R257: VAMOXOR. -/
def execVamoxor (d a b : Fin 32) (p : Fin 8) (q l : Bool) (s : Fin 4) (st : State) : Out := .next (vector (opVamoxor d a b p q l s) st)

/-- VAMOMIN as a convoy member. -/
def opVamomin (d a b : Fin 32) (p : Fin 8) (q l : Bool) (s : Fin 4) : VOp := amoOp (.vamomin d a b p q l s) false d a b p q l .min

/-- R257: VAMOMIN. -/
def execVamomin (d a b : Fin 32) (p : Fin 8) (q l : Bool) (s : Fin 4) (st : State) : Out := .next (vector (opVamomin d a b p q l s) st)

/-- VAMOMAX as a convoy member. -/
def opVamomax (d a b : Fin 32) (p : Fin 8) (q l : Bool) (s : Fin 4) : VOp := amoOp (.vamomax d a b p q l s) false d a b p q l .max

/-- R257: VAMOMAX. -/
def execVamomax (d a b : Fin 32) (p : Fin 8) (q l : Bool) (s : Fin 4) (st : State) : Out := .next (vector (opVamomax d a b p q l s) st)

/-- VAMOMINU as a convoy member. -/
def opVamominu (d a b : Fin 32) (p : Fin 8) (q l : Bool) (s : Fin 4) : VOp := amoOp (.vamominu d a b p q l s) false d a b p q l .minu

/-- R257: VAMOMINU. -/
def execVamominu (d a b : Fin 32) (p : Fin 8) (q l : Bool) (s : Fin 4) (st : State) : Out := .next (vector (opVamominu d a b p q l s) st)

/-- VAMOSWAP as a convoy member. -/
def opVamoswap (d a b : Fin 32) (p : Fin 8) (q l : Bool) (s : Fin 4) : VOp := amoOp (.vamoswap d a b p q l s) false d a b p q l .swap

/-- R257: VAMOSWAP. -/
def execVamoswap (d a b : Fin 32) (p : Fin 8) (q l : Bool) (s : Fin 4) (st : State) : Out := .next (vector (opVamoswap d a b p q l s) st)

/-- VAMOOADD as a convoy member. -/
def opVamooadd (d a b : Fin 32) (p : Fin 8) (q l : Bool) (s : Fin 4) : VOp := amoOp (.vamooadd d a b p q l s) true d a b p q l .add

/-- R257, R258: VAMOOADD. -/
def execVamooadd (d a b : Fin 32) (p : Fin 8) (q l : Bool) (s : Fin 4) (st : State) : Out := .next (vector (opVamooadd d a b p q l s) st)

/-- VAMOOAND as a convoy member. -/
def opVamooand (d a b : Fin 32) (p : Fin 8) (q l : Bool) (s : Fin 4) : VOp := amoOp (.vamooand d a b p q l s) true d a b p q l .and

/-- R257, R258: VAMOOAND. -/
def execVamooand (d a b : Fin 32) (p : Fin 8) (q l : Bool) (s : Fin 4) (st : State) : Out := .next (vector (opVamooand d a b p q l s) st)

/-- VAMOOOR as a convoy member. -/
def opVamooor (d a b : Fin 32) (p : Fin 8) (q l : Bool) (s : Fin 4) : VOp := amoOp (.vamooor d a b p q l s) true d a b p q l .or

/-- R257, R258: VAMOOOR. -/
def execVamooor (d a b : Fin 32) (p : Fin 8) (q l : Bool) (s : Fin 4) (st : State) : Out := .next (vector (opVamooor d a b p q l s) st)

/-- VAMOOXOR as a convoy member. -/
def opVamooxor (d a b : Fin 32) (p : Fin 8) (q l : Bool) (s : Fin 4) : VOp := amoOp (.vamooxor d a b p q l s) true d a b p q l .xor

/-- R257, R258: VAMOOXOR. -/
def execVamooxor (d a b : Fin 32) (p : Fin 8) (q l : Bool) (s : Fin 4) (st : State) : Out := .next (vector (opVamooxor d a b p q l s) st)

/-- VAMOOMIN as a convoy member. -/
def opVamoomin (d a b : Fin 32) (p : Fin 8) (q l : Bool) (s : Fin 4) : VOp := amoOp (.vamoomin d a b p q l s) true d a b p q l .min

/-- R257, R258: VAMOOMIN. -/
def execVamoomin (d a b : Fin 32) (p : Fin 8) (q l : Bool) (s : Fin 4) (st : State) : Out := .next (vector (opVamoomin d a b p q l s) st)

/-- VAMOOMAX as a convoy member. -/
def opVamoomax (d a b : Fin 32) (p : Fin 8) (q l : Bool) (s : Fin 4) : VOp := amoOp (.vamoomax d a b p q l s) true d a b p q l .max

/-- R257, R258: VAMOOMAX. -/
def execVamoomax (d a b : Fin 32) (p : Fin 8) (q l : Bool) (s : Fin 4) (st : State) : Out := .next (vector (opVamoomax d a b p q l s) st)

/-- VAMOOMINU as a convoy member. -/
def opVamoominu (d a b : Fin 32) (p : Fin 8) (q l : Bool) (s : Fin 4) : VOp := amoOp (.vamoominu d a b p q l s) true d a b p q l .minu

/-- R257, R258: VAMOOMINU. -/
def execVamoominu (d a b : Fin 32) (p : Fin 8) (q l : Bool) (s : Fin 4) (st : State) : Out := .next (vector (opVamoominu d a b p q l s) st)

/-- VAMOOSWAP as a convoy member. -/
def opVamooswap (d a b : Fin 32) (p : Fin 8) (q l : Bool) (s : Fin 4) : VOp := amoOp (.vamooswap d a b p q l s) true d a b p q l .swap

/-- R257, R258: VAMOOSWAP. -/
def execVamooswap (d a b : Fin 32) (p : Fin 8) (q l : Bool) (s : Fin 4) (st : State) : Out := .next (vector (opVamooswap d a b p q l s) st)

/-! ### VWAIT (R260, R261) -/

/-- R260: the unsatisfied elements read in turn; those whose comparison holds are satisfied. -/
def waitElems (f : Nat → Nat → Nat → Bool) (d b : Fin 32) (base : Word) (h : Hart) : List Nat → State → Except Stop State
  | [], s => .ok s
  | i :: is, s =>
    let w := elemW h.vtype
    match load (atomReq s .wait) (atomAddr h base b i) (w / 8) (w / 8) s with
    | .error (.trap t _) => .error (.trap t i)
    | .error e => .error e
    | .ok (v, s') =>
      waitElems f d b base h is
        (if f w v (elemAt h d w i) then s'.onHart fun h => { h with satisfied := i :: h.satisfied } else s')

/-- R260, R261: VWAIT, whose elements run from 0 and whose interruption leaves VSTART at 0. Below an element that has
faulted it does not wait for the others (DEDUCED, notes/assumptions/44.md). -/
def waitOp (i : Instr) (d a b : Fin 32) (p : Fin 8) (f : Nat → Nat → Nat → Bool) : VOp :=
  { i := i, pm := p, vsrc := [d, b], xsrc := [a], cross := true, holds := true, check := needsAtomic
    effect := fun c s =>
      let h := s.hart
      let idx := (indices 0 (min c.lim h.vl)).filter fun i => active h p c.lend i && !h.satisfied.contains i
      match waitElems f d b (c.x a) h idx s with
      | .error e => .error e
      | .ok s' =>
        if decide (c.lim < h.vl) || idx.all s'.hart.satisfied.contains then quiet (s'.onHart fun h => { h with satisfied := [] })
        else .error (.wait s') }

/-- VWAITEQ as a convoy member. -/
def opVwaiteq (d a b : Fin 32) (p : Fin 8) (s : Fin 4) : VOp := waitOp (.vwaiteq d a b p s) d a b p (fun _ v x => v == x)

/-- R260: VWAITEQ. -/
def execVwaiteq (d a b : Fin 32) (p : Fin 8) (s : Fin 4) (st : State) : Out := .next (vector (opVwaiteq d a b p s) st)

/-- VWAITNE as a convoy member. -/
def opVwaitne (d a b : Fin 32) (p : Fin 8) (s : Fin 4) : VOp := waitOp (.vwaitne d a b p s) d a b p (fun _ v x => v != x)

/-- R260: VWAITNE. -/
def execVwaitne (d a b : Fin 32) (p : Fin 8) (s : Fin 4) (st : State) : Out := .next (vector (opVwaitne d a b p s) st)

/-- VWAITLT as a convoy member. -/
def opVwaitlt (d a b : Fin 32) (p : Fin 8) (s : Fin 4) : VOp := waitOp (.vwaitlt d a b p s) d a b p (fun w v x => decide (sextN w v < sextN w x))

/-- R260: VWAITLT. -/
def execVwaitlt (d a b : Fin 32) (p : Fin 8) (s : Fin 4) (st : State) : Out := .next (vector (opVwaitlt d a b p s) st)

/-- VWAITLTU as a convoy member. -/
def opVwaitltu (d a b : Fin 32) (p : Fin 8) (s : Fin 4) : VOp := waitOp (.vwaitltu d a b p s) d a b p (fun _ v x => decide (v < x))

/-- R260: VWAITLTU. -/
def execVwaitltu (d a b : Fin 32) (p : Fin 8) (s : Fin 4) (st : State) : Out := .next (vector (opVwaitltu d a b p s) st)

/-- VWAITGE as a convoy member. -/
def opVwaitge (d a b : Fin 32) (p : Fin 8) (s : Fin 4) : VOp := waitOp (.vwaitge d a b p s) d a b p (fun w v x => decide (sextN w x ≤ sextN w v))

/-- R260: VWAITGE. -/
def execVwaitge (d a b : Fin 32) (p : Fin 8) (s : Fin 4) (st : State) : Out := .next (vector (opVwaitge d a b p s) st)

/-- VWAITGEU as a convoy member. -/
def opVwaitgeu (d a b : Fin 32) (p : Fin 8) (s : Fin 4) : VOp := waitOp (.vwaitgeu d a b p s) d a b p (fun _ v x => decide (x ≤ v))

/-- R260: VWAITGEU. -/
def execVwaitgeu (d a b : Fin 32) (p : Fin 8) (s : Fin 4) (st : State) : Out := .next (vector (opVwaitgeu d a b p s) st)

end

end Sys2Proof.Machine
end

