-- ==== Sys2Proof/Machine/Engines.lean ====
section
/-!
DEFINITION. The copy engine (11_isa_sync.md R262 to R266, 23 R418), barriers (R267 to R270, 20 R390), stream registers
(R271 to R273), grotto allocation (R274, R275, 23 R425, R426) and REEF (R276).
-/
namespace Sys2Proof.Machine

noncomputable section

/-! ### Copies -/

/-- R262: a transfer accepted by the engine, to be performed in the background. -/
def acceptXfer (x : Xfer) (s : State) : State :=
  due [Instr.copyComplete s.hart.id s.hart.xferCount] (s.onHart fun h =>
    { h with xferCount := h.xferCount + 1, xfers := h.xfers ++ [{ x with id := h.xferCount }] })

/-- R262: a transfer of `rows` rows with the hart's privilege, tables and world. -/
def newXfer (s : State) (k : XferKind) (dst src : Word) (len rows : Nat) : Xfer :=
  { id := 0, kind := k, dst := dst, src := src, len := len, rows := rows, dstStride := 0, srcStride := 0, side := 0, dec := 0
    priv := s.hart.priv, ptbase := s.hart.ptbase, world := s.hart.world.val, landed := false }

/-- R262, R387, R389: a copy instruction: the limits of its length and the alignment of its signal or barrier address. -/
def copyOp (i : Instr) (xs : List (Fin 32)) (okLen : Ctx → Bool) (side : Ctx → Option (Word × Nat)) (x : Ctx → State → Xfer) :
    VOp :=
  { i := i, xsrc := xs, vector := false
    effect := fun c s =>
      if !okLen c then fail (illegal i 9 0)
      else if 32 ≤ entriesHeld s then .error (.wait s)
      else
        match side c with
        | some (a, al) => if aligned a al then quiet (acceptXfer (x c s) s) else fail { cause := 0x03, tval := a }
        | none => quiet (acceptXfer (x c s) s) }

/-- R262: a length in bits [43:0]. -/
def lenOk (b : Fin 32) (c : Ctx) : Bool := decide ((c.x b).toNat < 2 ^ 44)

/-- CPY in the vector queue. -/
def opCpy (d a b : Fin 32) : VOp :=
  copyOp (.cpy d a b) [d, a, b] (lenOk b) (fun _ => none) fun c s => newXfer s .cpy (c.x d) (c.x a) (c.x b).toNat 1

/-- R262: CPY. -/
def execCpy (d a b : Fin 32) (s : State) : Out := .next (vector (opCpy d a b) s)

/-- CPY2D in the vector queue. -/
def opCpy2d (d a b : Fin 32) : VOp :=
  copyOp (.cpy2d d a b) [d, a, b, d + 1, d + 2]
    (fun c => decide ((c.x b).toNat % 2 ^ 32 * ((c.x b).toNat / 2 ^ 32) < 2 ^ 44)) (fun _ => none) fun c s =>
      { newXfer s .cpy (c.x d) (c.x a) ((c.x b).toNat % 2 ^ 32) ((c.x b).toNat / 2 ^ 32) with
        dstStride := c.x (d + 1), srcStride := c.x (d + 2) }

/-- R262, R263: CPY2D. -/
def execCpy2d (d a b : Fin 32) (s : State) : Out := .next (vector (opCpy2d d a b) s)

/-- PUTS in the vector queue. -/
def opPuts (d a b : Fin 32) : VOp :=
  copyOp (.puts d a b) [d, a, b, d + 1, d + 2] (lenOk b) (fun c => some (c.x (d + 1), 8)) fun c s =>
    { newXfer s .puts (c.x d) (c.x a) (c.x b).toNat 1 with side := c.x (d + 1), dec := c.x (d + 2) }

/-- R266: PUTS. -/
def execPuts (d a b : Fin 32) (s : State) : Out := .next (vector (opPuts d a b) s)

/-- CPYB in the vector queue. -/
def opCpyb (d a b : Fin 32) : VOp :=
  copyOp (.cpyb d a b) [d, a, b, d + 1] (lenOk b) (fun c => some (c.x (d + 1), 64)) fun c s =>
    { newXfer s .cpyb (c.x d) (c.x a) (c.x b).toNat 1 with side := c.x (d + 1) }

/-- R265: CPYB. -/
def execCpyb (d a b : Fin 32) (s : State) : Out := .next (vector (opCpyb d a b) s)

/-! ### Performing a transfer (R263, R418) -/

/-- The engine's request for a transfer. -/
def xferReq (s : State) (x : Xfer) (k : AccKind) (whole : List (Nat × Nat)) : Req := { engineReq s x k with whole := whole }

/-- The source address of an offset (R263). -/
def xferSrc (x : Xfer) (k : Nat) : Word := x.src + BitVec.ofNat 64 (k / x.len) * x.srcStride + BitVec.ofNat 64 (k % x.len)

/-- The destination address of an offset. -/
def xferDst (x : Xfer) (k : Nat) : Word := x.dst + BitVec.ofNat 64 (k / x.len) * x.dstStride + BitVec.ofNat 64 (k % x.len)

/-- R419: the stretches of destination bytes, row by row, that a transfer writes when it stops at `lim`. -/
def rowSpans (x : Xfer) (lim : Nat) : List (Nat × Nat) :=
  (List.range x.rows).map fun row =>
    let base := (x.dst + BitVec.ofNat 64 row * x.dstStride).toNat
    (base, base + min x.len (lim - row * x.len))

/-- What the checks of a transfer find: all bytes, a fault with its offset and side, or a wait. -/
inductive Scan where
  | done (bytes : List Byte) (s : State)
  | fault (f : Nat) (dst : Bool) (t : Trap) (s : State)
  | wait (s : State)

/-- R263, R418: the source bytes read and the destination bytes checked, in ascending offset order. -/
def scanXfer (x : Xfer) (lim : Nat) : Nat → Nat → List Byte → State → Scan
  | 0, _, acc, s => .done acc.reverse s
  | n + 1, k, acc, s =>
    match load (xferReq s x .load []) (xferSrc x k) 1 1 s with
    | .error (.trap t _) => .fault k false t s
    | .error (.cut t _) => .fault k false t s
    | .error (.trim _) => .wait s
    | .error (.wait t) => .wait t
    | .ok (b, s1) =>
      match reach (xferReq s1 x .store (rowSpans x lim)) (xferDst x k) s1 with
      | .error (.trap t _) => .fault k true t s1
      | .error (.cut t _) => .fault k true t s1
      | .error (.trim _) => .wait s1
      | .error (.wait t) => .wait t
      | .ok (_, s2) => scanXfer x lim n (k + 1) (BitVec.ofNat 8 b :: acc) s2

/-- The bytes of a transfer landed below `lim`, each at its offset; of rows that overlap the last stays
(DESIGN CHOICE, notes/assumptions/67.md). -/
def landBytes (x : Xfer) (lim : Nat) : Nat → List Byte → State → State
  | _, [], s => s
  | k, b :: bs, s =>
    match store (xferReq s x .store (rowSpans x lim)) (xferDst x k) 1 1 b.toNat s with
    | .ok s' => landBytes x lim (k + 1) bs s'
    | .error _ => landBytes x lim (k + 1) bs s

/-- R418: a transfer as far as it gets: a transfer cut short writes its last block in part, which a failing block does
not accept (R419), so the checks are made again below the first fault. The result is the number of bytes landed and the
fault; none while an access waits. -/
def runXfer (x : Xfer) : Nat → Nat → Option (Nat × Bool × Trap) → State → Option (Nat × Option (Nat × Bool × Trap) × State) × State
  | 0, _, _, s => (none, s)
  | fuel + 1, lim, found, s =>
    match scanXfer x lim lim 0 [] s with
    | .done bs t => (some (lim, found, landBytes x lim 0 bs t), t)
    | .fault f d t _ => runXfer x fuel f (some (f, d, t)) s
    | .wait t => (none, t)

/-- A fault put among those held, oldest transfer first (R418). -/
def insertFault (n : Nat) (t : Trap) : List (Nat × Trap) → List (Nat × Trap)
  | [] => [(n, t)]
  | x :: xs => if x.1 ≤ n then x :: insertFault n t xs else (n, t) :: x :: xs

/-- R418: an engine fault of the transfer or stream at place `n`: it is held until it can be delivered. A replica that
failed on the way becomes stale at once (R421). -/
def holdFault (n : Nat) (t : Trap) (s : State) : State :=
  due [Instr.engineFault s.hart.id] ((failedAccess t s).onHart fun h =>
    { h with engFaults := insertFault n { t with vside := true, engine := true, stale := none, sent := none } h.engFaults })

/-- R418: the fault of transfer `n` at offset `f`, on the side of its destination or of its source. -/
def engineFail (n f : Nat) (dst : Bool) (t : Trap) (s : State) : State :=
  holdFault n { t with engflt := some (Word.ofNat (2 ^ 63 + (if dst then 2 ^ 62 else 0) + f % 2 ^ 44)) } s

/-- A transfer that is over. -/
def dropXfer (n : Nat) (s : State) : State := (forget (.engine n) s).onHart fun h => { h with xfers := h.xfers.filter (·.id != n) }

/-- A transfer whose bytes, `n` of them, have landed. -/
def setLanded (x : Xfer) (n : Nat) (s : State) : State :=
  (forget (.engine x.id) s).onHart fun h =>
    { h with xfers := h.xfers.map fun y => if y.id = x.id then { y with landed := true, len := n, rows := 1 } else y }

/-- R263, R418: COPY_COMPLETE: the transfer performed. -/
def copyAct (n : Nat) (s : State) : State :=
  match s.hart.xfers.find? fun x => x.id == n && !x.landed with
  | none => s
  | some x =>
    match runXfer x (x.rows + 4) (x.len * x.rows) none s with
    | (none, t) => later [Instr.copyComplete s.hart.id n] t
    | (some (k, found, t), _) =>
      let t1 := match x.kind with
        | .cpy => dropXfer n t
        | .puts => if found.isSome then dropXfer n t else due [Instr.putsSignal s.hart.id n] (setLanded x k t)
        | .cpyb => if k = 0 then dropXfer n t else due [Instr.cpybDeposit s.hart.id n] (setLanded x k t)
      match found with
      | some (f, d, tr) => engineFail n f d tr t1
      | none => t1

/-- R263: COPY_COMPLETE. -/
def execCopyComplete (h n : Nat) (s : State) : Out := .next (asHart h (copyAct n) s)

/-- R266: PUTS_SIGNAL. -/
def signalAct (n : Nat) (s : State) : State :=
  match s.hart.xfers.find? fun x => x.id == n && x.landed && x.kind == .puts with
  | none => s
  | some x =>
    match rmw (xferReq s x .atomic []) x.side { kind := .sub, n := 8, b := x.dec.toNat } s with
    | .ok (_, t) => dropXfer n t
    | .error (.trap t _) => engineFail n x.len true t (dropXfer n s)
    | .error (.cut t _) => engineFail n x.len true t (dropXfer n s)
    | .error (.trim _) => s
    | .error (.wait t) => later [Instr.putsSignal s.hart.id n] t

/-- R266: PUTS_SIGNAL. -/
def execPutsSignal (h n : Nat) (s : State) : Out := .next (asHart h (signalAct n) s)

/-- R418, R381: the oldest engine fault is delivered once the trap return of the one before has been made
(DEDUCED, notes/assumptions/22.md). -/
def engineFaultAct (s : State) : State :=
  match s.hart.engFaults with
  | [] => s
  | t :: ts =>
    if !engineDue s then s
    else takeImprecise t.2 [] (s.onHart fun h => { h with engFaults := ts })

/-- R418: ENGINE_FAULT. -/
def execEngineFault (h : Nat) (s : State) : Out := .next (asHart h engineFaultAct s)

/-! ### Barriers (R267 to R270) -/

/-- R267: a barrier object. -/
structure Barrier where
  expect : Nat
  pend : Nat
  bytes : Nat
  phase : Nat
  reserved : Nat
  deriving DecidableEq, Repr

/-- A barrier from its 64 bytes. -/
def Barrier.ofNat (x : Nat) : Barrier :=
  { expect := bitsOf x 31 0, pend := bitsOf x 63 32, bytes := bitsOf x 95 64, phase := bitsOf x 127 96, reserved := x / 2 ^ 128 }

/-- The 64 bytes of a barrier. -/
def Barrier.toNat (b : Barrier) : Nat :=
  b.expect % 2 ^ 32 + b.pend % 2 ^ 32 * 2 ^ 32 + b.bytes % 2 ^ 32 * 2 ^ 64 + b.phase % 2 ^ 32 * 2 ^ 96 + b.reserved * 2 ^ 128

/-- R269: the completion test, made when EXPECT was not 0 at the start. -/
def Barrier.test (expect0 : Nat) (b : Barrier) : Barrier :=
  if expect0 ≠ 0 ∧ b.pend = 0 ∧ b.bytes = 0 then { b with phase := (b.phase + 1) % 2 ^ 32, pend := b.expect } else b

/-- R268, R269: bytes added to BYTES. -/
def Barrier.addBytes (n : Nat) (b : Barrier) : Except Nat Barrier :=
  if b.reserved ≠ 0 then .error 4 else .ok (Barrier.test b.expect { b with bytes := (b.bytes + n) % 2 ^ 32 })

/-- R268, R269, R390: an arrival, with or without the drop of an expected one. -/
def Barrier.arrive (drop : Bool) (b : Barrier) : Except Nat Barrier :=
  if b.reserved ≠ 0 then .error 4
  else if b.pend = 0 then .error 1
  else if drop && b.expect == 0 then .error 2
  else .ok (Barrier.test b.expect { b with pend := b.pend - 1, expect := if drop then b.expect - 1 else b.expect })

/-- R268: the address of a barrier operand. -/
def barrierAddr (x : Word) : Word := x &&& ~~~63#64

/-- R390: cause 0x13. -/
def barrierTrap (x : Word) (reason : Nat) : Trap := { cause := 0x13, tval := barrierAddr x ||| Word.ofNat reason }

/-- R267: the barrier at an address: what it holds and where it lies. -/
def barrierAt (r : Req) (va : Word) (s : State) : Except Stop (Barrier × Target × State) :=
  match reach { r with bytes := 64 } va s with
  | .error e => .error e
  | .ok (t, s') =>
    .ok (Barrier.ofNat (readTarget t 64 s'), t, s')

/-- R267: one indivisible update of a barrier. -/
def barrierUpdate (r : Req) (x : Word) (f : Barrier → Except Nat Barrier) (s : State) : Except Stop State :=
  match barrierAt r (barrierAddr x) s with
  | .error e => .error e
  | .ok (b, t, s') =>
    match f b with
    | .error n => fail (barrierTrap x n)
    | .ok b' => .ok (writeTarget r t (barrierAddr x) (leBytes 64 b'.toNat) s')

/-- R268: scope bits of a barrier operand (DEDUCED, notes/assumptions/50.md). -/
def scopeBad (x : Word) : Bool := bitsOf x.toNat 5 3 != 0 || bitsOf x.toNat 2 0 == 7

/-- The hart's request for a barrier operation. -/
def barrierReq (s : State) (k : AccKind) : Req := reqOf s k .vector .neither

/-- R268: a barrier instruction that updates its barrier. `check` marks BARV and BARD, which carry a scope and release
first. -/
def barrierOp (i : Instr) (a : Fin 32) (xs : List (Fin 32)) (check : Bool) (f : Ctx → Barrier → Except Nat Barrier) : VOp :=
  { i := i, xsrc := a :: xs, vector := false, deleg := true
    effect := fun c s =>
      if check && scopeBad (c.x a) then fail (barrierTrap (c.x a) 3)
      else if check && !released s then .error (.wait s)
      else
        match barrierUpdate (barrierReq s .atomic) (c.x a) (f c) s with
        | .ok t => quiet t
        | .error e => .error e }

/-- BINIT in the vector queue. -/
def opBinit (a b : Fin 32) : VOp :=
  barrierOp (.binit a b) a [b] false fun c _ =>
    let n := (c.x b).toNat % 2 ^ 32
    .ok { expect := n, pend := n, bytes := 0, phase := 0, reserved := 0 }

/-- R268: BINIT. -/
def execBinit (a b : Fin 32) (s : State) : Out := .next (vector (opBinit a b) s)

/-- BARV in the vector queue. -/
def opBarv (a : Fin 32) : VOp := barrierOp (.barv a) a [] true fun _ => Barrier.arrive false

/-- R268: BARV. -/
def execBarv (a : Fin 32) (s : State) : Out := .next (vector (opBarv a) s)

/-- BARD in the vector queue. -/
def opBard (a : Fin 32) : VOp := barrierOp (.bard a) a [] true fun _ => Barrier.arrive true

/-- R268: BARD. -/
def execBard (a : Fin 32) (s : State) : Out := .next (vector (opBard a) s)

/-- BEXP in the vector queue. -/
def opBexp (a b : Fin 32) : VOp := barrierOp (.bexp a b) a [b] false fun c => Barrier.addBytes ((c.x b).toNat % 2 ^ 32)

/-- R268: BEXP. -/
def execBexp (a b : Fin 32) (s : State) : Out := .next (vector (opBexp a b) s)

/-- BWAIT in the vector queue: it waits while PHASE equals its operand. -/
def opBwait (a b : Fin 32) : VOp :=
  { i := .bwait a b, xsrc := [a, b], vector := false, deleg := true, holds := true
    effect := fun c s =>
      if scopeBad (c.x a) then fail (barrierTrap (c.x a) 3)
      else
        match barrierAt (barrierReq s .wait) (barrierAddr (c.x a)) s with
        | .error e => .error e
        | .ok (b', _, s') =>
          if b'.reserved ≠ 0 then fail (barrierTrap (c.x a) 4)
          else if b'.phase = (c.x b).toNat % 2 ^ 32 then .error (.wait s') else quiet s' }

/-- R268, R270: BWAIT. -/
def execBwait (a b : Fin 32) (s : State) : Out := .next (vector (opBwait a b) s)

/-- BTEST in the vector queue. -/
def opBtest (d a : Fin 32) : VOp :=
  { i := .btest d a, xsrc := [a], xdst := [d], vector := false, deleg := true
    effect := fun c s =>
      match barrierAt (barrierReq s .wait) (barrierAddr (c.x a)) s with
      | .error e => .error e
      | .ok (b, _, s') =>
        if b.reserved ≠ 0 then fail (barrierTrap (c.x a) 4) else .ok (s', [Word.ofNat (b.phase + b.pend * 2 ^ 32)]) }

/-- R268: BTEST. -/
def execBtest (d a : Fin 32) (s : State) : Out := .next (vector (opBtest d a) s)

/-- R265, R390: CPYB_DEPOSIT: the landed bytes taken from the barrier's BYTES; a refused deposit is reported with
ENGINE. The whole copy lands, and is deposited, as one piece (DESIGN CHOICE, notes/assumptions/60.md). -/
def depositAct (n : Nat) (s : State) : State :=
  match s.hart.xfers.find? fun x => x.id == n && x.landed && x.kind == .cpyb with
  | none => s
  | some x =>
    match barrierUpdate (xferReq s x .atomic []) x.side (Barrier.addBytes (2 ^ 32 - x.len % 2 ^ 32)) s with
    | .ok t => dropXfer n t
    | .error (.trap t _) => engineFail n x.len true t (dropXfer n s)
    | .error (.cut t _) => engineFail n x.len true t (dropXfer n s)
    | .error (.trim _) => s
    | .error (.wait t) => later [Instr.cpybDeposit s.hart.id n] t

/-- R265: CPYB_DEPOSIT. -/
def execCpybDeposit (h n : Nat) (s : State) : Out := .next (asHart h (depositAct n) s)

/-! ### Fabric stream registers (R271 to R273) -/

/-- R90, R271: a binding ends. -/
def unbind (v : Fin 32) (s : State) : State := s.onHart fun h => { h with binds := h.binds.filter (·.v != v) }

/-- R271: a descriptor read at SBIND, whatever its STRIP and its reserved bytes; the width code counts modulo 4
(DESIGN CHOICE, notes/assumptions/68.md). -/
def bindingOf (v : Fin 32) (bs : List Byte) : Binding :=
  { v := v, base := Word.ofNat (fieldAt bs 0 8), estride := Word.ofNat (fieldAt bs 8 8), count := fieldAt bs 0x10 8
    strip := fieldAt bs 0x18 4, sewc := fieldAt bs 0x1C 1 % 4, pos := 0, fetched := [] }

/-- SBIND in the vector queue. -/
def opSbind (d a : Fin 32) : VOp :=
  { i := .sbind d a, vdst := [d], xsrc := [a], vector := false
    effect := fun c s =>
      let va := c.x a
      if !aligned va 64 then fail { cause := 0x03, tval := va }
      else if 4 ≤ (s.hart.binds.filter (·.v != d)).length then fail (illegal (.sbind d a) 5 0)
      else
        match loadBytes (reqOf s .load .vector .neither) va 64 s with
        | .error e => .error e
        | .ok (bs, s1) =>
          let s2 := (unbind d s1).onHart fun h => (payloadRegs [d]).foldl (fun h k => clearKind k h) h
          quiet (fetchSoon d (s2.onHart fun h => { h with binds := h.binds ++ [bindingOf d bs] })) }

/-- R271: SBIND. -/
def execSbind (d a : Fin 32) (s : State) : Out := .next (vector (opSbind d a) s)

/-- SUNBIND in the vector queue. -/
def opSunbind (d : Fin 32) : VOp :=
  { i := .sunbind d, vector := false, effect := fun _ s => quiet (unbind d s) }

/-- R271: SUNBIND. -/
def execSunbind (d : Fin 32) (s : State) : Out := .next (vector (opSunbind d) s)

/-- R272: the elements of the strip that begins at element `first`, read from index `i` on. -/
def fetchStrip (b : Binding) (first : Nat) : List Nat → State → Except Stop (List Nat × State)
  | [], s => .ok ([], s)
  | i :: is, s =>
    let n := 2 ^ b.sewc
    match (if b.count = 0 ∨ first + i < b.count then
        load (reqOf s .load .vector .neither) (b.base + BitVec.ofNat 64 (first + i) * b.estride) n n s
      else .ok (0, s)) with
    | .error e => .error e
    | .ok (x, s1) =>
      match fetchStrip b first is s1 with
      | .error e => .error e
      | .ok (xs, s2) => .ok (x :: xs, s2)

/-- R273: a strip ahead of pos is fetched; up to 8 of them. A strip is kept as the element values its accesses gave, and
one that meets a fault is not kept. While a context is held nothing is fetched: the strips are fetched again on its
resumption. -/
def fetchAct (v : Fin 32) (s : State) : State :=
  match s.hart.binds.find? (·.v == v) with
  | none => s
  | some b =>
    if s.hart.held.isSome || decide (8 ≤ b.fetched.length) then s else
    match fetchStrip b (b.pos + b.strip * b.fetched.length) (List.range b.strip) s with
    | .ok (strip, t) =>
      fetchSoon v (t.onHart fun h => { h with binds := h.binds.map fun c =>
        if c.v = v then { c with fetched := c.fetched ++ [strip] } else c })
    | .error (.wait t) => later [Instr.streamRegisterFetch s.hart.id v] (keepWait s t)
    | .error _ => s

/-- R273: STREAM_REGISTER_FETCH. -/
def execStreamRegisterFetch (h : Nat) (v : Fin 32) (s : State) : Out := .next (asHart h (fetchAct v) s)

/-! ### Grotto allocation (R274, R275) -/

/-- R128: 64 KiB units in a pod (R19, R20). -/
def podUnits : Nat := 2 ^ 25

/-- A unit of a pod is in use. -/
def unitTaken (s : State) (pod n : Nat) : Bool := s.dev.units.any fun u => u.pod == pod && u.num == n

/-- R302: QUOTA of a partition for a pod, in units. -/
def quotaOf (s : State) (part pod : Nat) : Nat := peek (partKey s part (0x40 + 4 * pod)) 4 s

/-- R128, R372: the units that this device allocated for a partition in a pod, for which it is charged. -/
def chargedUnits (s : State) (part pod : Nat) : Nat :=
  (s.dev.units.filter fun u => u.pod == pod && u.dev == s.dev.devid && u.part == some part).length

/-- The first of `n` free units in a row, from `lo` on; the search ends past the highest unit in use
(DESIGN CHOICE, notes/assumptions/15.md). -/
def freeRun (s : State) (pod n lo : Nat) : Option Nat :=
  let top := s.dev.units.foldl (fun m u => if u.pod = pod then max m (u.num + 1) else m) lo
  ((indices lo (top + 1)).find? fun a => s.dev.units.all fun u => u.pod != pod || decide (u.num < a) || decide (a + n ≤ u.num)).filter
    fun a => decide (a + n ≤ podUnits)

/-- R129: the lowest free units of a pod that can be the shadows of the `n` units from `at'` on
(DESIGN CHOICE, notes/assumptions/15.md). -/
def shadowUnits (s : State) (pod n at' : Nat) : List Nat :=
  let top := s.dev.units.foldl (fun m u => if u.pod = pod then max m (u.num + 1) else m) (at' + n)
  ((List.range (min podUnits (top + n))).filter fun k => !unitTaken s pod k && !(within k at' n)).take n

/-- R129, R128: the units of an allocation, with the shadow of each when it is mirrored. -/
def newUnits (pod dev part n at' : Nat) (shadows : List Nat) (openat : Bool) : List GrottoUnit :=
  ((List.range n).map fun k =>
    { pod := pod, num := at' + k, dev := dev, part := some part, shadow := shadows[k]?, isShadow := false, openat := openat, lost := false })
  ++ shadows.map fun sh =>
    { pod := pod, num := sh, dev := dev, part := some part, shadow := none, isShadow := true, openat := openat, lost := false }

/-- R128, R426: every byte of a unit made zero, as bytes and as encrypted lines (R346). -/
def zeroUnit (pod u : Nat) (s : State) : State :=
  let lo := gaOf (3840 + pod) (u * 65536)
  (clearMem lo (lo + 65536) s).onDev fun d => { d with sideband := d.sideband.filter fun l => !(within l.line (lo / 256) 256) }

/-- R128, R129: `n` units of a pod allocated for a partition by an accelerator, at the lowest free run, each reading as zero;
none where no run or too few shadows are free (DESIGN CHOICE, notes/assumptions/15.md). -/
def allocUnits (dev part pod n : Nat) (mirror openat : Bool) (s : State) : Option (Nat × State) :=
  match freeRun s pod n 0 with
  | none => none
  | some u =>
    let shadows := if mirror then shadowUnits s pod n u else []
    if mirror && decide (shadows.length < n) then none
    else
      some (u, ((List.range n).map (u + ·) ++ shadows).foldl (fun t k => zeroUnit pod k t)
        (s.onDev fun d => { d with units := d.units ++ newUnits pod dev part n u shadows openat }))

/-- R347: the report of a leaf switch is signed by its identity. -/
def leafVerifies (pod p : Nat) : Bool :=
  Config.sm2Verify (Config.leafPublic pod p) (Config.sm3 (Config.leafMeasurement pod p)) (Config.leafSignature pod p)

/-- R130, R347: whether the hart's world grants open-atomics in a pod. -/
def openGranted (s : State) (pod : Nat) : Bool :=
  s.hart.world == 0 || (ctxOfWorld s s.hart.world.val).any fun c =>
    (List.range 64).all fun p => c.leaves.contains (Config.leafMeasurement pod p) && leafVerifies pod p

/-- R425: cause 0x10. -/
def quotaTrap (n reason : Nat) : Trap := { cause := 0x10, tval := Word.ofNat (n % 2 ^ 48 + reason * 2 ^ 56) }

/-- R274, R128, R425: the units allocated, and the aperture address of the first replied. -/
def gallocEffect (a b : Fin 32) (c : Ctx) (s : State) : Except Stop (State × List Word) :=
  let x := (c.x b).toNat
  let n := ceilDiv (c.x a).toNat 65536
  let pod := x % 4
  let mirror := bitAt x 8
  let openat := bitAt x 9
  if bitsOf x 63 10 ≠ 0 ∨ bitsOf x 7 2 ≠ 0 ∨ s.dev.pods ≤ pod ∨ (openat && !openGranted s pod) then fail (quotaTrap n 3)
  else if n = 0 then .ok (s, [0])
  else if quotaOf s s.hart.part pod < chargedUnits s s.hart.part pod + (if mirror then 2 * n else n) then fail (quotaTrap n 1)
  else
    match allocUnits s.dev.devid s.hart.part pod n mirror openat s with
    | none => fail (quotaTrap n 2)
    | some (u, t) => .ok (t, [Word.ofNat (0x00F0000000000000 + pod * 2 ^ 41 + u * 65536)])

/-- GALLOC in the vector queue. -/
def opGalloc (d a b : Fin 32) : VOp :=
  { i := .galloc d a b, xsrc := [a, b], xdst := [d], vector := false, effect := gallocEffect a b }

/-- R274: GALLOC. -/
def execGalloc (d a b : Fin 32) (s : State) : Out := .next (vector (opGalloc d a b) s)

/-- R275, R372, R426: the units of a partition among `n` from the unit `first` of the aperture on lose their owner, with their
shadows, and are to be zeroed. -/
def freeUnits (part first n : Nat) (s : State) : State :=
  let freed := s.dev.units.filter fun u => !u.isShadow && u.part == some part && within (u.pod * podUnits + u.num) first n
  let goes : GrottoUnit → Bool := fun u => freed.any fun f => f.pod == u.pod && (f.num == u.num || f.shadow == some u.num)
  due ((s.dev.units.filter goes).map fun u => Instr.grottoUnitZero (Fin.ofNat 4 u.pod) u.num)
    (s.onDev fun d => { d with units := d.units.map fun u => if goes u then { u with part := none } else u })

/-- GFREE in the vector queue. -/
def opGfree (a b : Fin 32) : VOp :=
  { i := .gfree a b, xsrc := [a, b], vector := false
    effect := fun c s =>
      let base := c.x a
      let n := ceilDiv (c.x b).toNat 65536
      if !aligned base 65536 then fail { cause := 0x03, tval := base }
      else if n ≠ 0 ∧ !(inAperture base.toNat && inAperture (base.toNat + n * 65536 - 1)) then fail { cause := 0x07, tval := base }
      else if !(s.hart.xfers.isEmpty && (runningSlots s.hart).isEmpty) then .error (.wait s)
      else
        quiet (freeUnits s.hart.part ((base.toNat - 0x00F0000000000000) / 65536) n s) }

/-- R275, R426: GFREE. -/
def execGfree (a b : Fin 32) (s : State) : Out := .next (vector (opGfree a b) s)

/-- REEF in the vector queue. Where bits [63:12] of its operand are not 0 it changes nothing (R2) (DESIGN CHOICE,
notes/assumptions/20.md). -/
def opReef (a : Fin 32) : VOp :=
  { i := .reef a, xsrc := [a], vector := false
    effect := fun c s =>
      let v := (c.x a).toNat
      if 4096 ≤ v then quiet s else
      let s1 := limitChanged (onClock (fun k => { k with reef := if v = 0 then 0 else clampMhz v }) s)
      let k := s1.die.clock
      quiet (if k.gid ≠ 0 ∧ k.freq < ownLimit k then propose (memberNum s1 s1.die.id) s1 else s1) }

/-- R276, R388: REEF. -/
def execReef (a : Fin 32) (s : State) : Out := .next (privileged (.reef a) (vector (opReef a)) s)

end

end Sys2Proof.Machine
end

