-- ==== Sys2Proof/Machine/Matrix.lean ====
section
/-!
DEFINITION. The matrix unit (10_isa_matrix.md R237 to R250, 03_numbers.md R76, R77, R83): the claim, tiles, ports,
outer products, drains, fills and the tile save area.
-/
namespace Sys2Proof.Machine

noncomputable section

/-! ### Configuration (R238) -/

/-- R238: MODE. -/
def mMode (m : Matrix) : Nat := bitsOf m.cfg.toNat 19 18
/-- R238: WA. -/
def mWa (m : Matrix) : Nat := bitsOf m.cfg.toNat 12 8
/-- R238: WB. -/
def mWb (m : Matrix) : Nat := bitsOf m.cfg.toNat 17 13
/-- R238: SA. -/
def mSa (m : Matrix) : Bool := m.cfg.getLsbD 20
/-- R238: SB. -/
def mSb (m : Matrix) : Bool := m.cfg.getLsbD 21
/-- R238: QSEL. -/
def mQsel (m : Matrix) : Fin 4 := Fin.ofNat 4 (bitsOf m.cfg.toNat 23 22)
/-- R238: SCA. -/
def mSca (m : Matrix) : Fin 32 := Fin.ofNat 32 (bitsOf m.cfg.toNat 28 24)
/-- R238: SCB. -/
def mScb (m : Matrix) : Fin 32 := Fin.ofNat 32 (bitsOf m.cfg.toNat 33 29)

/-- R238: a configuration word that MMODE accepts. -/
def mmodeOk (x : Nat) : Bool :=
  let wa := bitsOf x 12 8
  let wb := bitsOf x 17 13
  let mode := bitsOf x 19 18
  let mvl := bitsOf x 7 0
  bitsOf x 63 34 == 0 && within wa 1 16 && (within wb 1 16 || (wb == 31 && mode == 1)) && mode != 3 && within mvl 1 128

/-! ### Tiles (R77) -/

/-- A tile of the unit. -/
def Matrix.tile (m : Matrix) (t : Fin 2) : Tile := if t = 0 then m.tile0 else m.tile1

/-- A tile replaced. -/
def Matrix.setTile (m : Matrix) (t : Fin 2) (x : Tile) : Matrix := if t = 0 then { m with tile0 := x } else { m with tile1 := x }

/-- The matrix unit of the core changed. -/
def onMatrix (f : Matrix → Matrix) (s : State) : State := s.onCore fun c => { c with matrix := f c.matrix }

/-- A tile of the core changed. -/
def onTile (t : Fin 2) (f : Tile → Tile) (s : State) : State := onMatrix (fun m => m.setTile t (f (m.tile t))) s

/-- Cell (i, j). -/
def Tile.cell (t : Tile) (i j : Nat) : Nat := getField t.cells 32 (128 * i + j)

/-- The exact partial sum of cell (i, j). -/
def Tile.sum (t : Tile) (i j : Nat) : Int := sextN 64 (getField t.part 64 (128 * i + j))

/-- A 32-bit or 64-bit field of every cell with row and column below `n` recomputed. -/
def mapCells (w n : Nat) (f : Nat → Nat → Nat) (img : Nat) : Nat :=
  (List.range n).foldl (fun img i => (List.range n).foldl (fun img j => setField img w (128 * i + j) (f i j)) img) img

/-- R397: cause 0x09 for row `i` of tile `t`. -/
def tileTrap (t : Fin 2) (i : Nat) : Trap :=
  { cause := 0x09, tval := Word.ofNat (2 ^ 63 + 2 * 2 ^ 60 + i * 2 ^ 16 + t.val * 2 ^ 8) }

/-- R397: cause 0x09 for the first failing word of register `v` below `n` words. -/
def wordsTrap (h : Hart) (v : Fin 32) (n : Nat) : Option Trap :=
  (lowest (h.vbad.filterMap fun b =>
    if b.1 = v ∧ b.2 < n then some ({ cause := 0x09, tval := wordCode h 0 v.val b.2 }, b.2) else none)).map (·.1)

/-! ### The claim (R237, R240) -/

/-- R240: a new configuration on a claimed unit: the tiles lose what a change of MODE, or entering block-scaled mode,
discards (DEDUCED, notes/assumptions/32.md). -/
def reconfigure (x : Word) (m : Matrix) : Matrix :=
  let m' := { m with cfg := masked 0x3FFFFFF00 0 x, mvl := bitsOf x.toNat 7 0 }
  if mMode m' ≠ mMode m then { m' with tile0 := { bad := m.tile0.bad }, tile1 := { bad := m.tile1.bad } }
  else if mMode m' = 2 then
    { m' with tile0 := { m.tile0 with part := 0, pos := 0 }, tile1 := { m.tile1 with part := 0, pos := 0 } }
  else m'

/-- MMODE in the vector queue. -/
def opMmode (a : Fin 32) : VOp :=
  { i := .mmode a, xsrc := [a], vector := false
    effect := fun c s =>
      let x := c.x a
      if x = 0 then quiet (releaseClaim s)
      else if !mmodeOk x.toNat then fail (illegal (.mmode a) 4 0)
      else if claims s then quiet (onMatrix (reconfigure x) s)
      else
        let s1 := s.onHart fun h => { h with claimWait := true }
        if s.core.matrix.owner.isSome || claimNext s1 != some s.hart.id then .error (.wait s1)
        else
          quiet ((s.onHart fun h => { h with claimWait := false }).onCore fun k =>
            { k with matrix := { owner := some s.hart.id, cfg := masked 0x3FFFFFF00 0 x, mvl := bitsOf x.toNat 7 0 } }) }

/-- R237, R238, R240: MMODE. -/
def execMmode (a : Fin 32) (s : State) : Out := .next (vector (opMmode a) s)

/-- R245, R387: the matrix claim is needed. -/
def needsClaim (s : State) : Option Nat := if claims s then none else some 3

/-- MZERO in the vector queue. -/
def opMzero (t : Fin 2) : VOp :=
  { i := .mzero t, vector := false, check := needsClaim, effect := fun _ s => quiet (onTile t (fun _ => {}) s) }

/-- R245: MZERO. -/
def execMzero (t : Fin 2) (s : State) : Out := .next (vector (opMzero t) s)

/-! ### Ports (R246, R247) -/

/-- R246: a port changed. -/
def onPort (p : Fin 8) (f : Port → Port) (s : State) : State := onMatrix (fun m => { m with ports := m.ports.set p (f m.ports[p]) }) s

/-- R247: the strips of a port before its position wraps. -/
def Port.strips (p : Port) : Nat := p.counts.foldl (· * ·) 1

/-- R247: the displacement of a position over the dimensions. -/
def portDisp : Nat → List Nat → List Word → Word
  | s, c :: cs, t :: ts => BitVec.ofNat 64 (s % c) * t + portDisp (s / c) cs ts
  | _, _, _ => 0

/-- R247: the address of the strip at a position. -/
def Port.addr (p : Port) (pos : Nat) : Word := p.base + portDisp pos p.counts p.strides

/-- R242: the bytes of a strip of `n` elements. -/
def stripBytes (n w : Nat) : Nat := if w = 31 then 4 * n else ceilDiv (n * w) 8

/-- R247: the bytes of a strip, which must lie in the scratchpad of the window. -/
def portBytes (r : Req) (va : Word) : Nat → State → Except Stop (List Byte × State)
  | 0, s => .ok ([], s)
  | n + 1, s =>
    match portBytes r va n s with
    | .error e => .error e
    | .ok (bs, s1) =>
      let a := va + BitVec.ofNat 64 n
      if canonical a.toNat && !(inWindow a.toNat && decide (a.toNat % 2 ^ 32 < 0x100000)) then deny 0x07 a
      else
        match load r a 1 1 s1 with
        | .error e => .error e
        | .ok (b, s2) => .ok (bs ++ [BitVec.ofNat 8 b], s2)

/-- PCFG.BASE in the vector queue. -/
def opPcfgBase (p : Fin 8) (a : Fin 32) : VOp :=
  { i := .pcfgBase p a, xsrc := [a], vector := false, check := needsClaim
    effect := fun c s => quiet (onPort p (fun _ => { base := c.x a }) s) }

/-- R246: PCFG.BASE. -/
def execPcfgBase (p : Fin 8) (a : Fin 32) (s : State) : Out := .next (vector (opPcfgBase p a) s)

/-- PCFG.DIM in the vector queue. -/
def opPcfgDim (p : Fin 8) (a b : Fin 32) : VOp :=
  { i := .pcfgDim p a b, xsrc := [a, b], vector := false, check := needsClaim
    effect := fun c s =>
      let d := bitsOf (c.x a).toNat 1 0
      let n := max 1 (bitsOf (c.x a).toNat 47 32)
      let st := Word.ofInt (sextN 32 (c.x b).toNat)
      quiet (onPort p (fun q => { q with counts := q.counts.set d n, strides := q.strides.set d st, pos := 0 }) s) }

/-- R246: PCFG.DIM. -/
def execPcfgDim (p : Fin 8) (a b : Fin 32) (s : State) : Out := .next (vector (opPcfgDim p a b) s)

/-- PCLR in the vector queue. -/
def opPclr (p : Fin 8) : VOp :=
  { i := .pclr p, vector := false, check := needsClaim, effect := fun _ s => quiet (onPort p (fun _ => {}) s) }

/-- R246: PCLR. -/
def execPclr (p : Fin 8) (s : State) : Out := .next (vector (opPclr p) s)

/-! ### Outer products (R242 to R244) -/

/-- R242: an operand of a MOPA: a V register or a port. -/
inductive MSrc where
  | v (r : Fin 32)
  | p (r : Fin 8)
  deriving DecidableEq, Repr

/-- R150: the operand that a K bit and a field name. -/
def MSrc.of (k : Bool) (f : Fin 32) : MSrc := if k then .p (Fin.ofNat 8 f.val) else .v f

/-- A MOPA: its tile, operands, steps, latched side and sign. -/
structure Mopa where
  i : Instr
  t : Fin 2
  a : MSrc
  b : MSrc
  n : Nat
  lb : Bool
  neg : Bool
  deriving DecidableEq, Repr

/-- R242: element `i` of a vector of width `w` in a bit stream. -/
def streamElem (w img i : Nat) : Nat := if w = 31 then getField img 32 i % 2 ^ 31 else getField img w i

/-- R242: an operand read as a bit stream: a register, or the strip of a port at a position. -/
def readSrc (w : Nat) (o : MSrc) (pos : Nat) (s : State) : Except Stop (Nat × State) :=
  let m := s.core.matrix
  match o with
  | .v r =>
    match wordsTrap s.hart r (ceilDiv (stripBytes m.mvl w) 4) with
    | some t => fail t
    | none => .ok (s.hart.v[r], s)
  | .p q =>
    match portBytes (reqOf s .load .port .neither) (m.ports[q].addr pos) (stripBytes m.mvl w) s with
    | .error e => .error e
    | .ok (bs, s') => .ok (leNat bs, s')

/-- The position at which a port stands; registers have none. -/
def srcPos (o : MSrc) (s : State) : Nat :=
  match o with
  | .v _ => 0
  | .p q => (s.core.matrix.ports[q]).pos

/-- R247: a port moved to a position, which wraps after its last strip. -/
def moveSrc (o : MSrc) (pos : Nat) (s : State) : State :=
  match o with
  | .v _ => s
  | .p q => onPort q (fun p => { p with pos := pos % p.strips }) s

/-- R242, R76, R83: an element of a as an integer. The signedness is that of SA and SB, as R76 and R242 have it, where R72
names VTYPE.NSGN (DESIGN CHOICE, notes/assumptions/61.md). -/
def aElem (m : Matrix) (img i : Nat) : Int :=
  let x := streamElem (mWa m) img i
  if mMode m = 1 ∨ mSa m then sextN (mWa m) x else x

/-- R242, R76, R83: an element of b as an integer; its signedness as that of a. -/
def bElem (m : Matrix) (img i : Nat) : Int :=
  let x := streamElem (mWb m) img i
  if mMode m ≠ 1 ∧ mSb m then sextN (mWb m) x else x

/-- R76: a K-block closed in one cell. -/
def closeCell (acc : F32) (sum : Int) (ea eb : Nat) : F32 :=
  let f := roundI false sum 0
  let g := if ea = 0xFF ∨ eb = 0xFF then F32.nan else fscale f ((ea : Int) + eb - 254)
  fadd acc g

/-- R76, R77, R243: the block of a tile closed, for every cell below MVL and for every other one that holds a sum of the
block, which a step under a higher MVL has left; the others are unchanged (DESIGN CHOICE, notes/assumptions/61.md). -/
def closeBlock (n : Nat) (t : Tile) : Tile :=
  let near : Nat → Nat → Bool := fun i j => decide (i < n) && decide (j < n)
  let span := if mapCells 64 n (fun _ _ => 0) t.part = 0 then n else 128
  { t with
    cells := mapCells 32 span (fun i j =>
      if near i j || t.sum i j != 0 then
        (closeCell (BitVec.ofNat 32 (t.cell i j)) (t.sum i j) (getField t.ea 8 i) (getField t.eb 8 j)).toNat
      else t.cell i j) t.cells
    part := 0, pos := 0 }

/-- R243: one step of a MOPA on a tile, `sca` and `scb` being the registers of scale codes. -/
def stepTile (m : Matrix) (q sca scb : Nat) (neg : Bool) (a b : Nat) (t : Tile) : Tile :=
  let prod : Nat → Nat → Int := fun i j => if neg then -(aElem m a i * bElem m b j) else aElem m a i * bElem m b j
  if mMode m = 0 then
    { t with cells := mapCells 32 m.mvl (fun i j => wrapN 32 ((t.cell i j : Int) + prod i j)) t.cells }
  else if mMode m = 1 then
    { t with cells := mapCells 32 m.mvl (fun i j => modQ ((t.cell i j : Int) + prod i j) q) t.cells }
  else
    let t := { t with part := mapCells 64 m.mvl (fun i j => wrapN 64 (t.sum i j + prod i j)) t.part }
    let t := if t.pos = 0 then { t with ea := sca % 2 ^ 1024, eb := scb % 2 ^ 1024 } else t
    let t := { t with pos := t.pos + 1 }
    if t.pos = 32 then closeBlock m.mvl t else t

/-- R243: MSTART set. -/
def setMstart (n : Nat) (s : State) : State := s.onHart fun h => { h with mstart := n }

/-- R242, R76: the scale-code registers of a step that opens a block, checked as sources. -/
def scaleTrap (s : State) (t : Tile) : Option Trap :=
  let m := s.core.matrix
  if mMode m = 2 ∧ t.pos = 0 then (wordsTrap s.hart (mSca m) 32).or (wordsTrap s.hart (mScb m) 32) else none

/-- The first failing row of a tile below MVL. -/
def badRow (m : Matrix) (t : Fin 2) : Option Nat := (m.tile t).bad.find? fun i => decide (i < m.mvl)

/-- R243, R244: the steps from MSTART on. `lat` is the latched vector; where both operands name one port, its strips
are taken from `base` on and its position moves at the end. In residue mode a modulus of 0 stands for 2^32
(DESIGN CHOICE, notes/assumptions/77.md). -/
def mopaSteps (o : Mopa) (lat : Nat) (base : Option Nat) : List Nat → State → Except Stop State
  | [], s => .ok s
  | k :: ks, s =>
    let m := s.core.matrix
    let step := if o.lb then o.a else o.b
    let w := if o.lb then mWa m else mWb m
    let src : MSrc := match step with
      | .v r => .v (r + Fin.ofNat 32 k)
      | .p q => .p q
    let pos := match base with
      | some p => p + k
      | none => srcPos step s
    match (scaleTrap s (m.tile o.t)).or ((badRow m o.t).map (tileTrap o.t)) with
    | some tr => .error (.cut tr s)
    | none =>
      match readSrc w src pos s with
      | .error (.trap tr _) => .error (.cut tr s)
      | .error e => .error e
      | .ok (x, s1) =>
        let s2 := onTile o.t (stepTile m (modulus s.hart (mQsel m)) s.hart.v[mSca m] s.hart.v[mScb m] o.neg
          (if o.lb then x else lat) (if o.lb then lat else x)) s1
        let s3 := if base.isNone then moveSrc step (pos + 1) s2 else s2
        mopaSteps o lat base ks (setMstart (k + 1) s3)

/-- R243, R244, R408: a MOPA from MSTART to its end. A step that opens a block reads the registers of scale codes. With
MSTART past the last step the latched operand is read, and no step made. -/
def mopaEffect (o : Mopa) (_c : Ctx) (s : State) : Except Stop (State × List Word) :=
  let m := s.core.matrix
  let latched := if o.lb then o.b else o.a
  let step := if o.lb then o.a else o.b
  let same := match latched, step with
    | .p q, .p r => q == r
    | _, _ => false
  let w := if o.lb then mWb m else mWa m
  let p0 := srcPos latched s
  let pos := (m.tile o.t).pos
  let opens := decide (s.hart.mstart < o.n) && (pos == 0 || decide (32 < pos + (o.n - s.hart.mstart)))
  let scales := payloadRegs (if mMode m = 2 ∧ opens then [mSca m, mScb m] else [])
  let wide := match step with
    | .v r => decide (31 < r.val + (o.n - 1))
    | .p _ => false
  if wide then fail (illegal o.i 1 0)
  else if scales.any fun d => hdrKind s.hart.chdr[d] == 2 then .error (.wait (startFor scales s))
  else
    match scales.find? fun d => s.hart.crerr[d] != 0 with
    | some d => .error (.cut (deferredTrap s.hart d) (clearFail d s))
    | none =>
    match readSrc w latched p0 s with
    | .error e => .error e
    | .ok (lat, s1) =>
      let stop := stopIn s.hart s.hart.mstart o.n
      match mopaSteps o lat (if same then some (p0 + 1) else none) (indices s.hart.mstart (stop.getD o.n)) s1 with
      | .error e => .error e
      | .ok s2 =>
        if stop.isSome then .error (.wait s2) else
        let steps := if same && decide (s.hart.mstart < o.n) then o.n else 0
        quiet (setMstart 0 (moveSrc latched (p0 + 1 + steps) s2))

/-- The V registers a MOPA names. -/
def Mopa.vregs (o : Mopa) : List (Fin 32) :=
  let of' : MSrc → Bool → List (Fin 32) := fun x stepping =>
    match x with
    | .v r => if stepping then (List.range o.n).map fun k => r + Fin.ofNat 32 k else [r]
    | .p _ => []
  of' o.a o.lb ++ of' o.b (!o.lb)

/-- R242, R408: the ciphertext registers of the scale codes of a MOPA; any, where a queued convoy may still change MCFG. -/
def scaleNames (s : State) : List (Fin 16) :=
  let m := s.core.matrix
  if !s.hart.vq.isEmpty then List.finRange 16 else payloadRegs (if mMode m = 2 then [mSca m, mScb m] else [])

/-- A MOPA in the vector queue. -/
def mopaOp (o : Mopa) : VOp :=
  { i := o.i, vsrc := o.vregs, vector := false, check := needsClaim, later := scaleNames, effect := mopaEffect o }

/-- MOPA in the vector queue. -/
def opMopa (t : Fin 2) (k : Bool) (a : Fin 32) (j : Bool) (b : Fin 32) (r : Fin 16) (l : Bool) : VOp :=
  mopaOp { i := .mopa t k a j b r l, t := t, a := .of k a, b := .of j b, n := r.val + 1, lb := l, neg := false }

/-- R243: MOPA. -/
def execMopa (t : Fin 2) (k : Bool) (a : Fin 32) (j : Bool) (b : Fin 32) (r : Fin 16) (l : Bool) (s : State) : Out :=
  .next (vector (opMopa t k a j b r l) s)

/-- MOPS in the vector queue. -/
def opMops (t : Fin 2) (k : Bool) (a : Fin 32) (j : Bool) (b : Fin 32) (r : Fin 16) (l : Bool) : VOp :=
  mopaOp { i := .mops t k a j b r l, t := t, a := .of k a, b := .of j b, n := r.val + 1, lb := l, neg := true }

/-- R243: MOPS. -/
def execMops (t : Fin 2) (k : Bool) (a : Fin 32) (j : Bool) (b : Fin 32) (r : Fin 16) (l : Bool) (s : State) : Out :=
  .next (vector (opMops t k a j b r l) s)

/-! ### Rows (R248, R249) -/

/-- R248, R387: MDRAIN needs the claim, SEW 32 and W 0; reason 3 goes before reason 2
(DESIGN CHOICE, notes/assumptions/66.md). -/
def needsDrain (s : State) : Option Nat := (needsClaim s).or (needs32 s)

/-- R248: the row that an operand names. -/
def rowOf (x : Word) : Nat := bitsOf x.toNat 6 0

/-- R248: a row read, and cleared by MDRAINC. -/
def drainOp (i : Instr) (d : Fin 32) (t : Fin 2) (b : Fin 32) (clear : Bool) : VOp :=
  { i := i, cls := .drain, vdst := [d], xsrc := [b], check := needsDrain
    effect := fun c s =>
      let m := s.core.matrix
      let r := rowOf (c.x b)
      let idx := elems c s.hart
      if (m.tile t).bad.contains r && idx.any fun j => decide (j < m.mvl) then
        .error (.trap (tileTrap t r) s.hart.vstart)
      else
        let s1 := writeElems d none (fun _ => true) 32 (fun j => if j < m.mvl then (m.tile t).cell r j else 0) idx s
        quiet (if clear then
            onTile t (fun x =>
              { x with cells := idx.foldl (fun img j => if j < m.mvl then setField img 32 (128 * r + j) 0 else img) x.cells }) s1
          else s1) }

/-- MDRAIN as a convoy member. -/
def opMdrain (e : Bool) (d : Fin 32) (t : Fin 2) (b : Fin 32) : VOp := drainOp (.mdrain e d t b) d t b false

/-- R248: MDRAIN. -/
def execMdrain (e : Bool) (d : Fin 32) (t : Fin 2) (b : Fin 32) (s : State) : Out := .next (vector (opMdrain e d t b) s)

/-- MDRAINC as a convoy member. -/
def opMdrainc (e : Bool) (d : Fin 32) (t : Fin 2) (b : Fin 32) : VOp := drainOp (.mdrainc e d t b) d t b true

/-- R248: MDRAINC. -/
def execMdrainc (e : Bool) (d : Fin 32) (t : Fin 2) (b : Fin 32) (s : State) : Out := .next (vector (opMdrainc e d t b) s)

/-- MFILL in the vector queue. -/
def opMfill (t : Fin 2) (a b : Fin 32) : VOp :=
  { i := .mfill t a b, vsrc := [a], xsrc := [b], vector := false, check := needsClaim
    effect := fun c s =>
      let n := s.core.matrix.mvl
      let r := rowOf (c.x b)
      match wordsTrap s.hart a n with
      | some tr => fail tr
      | none =>
        quiet (onTile t (fun x =>
          { x with cells := (List.range n).foldl (fun img j => setField img 32 (128 * r + j) (getField s.hart.v[a] 32 j)) x.cells
                   bad := if n = 128 then x.bad.filter (· != r) else x.bad }) s) }

/-- R249: MFILL. -/
def execMfill (t : Fin 2) (a b : Fin 32) (s : State) : Out := .next (vector (opMfill t a b) s)

/-! ### The tile save area (R250) -/

/-- R250: the address of a row of CELLS. -/
def cellsAddr (base : Word) (i : Nat) : Word := base + BitVec.ofNat 64 (0x40 + 512 * i)

/-- R250: the address of a row of PART. -/
def partAddr (base : Word) (i : Nat) : Word := base + BitVec.ofNat 64 (0x10040 + 1024 * i)

/-- R250: the bytes of row `i` of CELLS. -/
def cellsRow (t : Tile) (i : Nat) : List Byte := leBytes 512 (t.cells >>> (4096 * i))

/-- R250: the bytes of row `i` of PART. -/
def partRow (t : Tile) (i : Nat) : List Byte := leBytes 1024 (t.part >>> (8192 * i))

/-- An error of one row: its trap leaves the progress made (DEDUCED, notes/assumptions/32.md). -/
def atRow {α : Type} (e : Stop) (s : State) : Except Stop α :=
  match e with
  | .trap t _ => .error (.cut t s)
  | e => .error e

/-- R250: the rows written by MSAVE, one after another. -/
def saveRows (t : Fin 2) (base : Word) (scaled : Bool) : List Nat → State → Except Stop State
  | [], s => .ok s
  | i :: is, s =>
    let x := s.core.matrix.tile t
    let r := reqOf s .store .vector .neither
    if x.bad.contains i then .error (.cut (tileTrap t i) s)
    else
      match checkBytes r (cellsAddr base i) 512 s with
      | .error e => atRow e s
      | .ok s1 =>
        match (if scaled then checkBytes r (partAddr base i) 1024 s1 else .ok s1) with
        | .error e => atRow e s
        | .ok s2 =>
          match storeObject r (cellsAddr base i) (cellsRow x i) s2 with
          | .error e => atRow e s
          | .ok s3 =>
            match (if scaled then storeObject r (partAddr base i) (partRow x i) s3 else .ok s3) with
            | .error e => atRow e s
            | .ok s4 => saveRows t base scaled is (setMstart (min 127 (i + 1)) s4)

/-- MSAVE in the vector queue. -/
def opMsave (t : Fin 2) (a : Fin 32) : VOp :=
  { i := .msave t a, xsrc := [a], vector := false, check := needsClaim
    effect := fun c s =>
      let m := s.core.matrix
      let scaled := decide (mMode m = 2)
      if !aligned (c.x a) 64 then fail { cause := 0x03, tval := c.x a }
      else
        let stop := stopIn s.hart s.hart.mstart 128
        match saveRows t (c.x a) scaled (indices s.hart.mstart (stop.getD 128)) s with
        | .error e => .error e
        | .ok s1 =>
          if stop.isSome then .error (.wait s1) else
          match storeObject (reqOf s1 .store .vector .neither) (c.x a)
              (leBytes 64 (mMode m + 256 * if scaled then (m.tile t).pos else 0)) s1 with
          | .error e => atRow e s1
          | .ok s2 => quiet (setMstart 0 s2) }

/-- R250: MSAVE. -/
def execMsave (t : Fin 2) (a : Fin 32) (s : State) : Out := .next (vector (opMsave t a) s)

/-- A row of `w` bits replaced in an image. -/
def setRow (img w i : Nat) (bs : List Byte) : Nat := setField img w i (leNat bs)

/-- R250: the rows read by MRSTR, one after another. -/
def restoreRows (t : Fin 2) (base : Word) (scaled : Bool) : List Nat → State → Except Stop State
  | [], s => .ok s
  | i :: is, s =>
    let r := reqOf s .load .vector .neither
    match loadBytes r (cellsAddr base i) 512 s with
    | .error e => atRow e s
    | .ok (bs, s1) =>
      match (if scaled then loadBytes r (partAddr base i) 1024 s1 else .ok ([], s1)) with
      | .error e => atRow e s
      | .ok (ps, s2) =>
        restoreRows t base scaled is (setMstart (min 127 (i + 1)) (onTile t (fun x =>
          { x with cells := setRow x.cells 4096 i bs, part := if scaled then setRow x.part 8192 i ps else x.part
                   bad := x.bad.filter (· != i) }) s2))

/-- MRSTR in the vector queue. The save area holds no scale codes: a block restored in part closes under those that the
tile latched last (DESIGN CHOICE, notes/assumptions/61.md). A POS above 31 is taken modulo 32
(DESIGN CHOICE, notes/assumptions/66.md). -/
def opMrstr (t : Fin 2) (a : Fin 32) : VOp :=
  { i := .mrstr t a, xsrc := [a], vector := false, check := needsClaim
    effect := fun c s =>
      let scaled := decide (mMode s.core.matrix = 2)
      if !aligned (c.x a) 64 then fail { cause := 0x03, tval := c.x a }
      else
        match loadBytes (reqOf s .load .vector .neither) (c.x a) 2 s with
        | .error e => .error e
        | .ok (hd, s0) =>
          let stop := stopIn s.hart s.hart.mstart 128
          match restoreRows t (c.x a) scaled (indices s.hart.mstart (stop.getD 128)) s0 with
          | .error e => .error e
          | .ok s1 =>
            if stop.isSome then .error (.wait s1) else
            quiet (setMstart 0 (if scaled then onTile t (fun x => { x with pos := fieldAt hd 1 1 % 32 }) s1 else s1)) }

/-- R250: MRSTR. -/
def execMrstr (t : Fin 2) (a : Fin 32) (s : State) : Out := .next (vector (opMrstr t a) s)

end

end Sys2Proof.Machine
end

