-- ==== Sys2Proof/Machine/Cipher.lean ====
section
/-!
DEFINITION. Ciphertexts (04_ciphertexts.md R84 to R96, 09_isa_cipher.md R212 to R225, 21_faults_cipher.md R401 to
R403): headers, parameter sets, images in memory, and the instructions of major 0x34.
-/
namespace Sys2Proof.Machine

noncomputable section

/-! ### Headers (R89) -/

/-- R89: LEVEL. -/
def hdrLevel (h : BitVec 128) : Nat := bitsOf h.toNat 7 5
/-- R89: PSID. -/
def hdrPsid (h : BitVec 128) : Nat := bitsOf h.toNat 15 8
/-- R89: KTAG. -/
def hdrKtag (h : BitVec 128) : Nat := bitsOf h.toNat 71 56
/-- R89: NV. -/
def hdrNv (h : BitVec 128) : Nat := bitsOf h.toNat 103 72
/-- R89: WORLD. -/
def hdrWorld (h : BitVec 128) : Nat := bitsOf h.toNat 111 104

/-- R89: a header. `flag` is 0, 1 (IMP), 2 (REF) or 4 (LOADED). -/
def mkHdr (kind level psid flag ktag nv world pwords : Nat) : BitVec 128 :=
  BitVec.ofNat 128 (kind + level % 8 * 2 ^ 5 + psid % 256 * 2 ^ 8 + flag * 2 ^ 16 + ktag % 2 ^ 16 * 2 ^ 56
    + nv % 2 ^ 32 * 2 ^ 72 + world % 256 * 2 ^ 104 + pwords % 2 ^ 16 * 2 ^ 112)

/-- R88: the V register of a ciphertext register. -/
def payReg (c : Fin 16) : Fin 32 := Fin.ofNat 32 (16 + c.val)

/-- R88: the payload words of a ciphertext register. -/
def payload (h : Hart) (c : Fin 16) (pw : Nat) : List Nat := (List.range pw).map fun i => elemAt h (payReg c) 32 i

/-! ### Parameter sets (R84) -/

/-- R84: the prime of index j. -/
def ParamSet.prime (p : ParamSet) (j : Nat) : Nat := p.primes.getD j 1

/-- R84: Q_l. -/
def ParamSet.q (p : ParamSet) (l : Nat) : Nat := (p.primes.take l).foldl (· * ·) 1

/-- R84: Δ_l. -/
def ParamSet.delta (p : ParamSet) (l : Nat) : Nat := p.q l / 2 ^ p.logp

/-- R84: N. -/
def ParamSet.deg (p : ParamSet) : Nat := 2 ^ p.logn

/-- R99, R212: the governing slot of a key tag and parameter-set id. -/
def governing (h : Hart) (ktag psid : Nat) : Option (Fin 4) :=
  (List.finRange 4).find? fun k => (h.keys[k]).bound && (h.keys[k]).set.ktag == ktag && (h.keys[k]).set.psid == psid

/-- Euclid's steps on `a` and `b`, whose multiples of the first operand are `u` and `v`. -/
def euclid : Nat → Nat → Nat → Int → Int → Int
  | 0, _, _, u, _ => u
  | f + 1, a, b, u, v => if b = 0 then u else euclid f b (a % b) v (u - (a / b : Nat) * v)

/-- R103, R252: the inverse of a residue modulo `q`, where the two have no common factor. -/
def invMod (q x : Nat) : Nat := modQ (euclid 128 x q 1 0) q

/-- R103: the value in [0, Q) with the given residues. -/
def crt : List (Nat × Nat) → Nat
  | [] => 0
  | (r, q) :: rest =>
    let x := crt rest
    let m := rest.foldl (fun n p => n * p.2) 1
    x + m * modQ (((r : Int) - x) * invMod q (m % q)) q

/-- R88: coefficient `i` of a payload modulo each of its `l` primes. -/
def coeff (p : ParamSet) (l i : Nat) (pay : List Nat) : List (Nat × Nat) :=
  (List.range l).map fun j => (pay.getD (j * (p.n + 1) + i) 0, p.prime j)

/-- R88: payload words from a value for each prime index and coefficient. -/
def words (p : ParamSet) (l : Nat) (f : Nat → Nat → Nat) : List Nat :=
  (List.range l).flatMap fun j => (List.range (p.n + 1)).map fun i => f j i

/-! ### Failures (R401, R402) -/

/-- R401: a failed check of a ciphertext instruction. -/
def cfail {α : Type} (cause reason value : Nat) (creg : Fin 16) : Except Stop α :=
  fail { cause := cause, tval := cipherVal value reason creg.val false }

/-- R401, checks 1 and 2: every source is valid, and has a governing slot; the set of the first source. -/
def sources (h : Hart) (creg : Fin 16) (srcs : List (Fin 16)) : Except Stop ParamSet :=
  match srcs.find? fun c => hdrKind h.chdr[c] != 1 with
  | some c => cfail 0x0C 1 0 c
  | none =>
    match srcs.find? fun c => (governing h (hdrKtag h.chdr[c]) (hdrPsid h.chdr[c])).isNone with
    | some c => cfail 0x0B 1 (hdrKtag h.chdr[c] * 256 + hdrPsid h.chdr[c]) creg
    | none =>
      match srcs.head?.bind fun c => governing h (hdrKtag h.chdr[c]) (hdrPsid h.chdr[c]) with
      | some k => .ok (h.keys[k]).set
      | none => cfail 0x0B 1 0 creg

/-- R96, R401, check 3: a source whose PSID, KTAG or LEVEL differs from the first one's (DEDUCED, notes/assumptions/51.md). -/
def disagrees (h : Hart) (srcs : List (Fin 16)) : Option (Fin 16) :=
  match srcs with
  | [] => none
  | a :: rest => rest.find? fun c =>
      hdrPsid h.chdr[c] != hdrPsid h.chdr[a] || hdrKtag h.chdr[c] != hdrKtag h.chdr[a] || hdrLevel h.chdr[c] != hdrLevel h.chdr[a]

/-- R397: cause 0x09 for a failing payload word of a source. -/
def payTrap (h : Hart) (srcs : List (Fin 16)) : Option Trap :=
  srcs.findSome? fun c => wordsTrap h (payReg c) (hdrPwords h.chdr[c])

/-- R95: noise clamped at 2^32 - 1. -/
def clampNv (n : Nat) : Nat := min n (2 ^ 32 - 1)

/-! ### Writing a ciphertext (R90, R91, R214) -/

/-- R91: payload words written, those above keeping their values. -/
def putWords (d : Fin 16) (ws : List Nat) (s : State) : State :=
  writeElems (payReg d) none (fun _ => true) 32 (fun i => ws.getD i 0) (List.range ws.length) s

/-- R89: a header written. -/
def putHdr (d : Fin 16) (x : BitVec 128) (s : State) : State := s.onHart fun h => { h with chdr := h.chdr.set d x }

/-- R90, R91: a ciphertext instruction ends: VSTART is 0. -/
def calm (s : State) : Except Stop (State × List Word) := quiet (setVstart 0 s)

/-- R91, R401: what follows check 4: the payload fits, the noise is in bounds, and the grant reaches the floor; then the
effect. -/
def afterCheck4 (d : Fin 16) (set : ParamSet) (pw nv : Nat) (more : Except Stop Unit) (go : State → Except Stop (State × List Word))
    (s : State) : Except Stop (State × List Word) :=
  if !fitsAll s pw then cfail 0x0D 10 pw d
  else if set.nvMax < clampNv nv then cfail 0x0A 1 (clampNv nv) d
  else
    match more with
    | .error e => .error e
    | .ok _ =>
      match grantFloor pw s with
      | none => .error (.wait (waitGroups s))
      | some s' => go s'

/-- R213, R214: a ciphertext written once check 5 holds. -/
def commitCipher (d : Fin 16) (set : ParamSet) (ktag psid level nv flag : Nat) (ws : State → Except Stop (List Nat)) (s : State) :
    Except Stop (State × List Word) :=
  let pw := (set.n + 1) * level
  afterCheck4 d set pw nv (.ok ()) (fun s' =>
    match ws s' with
    | .error e => .error e
    | .ok l => calm (putHdr d (mkHdr 1 level psid flag ktag (clampNv nv) s.hart.world.val pw) (putWords d l (unbind (payReg d) s')))) s

/-! ### Arithmetic (R216 to R218) -/

/-- R216: a linear instruction: its sources in the order of R402, condition 4, the level and noise of the result, and
its payload from those of the sources. -/
structure Linear where
  i : Instr
  d : Fin 16
  srcs : List (Fin 16)
  x : List (Fin 32)
  cond : ParamSet → Nat → Word → Option (Nat × Nat) := fun _ _ _ => none
  level : Nat → Nat := id
  nv : ParamSet → Nat → List Nat → Word → Nat
  words : ParamSet → Nat → List (List Nat) → Word → State → Except Stop (List Nat)

/-- R213: a linear instruction in the vector queue. -/
def linearOp (o : Linear) : VOp :=
  { i := o.i, xsrc := o.x, crefs := o.d :: o.srcs, vector := false, deleg := true
    effect := fun c s =>
      let h := s.hart
      let x := (o.x.head?.map c.x).getD 0
      match sources h o.d o.srcs with
      | .error e => .error e
      | .ok set =>
        match disagrees h o.srcs with
        | some k => cfail 0x0D 1 0 k
        | none =>
          let a := h.chdr[o.srcs.headD o.d]
          let l := hdrLevel a
          match o.cond set l x with
          | some (r, v) => cfail 0x0D r v o.d
          | none =>
            commitCipher o.d set (hdrKtag a) (hdrPsid a) (o.level l) (o.nv set l (o.srcs.map fun k => hdrNv h.chdr[k]) x) 0
              (fun s' =>
                match payTrap s'.hart o.srcs with
                | some t => fail t
                | none => o.words set l (o.srcs.map fun k => payload s'.hart k (hdrPwords h.chdr[k])) x s') s }

/-- R216: a payload computed word by word from the source payloads, modulo the word's prime. -/
def wordwise (f : Nat → Nat → List Int → Int) (set : ParamSet) (l : Nat) (pays : List (List Nat)) : List Nat :=
  words set l fun j i => modQ (f j i (pays.map fun p => (p.getD (j * (set.n + 1) + i) 0 : Nat))) (set.prime j)

/-- R216: the weight in an X register. -/
def weightOf (x : Word) : Int := x.toInt

/-- R216, R401: condition 4 of CMULP and CMACC. -/
def weightCond (_ : ParamSet) (_ : Nat) (x : Word) : Option (Nat × Nat) :=
  if -(2 ^ 15 : Int) ≤ weightOf x ∧ weightOf x < (2 ^ 15 : Int) then none else some (3, x.toNat % 2 ^ 32)

/-- The weight squared. -/
def weightSq (x : Word) : Nat := (weightOf x).natAbs ^ 2

/-- CADD in the vector queue. -/
def opCadd (d a b : Fin 16) : VOp :=
  linearOp { i := .cadd d a b, d := d, srcs := [a, b], x := [], nv := fun _ _ n _ => n.getD 0 0 + n.getD 1 0
             words := fun p l w _ _ => .ok (wordwise (fun _ _ v => v.getD 0 0 + v.getD 1 0) p l w) }

/-- R216: CADD. -/
def execCadd (d a b : Fin 16) (s : State) : Out := .next (vector (opCadd d a b) s)

/-- CSUB in the vector queue. -/
def opCsub (d a b : Fin 16) : VOp :=
  linearOp { i := .csub d a b, d := d, srcs := [a, b], x := [], nv := fun _ _ n _ => n.getD 0 0 + n.getD 1 0
             words := fun p l w _ _ => .ok (wordwise (fun _ _ v => v.getD 0 0 - v.getD 1 0) p l w) }

/-- R216: CSUB. -/
def execCsub (d a b : Fin 16) (s : State) : Out := .next (vector (opCsub d a b) s)

/-- CNEG in the vector queue. -/
def opCneg (d a : Fin 16) : VOp :=
  linearOp { i := .cneg d a, d := d, srcs := [a], x := [], nv := fun _ _ n _ => n.getD 0 0
             words := fun p l w _ _ => .ok (wordwise (fun _ _ v => -(v.getD 0 0)) p l w) }

/-- R216: CNEG. -/
def execCneg (d a : Fin 16) (s : State) : Out := .next (vector (opCneg d a) s)

/-- CMOV in the vector queue. -/
def opCmov (d a : Fin 16) : VOp :=
  linearOp { i := .cmov d a, d := d, srcs := [a], x := [], nv := fun _ _ n _ => n.getD 0 0
             words := fun p l w _ _ => .ok (wordwise (fun _ _ v => v.getD 0 0) p l w) }

/-- R216: CMOV. -/
def execCmov (d a : Fin 16) (s : State) : Out := .next (vector (opCmov d a) s)

/-- CMULP in the vector queue. -/
def opCmulp (d a : Fin 16) (x : Fin 32) : VOp :=
  linearOp { i := .cmulp d a x, d := d, srcs := [a], x := [x], cond := weightCond
             nv := fun _ _ n w => weightSq w * n.getD 0 0
             words := fun p l w x _ => .ok (wordwise (fun _ _ v => weightOf x * v.getD 0 0) p l w) }

/-- R216: CMULP. -/
def execCmulp (d a : Fin 16) (x : Fin 32) (s : State) : Out := .next (vector (opCmulp d a x) s)

/-- CMACC in the vector queue. -/
def opCmacc (d a : Fin 16) (x : Fin 32) : VOp :=
  linearOp { i := .cmacc d a x, d := d, srcs := [a, d], x := [x], cond := weightCond
             nv := fun _ _ n w => n.getD 1 0 + weightSq w * n.getD 0 0
             words := fun p l w x _ => .ok (wordwise (fun _ _ v => v.getD 1 0 + weightOf x * v.getD 0 0) p l w) }

/-- R216: CMACC. -/
def execCmacc (d a : Fin 16) (x : Fin 32) (s : State) : Out := .next (vector (opCmacc d a x) s)

/-- CADDP in the vector queue. -/
def opCaddp (d a : Fin 16) (x : Fin 32) : VOp :=
  linearOp { i := .caddp d a x, d := d, srcs := [a], x := [x], nv := fun _ _ n _ => n.getD 0 0
             words := fun p l w x _ => .ok (wordwise (fun _ i v =>
               v.getD 0 0 + if i = p.n then (p.delta l * (x.toNat % 2 ^ p.logp) : Nat) else 0) p l w) }

/-- R216: CADDP. -/
def execCaddp (d a : Fin 16) (x : Fin 32) (s : State) : Out := .next (vector (opCaddp d a x) s)

/-- R96: a coefficient rescaled past its last prime, as an integer. -/
def rescale (p : ParamSet) (l : Nat) (c : List (Nat × Nat)) : Int :=
  let q := p.prime (l - 1)
  let x := crt c
  ((x : Int) - lift (x % q) q) / (q : Int)

/-- CMODSW in the vector queue. -/
def opCmodsw (d a : Fin 16) : VOp :=
  linearOp { i := .cmodsw d a, d := d, srcs := [a], x := [], level := fun l => l - 1
             cond := fun _ l _ => if 2 ≤ l then none else some (2, l)
             nv := fun p l n _ => ceilDiv (n.getD 0 0) (p.dms.getD (l - 2) 1) + p.nvms.getD (l - 2) 0
             words := fun p l w _ _ => .ok (words p (l - 1) fun j i => modQ (rescale p l (coeff p l i (w.headD []))) (p.prime j)) }

/-- R217: CMODSW. -/
def execCmodsw (d a : Fin 16) (s : State) : Out := .next (vector (opCmodsw d a) s)

/-! ### Key material (R97, R98, R100) -/

/-- R14, R98: the place in memory of byte `n` of key material at a location. With FAR = 0 it lies in the die's own key
store: an offset at or past its 128 MiB is taken modulo them, and one that is no multiple of 256 as it stands. With FAR = 1
and an offset past installed main memory the engine reads what an unlisted byte reads as
(DESIGN CHOICE, notes/assumptions/59.md). -/
def keyPlace (s : State) (die loc n : Nat) : Nat :=
  let off := bitsOf loc 42 0 + n
  if bitAt loc 63 then gaOf s.dev.devid off else gaOf s.dev.devid (keyOff + die * 0x8000000 + off % 0x8000000)

/-- Word `i` of key material at a location. -/
def keyWord (s : State) (die loc i : Nat) : Nat :=
  leNat ((List.range 4).map fun b => Memory.read s.mem (keyPlace s die loc (4 * i + b)))

/-- The places of `n` bytes of key material from byte `lo` on, one for each 64-byte block that they touch, as the interlock
compares them (R296). -/
def keyPlaces (s : State) (die loc lo n : Nat) : List Nat :=
  if n = 0 then [] else (List.range ((n + 126) / 64)).map fun k => keyPlace s die loc (lo + min (64 * k) (n - 1))

/-- R406: a block of key material or of a table entry fails. -/
def keyBad (s : State) (places : List Nat) : Bool :=
  places.any fun a => s.dev.bad.any (·.block == a / 256) || (storageTrap s 0 a 0).isSome

/-- R103, R218: the digits of `cs` taken off the key-switching key, added to `out`: entry (j, u) holds (n + 1) * L words. -/
def keySwitch (s : State) (p : ParamSet) (die : Nat) (cs : List Nat) (out : Nat → Nat → Nat) : List Nat :=
  let span := (p.n + 1) * p.l
  let ds := cs.map fun c => digitsOf (p.q p.l) c p.betaks p.ellks
  words p p.l fun j i =>
    let total : Int := (List.range cs.length).foldl (fun t jj =>
      (List.range p.ellks).foldl (fun t u =>
        t - (ds.getD jj []).getD u 0 * (keyWord s die p.kskLoc ((jj * p.ellks + u) * span + j * (p.n + 1) + i) : Nat)) t) (out j i : Nat)
    modQ total (p.prime j)

/-- CKEYSW in the vector queue. It reads the key once earlier accesses of the hart that overlap it are performed (R296). A
failing key-switching key is reported as key material (DEDUCED, notes/assumptions/21.md). -/
def opCkeysw (d a : Fin 16) : VOp :=
  linearOp { i := .ckeysw d a, d := d, srcs := [a], x := []
             cond := fun p l _ => if l = p.l then none else some (2, l)
             nv := fun p _ n _ => n.getD 0 0 + p.nvKs
             words := fun p l w _ s =>
               let die := dieOfCore s.core.id
               let pay := w.headD []
               let places := keyPlaces s die p.kskLoc 0 (4 * p.n * p.ellks * (p.n + 1) * p.l)
               if interlocked (reqOf s .load .vector .neither) places s then .error (.wait s)
               else if keyBad s places then
                 fail { cause := 0x09, tval := Word.ofNat (2 ^ 63 + 4 * 2 ^ 60 + d.val * 256) }
               else
                 .ok (keySwitch s p die ((List.range p.n).map fun jj => crt (coeff p l jj pay))
                   fun j i => if i = p.n then pay.getD (j * (p.n + 1) + p.n) 0 else 0) }

/-- R218: CKEYSW. -/
def execCkeysw (d a : Fin 16) (s : State) : Out := .next (vector (opCkeysw d a) s)

/-! ### Inspecting and discarding (R219 to R221) -/

/-- CBUDGET in the vector queue. -/
def opCbudget (a : Fin 16) (x : Fin 32) : VOp :=
  { i := .cbudget a x, xdst := [x], crefs := [a], vector := false, deleg := true
    effect := fun _ s =>
      match sources s.hart a [a] with
      | .error e => .error e
      | .ok set => .ok (setVstart 0 s, [Word.ofNat (set.nvMax - hdrNv s.hart.chdr[a])]) }

/-- R219: CBUDGET. -/
def execCbudget (a : Fin 16) (x : Fin 32) (s : State) : Out := .next (vector (opCbudget a x) s)

/-- R220: half a header replied. -/
def chdrOp (i : Instr) (a : Fin 16) (x : Fin 32) (lo : Nat) : VOp :=
  { i := i, xdst := [x], crefs := [a], vector := false
    effect := fun _ s => .ok (setVstart 0 s, [Word.ofNat ((s.hart.chdr[a]).toNat / 2 ^ lo)]) }

/-- CHDR.LO in the vector queue. -/
def opChdrLo (a : Fin 16) (x : Fin 32) : VOp := chdrOp (.chdrLo a x) a x 0

/-- R220: CHDR.LO. -/
def execChdrLo (a : Fin 16) (x : Fin 32) (s : State) : Out := .next (vector (opChdrLo a x) s)

/-- CHDR.HI in the vector queue. -/
def opChdrHi (a : Fin 16) (x : Fin 32) : VOp := chdrOp (.chdrHi a x) a x 64

/-- R220: CHDR.HI. -/
def execChdrHi (a : Fin 16) (x : Fin 32) (s : State) : Out := .next (vector (opChdrHi a x) s)

/-- CINV in the vector queue. -/
def opCinv (d : Fin 16) : VOp :=
  { i := .cinv d, crefs := [d], vector := false, effect := fun _ s => calm (clearFail d (putHdr d 0 s)) }

/-- R221, R408: CINV. -/
def execCinv (d : Fin 16) (s : State) : Out := .next (vector (opCinv d) s)

/-! ### Images (R92, R93, R222 to R224) -/

/-- R343: the keys of a world have been erased. -/
def keysErased (s : State) (w : Nat) : Bool :=
  w != 0 && !(ctxOfWorld s w).any fun c => c.state == .opened || c.state == .ending || c.state == .exported

/-- R92: the MAC of an image: its first 56 bytes and its payload under a key. -/
def imageMac (key head pay : List Byte) : List Byte := (Config.hmacSm3 key (head.take 0x38 ++ pay)).take 8

/-- R341: the import key of a world; none in world 0. -/
def importKey (s : State) (w : Nat) : Option (List Byte) :=
  if w = 0 then none
  else (ctxOfWorld s w).map fun c => Config.hmacSm3 (c.shareD.getD []) (label "import" ++ leBytes 8 c.id.toNat)

/-- R222: an image read: its header's 64 bytes and its payload's. -/
def readImage (r : Req) (va : Word) (s : State) : Except Stop (List Byte × List Byte × State) :=
  if !aligned va 64 then deny 0x03 va else
  match loadBytes r va 64 s with
  | .error e => .error e
  | .ok (head, s1) =>
    match loadBytes r (va + 64) (4 * hdrPwords (BitVec.ofNat 128 (fieldAt head 0 16))) s1 with
    | .error e => .error e
    | .ok (pay, s2) => .ok (head, pay, s2)

/-- The words of a payload's bytes. -/
def payWords (pay : List Byte) : List Nat := (List.range (pay.length / 4)).map fun i => fieldAt pay (4 * i) 4

/-- R222: the first payload word at or above its prime. -/
def rangeBad (set : ParamSet) (ws : List Nat) : Option Nat :=
  (List.range ws.length).find? fun i => decide (set.prime (i / (set.n + 1)) ≤ ws.getD i 0)

/-- What the tests of an image find: the cause, reason and value of R401. -/
structure Finding where
  cause : Nat
  reason : Nat
  value : Nat
  deriving DecidableEq, Repr

/-- R99: the set of the governing slot of a key tag and parameter-set id. -/
def governingSet (h : Hart) (ktag psid : Nat) : Option ParamSet := (governing h ktag psid).map fun k => (h.keys[k]).set

/-- R222, R401: check 2 and condition 4 of CLOAD on an image, `find` giving the set that governs a key tag and
parameter-set id; the set that governs it. -/
def imageTestsBy (find : Nat → Nat → Option ParamSet) (s : State) (head pay : List Byte) : Except Finding ParamSet :=
  let h := BitVec.ofNat 128 (fieldAt head 0 16)
  match find (hdrKtag h) (hdrPsid h) with
  | none => .error { cause := 0x0B, reason := 1, value := hdrKtag h * 256 + hdrPsid h }
  | some set =>
    let w := s.hart.world.val
    if hdrKind h ≠ 1 ∨ hdrLevel h = 0 ∨ set.l < hdrLevel h ∨ hdrPwords h ≠ (set.n + 1) * hdrLevel h then
      .error { cause := 0x0C, reason := 2, value := hdrPwords h }
    else if hdrWorld h ≠ w ∨ fieldAt head 0x10 8 ≠ (worldCtxId s w).toNat then
      .error { cause := 0x0D, reason := 9, value := hdrWorld h }
    else if keysErased s w ∨ imageMac (worldCtxKey s w) head pay ≠ (head.drop 0x38).take 8 then
      .error { cause := 0x08, reason := 0, value := 0 }
    else
      match rangeBad set (payWords pay) with
      | some i => .error { cause := 0x0C, reason := 4, value := i }
      | none => .ok set

/-- R222: the tests that CLOAD makes of an image under the hart's key slots. -/
def imageTests (s : State) (head pay : List Byte) : Except Finding ParamSet := imageTestsBy (governingSet s.hart) s head pay

/-- R401: the trap of a finding about the image at an address. -/
def Finding.trap (f : Finding) (va : Word) (creg : Nat) : Trap :=
  { cause := f.cause, tval := if f.cause = 0x08 then va else cipherVal f.value f.reason creg false }

/-- CLOAD in the vector queue. -/
def opCload (d : Fin 16) (x : Fin 32) : VOp :=
  { i := .cload d x, xsrc := [x], crefs := [d], vector := false, deleg := true
    effect := fun c s =>
      match readImage (reqOf s .load .vector .neither) (c.x x) s with
      | .error e => .error e
      | .ok (head, pay, s1) =>
        let h := BitVec.ofNat 128 (fieldAt head 0 16)
        match imageTests s1 head pay with
        | .error f => fail (f.trap (c.x x) d.val)
        | .ok set => commitCipher d set (hdrKtag h) (hdrPsid h) (hdrLevel h) (hdrNv h) 4 (fun _ => .ok (payWords pay)) s1 }

/-- R222: CLOAD. -/
def execCload (d : Fin 16) (x : Fin 32) (s : State) : Out := .next (vector (opCload d x) s)

/-- R223: the bytes of a ciphertext image under a world's context key. -/
def imageBytes (s : State) (hdr : BitVec 128) (ws : List Nat) : List Byte :=
  let w := s.hart.world.val
  let head := leBytes 16 hdr.toNat ++ leBytes 8 (worldCtxId s w).toNat ++ leBytes 32 0
  let pay := ws.flatMap (leBytes 4)
  head ++ imageMac (worldCtxKey s w) head pay ++ pay

/-- CSTORE in the vector queue. -/
def opCstore (a : Fin 16) (x : Fin 32) : VOp :=
  { i := .cstore a x, xsrc := [x], crefs := [a], vector := false, deleg := true
    effect := fun c s =>
      match sources s.hart a [a] with
      | .error e => .error e
      | .ok _ =>
        if !aligned (c.x x) 64 then fail { cause := 0x03, tval := c.x x }
        else
          match payTrap s.hart [a] with
          | some t => fail t
          | none =>
            let h := s.hart.chdr[a]
            match storeObject (reqOf s .store .vector .neither) (c.x x) (imageBytes s h (payload s.hart a (hdrPwords h))) s with
            | .error e => .error e
            | .ok s' => calm s' }

/-- R223: CSTORE. -/
def execCstore (a : Fin 16) (x : Fin 32) (s : State) : Out := .next (vector (opCstore a x) s)

/-- R224: check 2 and condition 4 of CIMPORT. -/
def importTests (s : State) (head pay : List Byte) : Except Finding ParamSet :=
  let h := BitVec.ofNat 128 (fieldAt head 0 16)
  match governing s.hart (hdrKtag h) (hdrPsid h) with
  | none => .error { cause := 0x0B, reason := 1, value := hdrKtag h * 256 + hdrPsid h }
  | some k =>
    let set := (s.hart.keys[k]).set
    let w := s.hart.world.val
    if hdrPwords h ≠ (set.n + 1) * set.l then .error { cause := 0x0C, reason := 2, value := hdrPwords h }
    else
      match importKey s w with
      | none => .error { cause := 0x08, reason := 0, value := 0 }
      | some key =>
        if keysErased s w ∨ imageMac key head pay ≠ (head.drop 0x38).take 8 then .error { cause := 0x08, reason := 0, value := 0 }
        else
          match rangeBad set (payWords pay) with
          | some i => .error { cause := 0x0C, reason := 4, value := i }
          | none => .ok set

/-- CIMPORT in the vector queue. -/
def opCimport (d : Fin 16) (x : Fin 32) : VOp :=
  { i := .cimport d x, xsrc := [x], crefs := [d], vector := false, deleg := true
    effect := fun c s =>
      match readImage (reqOf s .load .vector .neither) (c.x x) s with
      | .error e => .error e
      | .ok (head, pay, s1) =>
        let h := BitVec.ofNat 128 (fieldAt head 0 16)
        match importTests s1 head pay with
        | .error f => fail (f.trap (c.x x) d.val)
        | .ok set => commitCipher d set (hdrKtag h) (hdrPsid h) set.l set.nvFresh 1 (fun _ => .ok (payWords pay)) s1 }

/-- R224: CIMPORT. -/
def execCimport (d : Fin 16) (x : Fin 32) (s : State) : Out := .next (vector (opCimport d x) s)

end

end Sys2Proof.Machine
end

