-- ==== Sys2Proof/Machine/Refresh.lean ====
section
/-!
DEFINITION. Refreshes and their passes (04_ciphertexts.md R97 to R109, 09_isa_cipher.md R226 to R236, 21 R405 to R408):
CREF, CRGO, CRWAIT, the Halyard engine and the rotation unit, and the instructions of major 0x36.
-/
namespace Sys2Proof.Machine

noncomputable section

/-! ### Key set tables (R98, R85) -/

/-- R97: the place of a table entry. -/
def entryPlace (s : State) (die handle : Nat) : Nat := gaOf s.dev.devid (keyOff + die * 0x8000000 + handle % 256 * 256)

/-- R98: a table entry. -/
def entryOf (bs : List Byte) : ParamSet :=
  { ktag := fieldAt bs 0 2, psid := fieldAt bs 2 1, valid := fieldAt bs 3 1 % 2, part := fieldAt bs 4 2, logn := fieldAt bs 6 1
    logp := fieldAt bs 7 1, n := fieldAt bs 8 2, l := fieldAt bs 0x0A 1, beta := fieldAt bs 0x0B 1, ell := fieldAt bs 0x0C 1
    betaks := fieldAt bs 0x0D 1, ellks := fieldAt bs 0x0E 1, primes := (List.range 4).map fun k => fieldAt bs (0x10 + 4 * k) 4
    nvFresh := fieldAt bs 0x20 4, nvBoot := fieldAt bs 0x24 4, nvKs := fieldAt bs 0x28 4, nvMax := fieldAt bs 0x2C 4
    nvInmax := fieldAt bs 0x30 4, dms := (List.range 3).map fun k => fieldAt bs (0x34 + 4 * k) 4
    nvms := (List.range 3).map fun k => fieldAt bs (0x40 + 4 * k) 4, bskLoc := fieldAt bs 0x50 8, kskLoc := fieldAt bs 0x58 8 }

/-- R98: the table entry of a handle, as memory holds it. -/
def readEntry (s : State) (die handle : Nat) : ParamSet := entryOf (Memory.reads s.mem (entryPlace s die handle) 256)

/-- R84, R85: the conditions of a usable set that the device checks. -/
def ParamSet.usable (p : ParamSet) : Bool :=
  let ps := p.primes.take p.l
  within p.logn 3 11 && within p.n 1 2047 && within p.l 1 4 && decide (2 ≤ p.logp) && decide (p.logp ≤ p.logn + 1)
    && ps.all (fun q => decide (17 ≤ q) && decide (q < 2 ^ 31) && q % 2 == 1 && q % (2 * p.deg) == 1)
    && decide ps.Nodup && decide ((p.n + 1) * p.l ≤ 4096) && decide (p.deg * p.l ≤ 8192)
    && within p.beta 1 16 && within p.betaks 1 16 && within p.ell 1 8 && within p.ellks 1 8
    && (p.dms.take (p.l - 1)).all (fun d => decide (1 ≤ d))
    && [p.nvFresh, p.nvBoot, p.nvKs, p.nvInmax].all (fun v => decide (v ≤ p.nvMax))

/-! ### Transforms (R100, R252) -/

/-- R252: the transform of a polynomial under ψ. -/
def ntt (logn q psi : Nat) (a : List Nat) : List Nat :=
  (List.range (2 ^ logn)).map fun k =>
    let r := powMod q 32 psi (2 * revBits logn k + 1)
    (a.foldl (fun (t : Nat × Nat) x => ((t.1 + x * t.2) % q, t.2 * r % q)) (0, 1)).1

/-- R252: the inverse transform. -/
def intt (logn q psi : Nat) (b : List Nat) : List Nat :=
  let n := 2 ^ logn
  (List.range n).map fun j =>
    let t := (List.range n).foldl (fun t k =>
      (t + b.getD k 0 * powMod q 64 (invMod q psi) ((2 * revBits logn k + 1) * j)) % q) 0
    invMod q (n % q) * t % q

/-- R100: the least ψ with ψ^N = q - 1 modulo q; 0 where there is none. -/
def leastPsi (n q : Nat) : Nat := ((indices 1 q).find? fun p => powMod q 32 p n == q - 1).getD 0

/-- R103: X^k times a polynomial modulo X^N + 1. -/
def rotatePoly (n q k : Nat) (a : List Nat) : List Nat :=
  (List.range n).map fun (j : Nat) =>
    let m := modQ ((j : Int) - (k : Int)) (2 * n)
    if m < n then a.getD m 0 % q else modQ (-(a.getD (m - n) 0 : Nat)) q

/-! ### The refresh computation (R103, R104) -/

/-- R103: the rotation amounts of a payload at level l. -/
def rotations (p : ParamSet) (l : Nat) (pay : List Nat) : List Nat :=
  (List.range (p.n + 1)).map fun i =>
    ((2 * p.deg * crt (coeff p l i pay) + p.q l / 2) / p.q l) % (2 * p.deg)

/-- The prime-j part of a table's polynomial. -/
def polyPart (p : ParamSet) (poly : List Nat) (j : Nat) : List Nat := (poly.drop (j * p.deg)).take p.deg

/-- R103, R104: one step of a key pass on an accumulator's pair, with the words of a key element. -/
def stepPair (p : ParamSet) (key : List Nat) (t : Nat) (a b : List (List Nat)) : List (List Nat) × List (List Nat) :=
  let n := p.deg
  let delta : List (List Nat) → List (List Nat) := fun ps => (List.range p.l).map fun j =>
    let q := p.prime j
    let x := ps.getD j []
    let r := rotatePoly n q t x
    (List.range n).map fun i => (r.getD i 0 + (q - x.getD i 0 % q)) % q
  let digits : List (List Nat) → List (List Int) := fun ps => (List.range n).map fun i =>
    digitsOf (p.q p.l) (crt ((List.range p.l).map fun j => ((ps.getD j []).getD i 0, p.prime j))) p.beta p.ell
  let da := digits (delta a)
  let db := digits (delta b)
  let row : Nat → Nat → Nat → Nat → Nat := fun u h j i => key.getD ((u * 2 + h) * p.l * n + j * n + i) 0
  let prod : Nat → Nat → List Nat := fun h j =>
    let q := p.prime j
    let psi := leastPsi n q
    let hat : List (List Int) → Nat → List Nat := fun d u => ntt p.logn q psi (d.map fun x => modQ (x.getD u 0) q)
    let terms : List (Nat × List Nat) := (List.range p.ell).flatMap fun u => [(u, hat da u), (p.ell + u, hat db u)]
    intt p.logn q psi ((List.range n).map fun i => terms.foldl (fun t x => (t + x.2.getD i 0 * row x.1 h j i) % q) 0)
  let add : Nat → List (List Nat) → List (List Nat) := fun h ps => (List.range p.l).map fun j =>
    let e := prod h j
    (List.range n).map fun i => ((ps.getD j []).getD i 0 + e.getD i 0) % p.prime j
  (add 0 a, add 1 b)

/-- R103: sample extraction and key switching. -/
def extract (s : State) (p : ParamSet) (die : Nat) (a b : List (List Nat)) : List Nat :=
  let n := p.deg
  let part : Nat → Nat → Nat := fun k j =>
    let x := a.getD j []
    if k = 0 then x.getD 0 0 else modQ (-(x.getD (n - k) 0 : Nat)) (p.prime j)
  keySwitch s p die ((List.range n).map fun k => crt ((List.range p.l).map fun j => (part k j, p.prime j)))
    fun j i => if i = p.n then (b.getD j []).getD 0 0 else 0

/-! ### CREF, CRGO and CRWAIT (R226 to R228) -/

/-- R106: bytes an accumulator takes. -/
def accBytes (p : ParamSet) : Nat := 8 * p.deg * p.l

/-- R106: the store has room for one more accumulator of the hart. Accumulators of sets of different size share it byte
by byte (DESIGN CHOICE, notes/assumptions/59.md). -/
def accRoom (s : State) (p : ParamSet) : Bool :=
  decide ((s.core.accs.foldl (fun n a => n + accBytes a.set) 0) + accBytes p ≤ 786432)
    && decide ((s.core.accs.filter (·.hart == s.hart.id)).length < 16)

/-- R107: the forming pass of a key set on the core. -/
def formingPass (s : State) (handle : Nat) : Option Nat :=
  (s.core.passes.find? fun p => p.forming && p.handle == handle).map (·.id)

/-- R105: the enqueue of a refresh. -/
def enqueueRef (d a : Fin 16) (k : Fin 4) (t : TableReg) (s : State) : State :=
  let h := s.hart
  let slot := h.keys[k]
  let p := slot.set
  let hd := h.chdr[a]
  let rot := rotations p (hdrLevel hd) (payload h a (hdrPwords hd))
  let w := h.world.val
  let pass := formingPass s slot.handle
  let acc : Acc :=
    { hart := h.id, creg := d, slot := k, handle := slot.handle, set := p, ktag := hdrKtag hd, psid := hdrPsid hd, world := w
      rot := rot, a := List.replicate p.l (List.replicate p.deg 0)
      b := (List.range p.l).map fun j => rotatePoly p.deg (p.prime j) (2 * p.deg - rot.getD p.n 0) (polyPart p t.poly j)
      pass := pass }
  let s1 := putHdr d (mkHdr 2 p.l (hdrPsid hd) 2 (hdrKtag hd) p.nvBoot w ((p.n + 1) * p.l)) (s.onCore fun c => { c with accs := c.accs ++ [acc] })
  if pass.isNone && decide (16 ≤ (s1.core.accs.filter fun x => x.hart == h.id && x.pass.isNone && x.handle == slot.handle).length)
  then startPass slot.handle s1 else s1

/-- CREF in the vector queue. -/
def opCref (d a : Fin 16) (t : Fin 4) : VOp :=
  { i := .cref d a t, crefs := [d, a], vector := false, deleg := true
    effect := fun _ s =>
      let h := s.hart
      match sources h d [a] with
      | .error e => .error e
      | .ok p =>
        let hd := h.chdr[a]
        let tab := s.core.tables[t]
        if !tab.valid || tab.world != h.world.val then cfail 0x0D 4 0 d
        else if tab.ktag ≠ hdrKtag hd ∨ tab.psid ≠ hdrPsid hd then cfail 0x0B 2 (tab.ktag * 256 + tab.psid) d
        else
          afterCheck4 d p ((p.n + 1) * p.l) p.nvBoot
            (if p.nvInmax < hdrNv hd then cfail 0x0A 2 (hdrNv hd) d else .ok ())
            (fun s' =>
              match payTrap s'.hart [a] with
              | some tr => fail tr
              | none =>
                match governing h (hdrKtag hd) (hdrPsid hd) with
                | none => calm s'
                | some k => if accRoom s' p then calm (enqueueRef d a k tab s') else .error (.wait (startOpen (fun _ => true) s'))) s }

/-- R105, R226: CREF. -/
def execCref (d a : Fin 16) (t : Fin 4) (s : State) : Out := .next (vector (opCref d a t) s)

/-- CRGO in the vector queue. -/
def opCrgo : VOp := { i := .crgo, vector := false, effect := fun _ s => calm (startHartBatches s) }

/-- R227: CRGO. -/
def execCrgo (s : State) : Out := .next (vector opCrgo s)

/-- CRWAIT in the vector queue. -/
def opCrwait : VOp :=
  { i := .crwait, vector := false, deleg := true
    effect := fun _ s =>
      let s1 := startHartBatches s
      if refreshPending s1 then .error (.wait s1)
      else
        match failureAt s1.hart with
        | some d => .error (.cut (deferredTrap s1.hart d) (clearFail d s1))
        | none => calm s1 }

/-- R228, R408: CRWAIT. -/
def execCrwait (s : State) : Out := .next (vector opCrwait s)

/-! ### Passes (R107 to R109, R405 to R408) -/

/-- The pass `n` of the core in focus. -/
def corePass (n : Nat) (s : State) : Option CorePass := s.core.passes.find? (·.id == n)

/-- A pass of the core changed. -/
def onPass (n : Nat) (f : CorePass → CorePass) (s : State) : State :=
  s.onCore fun c => { c with passes := c.passes.map fun p => if p.id = n then f p else p }

/-- R107: PASS_FORMING_END. -/
def execPassFormingEnd (c n : Nat) (s : State) : Out := .next (asCore c (onPass n fun p => { p with forming := false }) s)

/-- R108: key elements of a Halyard pass. -/
def HalyardPass.total (p : HalyardPass) : Nat := max 1 p.set.n

/-- R108: a Halyard pass that streams: it counts among the four until its last element has been issued
(DESIGN CHOICE, notes/assumptions/59.md). -/
def HalyardPass.streams (p : HalyardPass) : Bool := p.open' && decide (p.issued < p.total)

/-- A Halyard pass of the die in focus changed. -/
def onHalyard (n : Nat) (f : HalyardPass → HalyardPass) (s : State) : State :=
  s.onDie fun d => { d with passes := d.passes.map fun p => if p.id = n then f p else p }

/-- The harts whose refreshes a Halyard pass serves. -/
def passHarts (p : HalyardPass) (s : State) : List Nat :=
  (p.subscribers.flatMap fun cn => ((coreAt cn.1 s).accs.filter fun a => a.pass == some cn.2).map (·.hart)).eraseDups

/-- R300: a read of key material is a V access of the harts it serves, and waits for their transfers, streams and queries
that are to touch it. -/
def keyHeld (hs : List Nat) (keys : List Nat) (s : State) : Bool :=
  hs.any fun h => (focus h s).any fun t =>
    interlocked { reqOf t .load .vector .neither with order := some t.hart.xferCount } keys t

/-- The blocks of a table entry, as the interlock compares them. -/
def entryKeys (s : State) (die handle : Nat) : List Nat := (List.range 4).map fun k => entryPlace s die handle + 64 * k

/-- R108, R405, R406: waiting Halyard passes open while fewer than four stream: the engine reads the table entry, once no
earlier access of a hart it serves is to write it. They are tried when a pass comes to wait, and when a core's pass ends
(DESIGN CHOICE, notes/assumptions/59.md). -/
def openWaiting : Nat → State → State
  | 0, s => s
  | k + 1, s =>
    match s.die.passes.find? fun p => !p.open' with
    | none => s
    | some p =>
      if 4 ≤ (s.die.passes.filter HalyardPass.streams).length then s
      else if keyHeld (passHarts p s) (entryKeys s s.die.id p.handle) s then
        let e := Instr.halyardElementIssue s.die.id p.id
        if s.agenda.contains e then s else later [e] s
      else
        let bad := keyBad s [entryPlace s s.die.id p.handle]
        let set := readEntry s s.die.id p.handle
        openWaiting k (due [Instr.halyardElementIssue s.die.id p.id]
          (onHalyard p.id (fun q => { q with open' := true, set := set, entryBad := bad }) s))

/-- R108: the subscription of pass `n` of core `c` reaches the engine of the die in focus. -/
def subscribeAct (c n handle : Nat) (s : State) : State :=
  match s.die.passes.find? fun p => p.handle == handle && p.issued == 0 with
  | some p => onHalyard p.id (fun q => { q with subscribers := q.subscribers ++ [(c, n)] }) s
  | none =>
    let id := s.die.passCount
    let p : HalyardPass := { id := id, handle := handle, open' := false, set := {}, entryBad := false, issued := 0, subscribers := [(c, n)] }
    openWaiting 1 (s.onDie fun d => { d with passCount := id + 1, passes := d.passes ++ [p] })

/-- R108: HALYARD_SUBSCRIBE. -/
def execHalyardSubscribe (c n : Nat) (s : State) : Out :=
  .next (asCore c (fun s =>
    match corePass n s with
    | none => s
    | some p =>
      if p.subscribed then s
      else asDie (dieOfCore c) (subscribeAct c n p.handle) (onPass n (fun p => { p with subscribed := true }) s)) s)

/-- R407: the refresh of an accumulator fails; its hart sees it. -/
def failRefresh (code : Fin 4) (hdr : BitVec 32) (a : Acc) (s : State) : State :=
  asHart a.hart (fun s => s.onHart fun h =>
    { h with chdr := h.chdr.set a.creg 0, crerr := h.crerr.set a.creg code, failHdr := h.failHdr.set a.creg hdr, latch := true }) s

/-- R407: the accumulators of pass `n` of the core in focus that satisfy a test fail. -/
def failAccs (n : Nat) (code : Fin 4) (hdr : BitVec 32) (p : Acc → Bool) (s : State) : State :=
  let gone := s.core.accs.filter fun a => a.pass == some n && p a
  let c := s.core.id
  let s1 := s.onCore fun k => { k with accs := k.accs.filter fun a => !(a.pass == some n && p a) }
  gone.foldl (fun s a => asCore c (fun s => failRefresh code hdr a s) s) s1

/-- R405: the header that comes with element 0, as R408 reports it. -/
def passHeader (p : ParamSet) : BitVec 32 := BitVec.ofNat 32 (p.ktag % 2 ^ 16 * 2 ^ 16 + p.psid % 256 * 256 + p.valid % 2)

/-- R405: the header agrees with the slot copy of an accumulator. -/
def headerAgrees (p q : ParamSet) : Bool :=
  p.valid == 1 && p.ktag == q.ktag && p.psid == q.psid && p.valid == q.valid && p.logn == q.logn && p.logp == q.logp && p.n == q.n
    && p.l == q.l && p.beta == q.beta && p.ell == q.ell && p.betaks == q.betaks && p.ellks == q.ellks && p.primes == q.primes

/-- R108: the Halyard pass that serves pass `n` of core `c`. -/
def servingPass (c n : Nat) (s : State) : Option HalyardPass :=
  (dieAt (dieOfCore c) s).passes.find? fun p => p.subscribers.contains (c, n)

/-- The end of pass `n` of core `c`: it leaves its Halyard pass, and a waiting one may open. -/
def endPass (c n : Nat) (s : State) : State :=
  let s1 := asCore c (fun s => s.onCore fun k => { k with passes := k.passes.filter (·.id != n) }) s
  asDie (dieOfCore c) (fun s =>
    openWaiting 4 (s.onDie fun d =>
      { d with passes := (d.passes.map fun p => { p with subscribers := p.subscribers.filter (· != (c, n)) }).filter
                 fun p => !p.subscribers.isEmpty })) s1

/-- R406: a Halyard pass stops at a key material error: every refresh of it fails on every core. -/
def failHalyard (p : HalyardPass) (s : State) : State :=
  p.subscribers.foldl (fun s cn => endPass cn.1 cn.2 (asCore cn.1 (failAccs cn.2 2 0 fun _ => true) s)) s

/-- R100: bytes of a key element. -/
def elementBytes (p : ParamSet) : Nat := 16 * p.ell * p.deg * p.l

/-- R100, R108: the places of element `i`; a set with no element has none. -/
def elementPlaces (s : State) (die : Nat) (p : ParamSet) (i : Nat) : List Nat :=
  if p.n = 0 then [] else keyPlaces s die p.bskLoc (i * elementBytes p) (elementBytes p)

/-- R100: the words of element `i`. -/
def elementWords (s : State) (die : Nat) (p : ParamSet) (i : Nat) : List Nat :=
  if p.n = 0 then [] else (List.range (elementBytes p / 4)).map fun k => keyWord s die p.bskLoc (i * (elementBytes p / 4) + k)

/-- R108: a subscribed core has buffer room for one more element. -/
def hasRoom (cn : Nat × Nat) (s : State) : Bool :=
  ((coreAt cn.1 s).passes.find? (·.id == cn.2)).all fun p => decide (p.buffered.length < 2)

/-- R15, R108: an element read once and issued to every subscriber of the die in focus. An event for a pass that waits is
another try to open it (R300). -/
def issueAct (n : Nat) (s : State) : State :=
  match s.die.passes.find? (·.id == n) with
  | none => s
  | some p =>
    let i := p.issued
    let places := elementPlaces s s.die.id p.set i
    if !p.open' then openWaiting 4 s
    else if !p.streams then s
    else if p.entryBad ∨ keyBad s places then failHalyard p s
    else if (p.subscribers.all fun cn => hasRoom cn s) && !keyHeld (passHarts p s) places s then
      let words := elementWords s s.die.id p.set i
      let s1 := onHalyard n (fun q => { q with issued := i + 1 }) s
      let s2 := p.subscribers.foldl (fun s cn => asCore cn.1 (onPass cn.2 fun q => { q with buffered := q.buffered ++ [(i, words)] }) s) s1
      let arrivals := p.subscribers.map fun cn => Instr.keyElementArrival cn.1 cn.2
      due (arrivals ++ if i + 1 < p.total then [Instr.halyardElementIssue s.die.id n] else []) s2
    else later [Instr.halyardElementIssue s.die.id n] s

/-- R108: HALYARD_ELEMENT_ISSUE. -/
def execHalyardElementIssue (d n : Nat) (s : State) : Out := .next (asDie d (issueAct n) s)

/-- The next in a rotation that has reached `turn`, of ascending numbers. -/
def nextInTurn (turn : Nat) (ns : List Nat) : Option Nat := (ns.find? fun n => decide (turn ≤ n)).or ns.head?

/-- R313: the passes of a core with an element to take. -/
def waitingPasses (c : Core) : List Nat := (c.passes.filter fun p => !p.buffered.isEmpty).map (·.id)

/-- R103, R313, R405: the core in focus takes the element at the head of the buffer of pass `n`, in its turn among the
passes. -/
def arriveAct (n : Nat) (s : State) : State :=
  match corePass n s, servingPass s.core.id n s with
  | some p, some hp =>
    match p.buffered with
    | [] => s
    | (i, words) :: rest =>
      if nextInTurn s.core.passTurn (waitingPasses s.core) ≠ some n then due [Instr.keyElementArrival s.core.id n] s else
      let s0 := (onPass n (fun p => { p with buffered := rest, step := i + 1, forming := false }) s).onCore fun c =>
        { c with passTurn := n + 1 }
      let s1 := if i = 0 then failAccs n 1 (passHeader hp.set) (fun a => !headerAgrees hp.set a.set) s0 else s0
      let s2 := failAccs n 3 0 (·.bad) s1
      let step : Acc → Acc := fun a =>
        if a.pass = some n ∧ i < a.set.n then
          let r := stepPair hp.set words (a.rot.getD i 0) a.a a.b
          { a with a := r.1, b := r.2 }
        else a
      let s3 := s2.onCore fun c => { c with accs := c.accs.map step }
      if i + 1 = hp.total then due [Instr.keyPassEnd s.core.id n] s3 else s3
  | _, _ => s

/-- R108: KEY_ELEMENT_ARRIVAL. -/
def execKeyElementArrival (c n : Nat) (s : State) : Out := .next (asCore c (arriveAct n) s)

/-- R100: the places of the key-switching key of a set. -/
def switchPlaces (s : State) (p : ParamSet) : List Nat :=
  keyPlaces s (dieOfCore s.core.id) p.kskLoc 0 (4 * p.deg * p.ellks * (p.n + 1) * p.l)

/-- R109, R407: a refresh completes in its hart. -/
def completeRefresh (ws : List Nat) (a : Acc) (s : State) : State :=
  asHart a.hart (fun s =>
    (putHdr a.creg (mkHdr 1 a.set.l a.psid 2 a.ktag a.set.nvBoot a.world ((a.set.n + 1) * a.set.l))
      (putWords a.creg ws (unbind (payReg a.creg) s))).onHart fun h => { h with latch := true }) s

/-- R300: the key switching that ends a pass waits for accesses of the harts it serves that are to write its key. -/
def passEndHeld (n : Nat) (s : State) : Bool :=
  (servingPass s.core.id n s).any fun hp =>
    keyHeld ((s.core.accs.filter fun a => a.pass == some n).map (·.hart)).eraseDups (switchPlaces s hp.set) s

/-- R109, R406: the pass ends on the core in focus. An error of the key-switching key is one of key material: every refresh of
the pass fails on every core. -/
def passEndAct (n : Nat) (s : State) : State :=
  match corePass n s, servingPass s.core.id n s with
  | some p, some hp =>
    if p.step < hp.total then s
    else if passEndHeld n s then later [Instr.keyPassEnd s.core.id n] s else
    let c := s.core.id
    let set := hp.set
    let s1 := failAccs n 3 0 (·.bad) s
    let live := s1.core.accs.filter fun a => a.pass == some n
    if !live.isEmpty && keyBad s1 (switchPlaces s1 set) then
      failHalyard hp s1
    else
      let s2 := live.foldl (fun t a => asCore c (completeRefresh (extract s1 set (dieOfCore c) a.a a.b) a) t) s1
      endPass c n (asCore c (fun s => s.onCore fun k => { k with accs := k.accs.filter fun a => a.pass != some n }) s2)
  | _, _ => s

/-- R109: KEY_PASS_END. -/
def execKeyPassEnd (c n : Nat) (s : State) : Out := .next (asCore c (passEndAct n) s)

/-! ### Key slots, tables and moduli (R230 to R235) -/

/-- R99: refreshes of the hart pending under a slot. -/
def slotPending (s : State) (k : Fin 4) : Bool := s.core.accs.any fun a => a.hart == s.hart.id && a.slot == k

/-- KBIND in the vector queue. -/
def opKbind (k : Fin 4) (a : Fin 32) : VOp :=
  { i := .kbind k a, xsrc := [a], vector := false, deleg := true
    effect := fun c s =>
      let x := (c.x a).toNat
      let die := dieOfCore s.core.id
      let e := readEntry s die (x % 256)
      let r := reqOf s .load .vector .neither
      let bad : Except Stop (State × List Word) := cfail 0x0D 5 (x % 2 ^ 32) 0
      if slotPending s k then .error (.wait s)
      else if 256 ≤ x then bad
      else if interlocked r (entryKeys s die x) s then .error (.wait s)
      else if keyBad s [entryPlace s die x] then fail { cause := 0x09, tval := Word.ofNat (2 ^ 63 + 4 * 2 ^ 60) }
      else if e.valid ≠ 1 ∨ e.part ≠ s.hart.part ∨ e.usable = false then bad
      else calm (s.onHart fun h => { h with keys := h.keys.set k { bound := true, handle := x, set := e } }) }

/-- R231, R300: KBIND. -/
def execKbind (k : Fin 4) (a : Fin 32) (s : State) : Out := .next (vector (opKbind k a) s)

/-- KUNBIND in the vector queue. -/
def opKunbind (k : Fin 4) : VOp :=
  { i := .kunbind k, vector := false
    effect := fun _ s =>
      if slotPending s k then .error (.wait s) else calm (s.onHart fun h => { h with keys := h.keys.set k {} }) }

/-- R232: KUNBIND. -/
def execKunbind (k : Fin 4) (s : State) : Out := .next (vector (opKunbind k) s)

/-- R101: the test polynomial of function values. -/
def testPoly (p : ParamSet) (f : Nat → Int) : List Nat :=
  let t := 2 ^ p.logp / 2
  let b := p.deg / t
  (List.range p.l).flatMap fun j => (List.range p.deg).map fun i =>
    let m := (i + b / 2) / b
    modQ (if m < t then (p.delta p.l : Nat) * f m else -((p.delta p.l : Nat) * f 0)) (p.prime j)

/-- A table register of the core replaced. -/
def putTable (t : Fin 4) (x : TableReg) (s : State) : State := s.onCore fun c => { c with tables := c.tables.set t x }

/-- R236: a table register that is valid under another world. -/
def foreignTable (s : State) (t : Fin 4) : Bool := (s.core.tables[t]).valid && (s.core.tables[t]).world != s.hart.world.val

/-- TLOAD in the vector queue. -/
def opTload (t : Fin 4) (a : Fin 32) (k : Fin 4) : VOp :=
  { i := .tload t a k, xsrc := [a], vector := false, deleg := true
    effect := fun c s =>
      let slot := s.hart.keys[k]
      let p := slot.set
      if !slot.bound then cfail 0x0B 4 0 0
      else if 8192 < p.deg * p.l ∨ foreignTable s t then cfail 0x0D 6 0 0
      else if !aligned (c.x a) 2 then fail { cause := 0x03, tval := c.x a }
      else
        match loadBytes (reqOf s .load .vector .neither) (c.x a) (2 ^ p.logp) s with
        | .error e => .error e
        | .ok (bs, s1) =>
          let f : Nat → Int := fun m => sextN 16 (fieldAt bs (2 * m) 2)
          calm (putTable t { valid := true, ktag := p.ktag, psid := p.psid, level := p.l, world := s.hart.world.val
                             values := (List.range (2 ^ p.logp / 2)).map f, poly := testPoly p f } s1) }

/-- R233: TLOAD. -/
def execTload (t : Fin 4) (a : Fin 32) (k : Fin 4) (s : State) : Out := .next (vector (opTload t a k) s)

/-- TCLR in the vector queue; the privilege it checks is that of the hart. -/
def opTclr (t : Fin 4) : VOp :=
  { i := .tclr t, vector := false, deleg := true
    effect := fun _ s => if s.hart.priv = .u ∧ foreignTable s t then cfail 0x0D 6 0 0 else calm (putTable t {} s) }

/-- R234: TCLR. -/
def execTclr (t : Fin 4) (s : State) : Out := .next (vector (opTclr t) s)

/-- QMSET in the vector queue. -/
def opQmset (j : Fin 4) (a : Fin 32) : VOp :=
  { i := .qmset j a, xsrc := [a], vector := false, deleg := true
    effect := fun c s =>
      let x := (c.x a).toNat
      if 2 ^ 31 ≤ x ∨ x % 2 = 0 ∨ x < 17 then cfail 0x0D 7 (x % 2 ^ 32) 0
      else calm (s.onHart fun h => { h with qm := h.qm.set j x }) }

/-- R235: QMSET. -/
def execQmset (j : Fin 4) (a : Fin 32) (s : State) : Out := .next (vector (opQmset j a) s)

end

end Sys2Proof.Machine
end

