-- ==== Sys2Proof/Machine/Streams.lean ====
section
/-!
DEFINITION. Stream slots (02_execution.md R52, 10_isa_matrix.md R251 to R256, 20 R392, 21 R409).
-/
namespace Sys2Proof.Machine

noncomputable section

/-! ### Stream control blocks (R251) -/

/-- R251: a stream control block from its 128 bytes. -/
def scbOf (bs : List Byte) : Scb :=
  { kind := fieldAt bs 0 1, flags := fieldAt bs 1 1, logn := fieldAt bs 2 1, wa := fieldAt bs 3 1, q := fieldAt bs 4 4
    psi := fieldAt bs 8 4, nin := fieldAt bs 0x0C 2, count := fieldAt bs 0x10 8, prog := fieldAt bs 0x18 8
    src0 := Word.ofNat (fieldAt bs 0x20 8), str0 := Word.ofNat (fieldAt bs 0x28 8), src1 := Word.ofNat (fieldAt bs 0x30 8)
    str1 := Word.ofNat (fieldAt bs 0x38 8), dst := Word.ofNat (fieldAt bs 0x40 8), strd := Word.ofNat (fieldAt bs 0x48 8) }

/-- R251, R392: a block that SOPEN accepts. -/
def scbOk (bs : List Byte) : Bool :=
  let b := scbOf bs
  let qOk := b.q % 2 == 1 && decide (17 ≤ b.q) && decide (b.q < 2 ^ 31)
  decide (b.kind ≤ 3) && b.flags / 2 == 0 && zeroAt bs 0x0E 2 && zeroAt bs 0x50 48
    && (if b.kind = 3 then within b.wa 1 16 && decide (1 ≤ b.nin) else within b.logn 1 16 && qOk)
    && (2 ≤ b.kind || (decide (1 ≤ b.psi) && decide (b.psi < b.q) && powMod b.q 32 b.psi (2 ^ b.logn) == b.q - 1))

/-- R251: the progress at which a stream ends. -/
def Scb.endAt (b : Scb) : Nat := if b.kind = 2 then b.count * 2 ^ b.logn else b.count

/-- R386: cause 0x14. -/
def scbTrap (addr : Word) (k : Fin 4) : Trap := { cause := 0x14, tval := (addr &&& ~~~63#64) ||| Word.ofNat k.val }

/-- A stream slot of the hart changed. -/
def onSlot (k : Fin 4) (f : StreamSlot → StreamSlot) (s : State) : State :=
  s.onHart fun h => { h with streams := h.streams.set k (f h.streams[k]) }

/-! ### SOPEN, SRUN, SWAIT, SSAVE (R255) -/

/-- SOPEN in the vector queue. -/
def opSopen (k : Fin 4) (a : Fin 32) : VOp :=
  { i := .sopen k a, xsrc := [a], vector := false
    effect := fun c s =>
      let va := c.x a
      if (s.hart.streams[k]).state = .running then .error (.wait s)
      else if !aligned va 64 then fail { cause := 0x03, tval := va }
      else
        match loadBytes (reqOf s .load .vector .neither) va 128 s with
        | .error e => .error e
        | .ok (bs, s1) =>
          if scbOk bs then quiet (onSlot k (fun sl => { sl with state := .opened, scb := scbOf bs, gov := none }) s1) else fail (scbTrap va k) }

/-- R255, R392: SOPEN. -/
def execSopen (k : Fin 4) (a : Fin 32) (s : State) : Out := .next (vector (opSopen k a) s)

/-- SRUN in the vector queue. -/
def opSrun (k : Fin 4) : VOp :=
  { i := .srun k, vector := false
    effect := fun _ s =>
      let sl := s.hart.streams[k]
      match sl.state with
      | .empty => fail (scbTrap 0 k)
      | .opened =>
        if sl.scb.endAt ≤ sl.scb.prog then quiet (onSlot k (fun sl => { sl with state := .done }) s)
        else if 32 ≤ entriesHeld s then .error (.wait s)
        else
          quiet (due [Instr.streamElementComplete s.hart.id k]
            ((onSlot k (fun sl => { sl with state := .running, order := s.hart.xferCount, gov := none }) s).onHart fun h =>
              { h with xferCount := h.xferCount + 1 }))
      | .running => quiet s
      | .done => quiet s }

/-- R255: SRUN. -/
def execSrun (k : Fin 4) (s : State) : Out := .next (vector (opSrun k) s)

/-- SWAIT in the vector queue. -/
def opSwait (k : Fin 4) : VOp :=
  { i := .swait k, vector := false
    effect := fun _ s =>
      let sl := s.hart.streams[k]
      if sl.state = .running then
        if sl.scb.kind = 3 ∧ claims s then fail (illegal (.swait k) 5 0) else .error (.wait s)
      else quiet s }

/-- R255, R387: SWAIT. -/
def execSwait (k : Fin 4) (s : State) : Out := .next (vector (opSwait k) s)

/-- SSAVE in the vector queue: a running stream stops after its current element. -/
def opSsave (k : Fin 4) (a : Fin 32) : VOp :=
  { i := .ssave k a, xsrc := [a], vector := false
    effect := fun c s =>
      let sl := s.hart.streams[k]
      let va := c.x a
      if sl.state = .empty then fail (scbTrap 0 k)
      else if !aligned va 64 then fail { cause := 0x03, tval := va }
      else
        match storeObject (reqOf s .store .vector .neither) va (scbBytes sl.scb) (onSlot k (fun _ => {}) s) with
        | .error (.wait t) => .error (.wait (keepWait s t))
        | .error e => .error e
        | .ok s1 => quiet s1 }

/-- R255: SSAVE. -/
def execSsave (k : Fin 4) (a : Fin 32) (s : State) : Out := .next (vector (opSsave k a) s)

/-! ### Elements (R252 to R254) -/

/-- R256: the request of a running stream. -/
def streamReq (s : State) (sl : StreamSlot) (k : AccKind) : Req := { reqOf s k .port .neither with order := some sl.order }

/-- R251: the address of a polynomial, image or row. -/
def streamAddr (base stride : Word) (c : Nat) : Word := base + BitVec.ofNat 64 c * stride

/-- R251: the words of a polynomial, at any byte address (DESIGN CHOICE, notes/assumptions/66.md). -/
def loadPoly (r : Req) (va : Word) (n : Nat) (s : State) : Except Stop (List Nat × State) :=
  match loadBytes r va (4 * n) s with
  | .error e => .error e
  | .ok (bs, s1) => .ok (payWords bs, s1)

/-- R252: one polynomial transformed. -/
def transformElement (sl : StreamSlot) (s : State) : Except Stop State :=
  let b := sl.scb
  match loadPoly (streamReq s sl .load) (streamAddr b.src0 b.str0 b.prog) (2 ^ b.logn) s with
  | .error e => .error e
  | .ok (ws, s1) =>
    let a := ws.map (· % b.q)
    let out := if b.kind = 0 then ntt b.logn b.q b.psi a else intt b.logn b.q b.psi a
    storeObject (streamReq s1 sl .store) (streamAddr b.dst b.strd b.prog) (out.flatMap (leBytes 4)) s1

/-- R253: one coefficient of a PMAC. -/
def pmacElement (sl : StreamSlot) (s : State) : Except Stop State :=
  let b := sl.scb
  let c := b.prog / 2 ^ b.logn
  let off := BitVec.ofNat 64 (4 * (b.prog % 2 ^ b.logn))
  let rd := streamReq s sl .load
  let dst := streamAddr b.dst b.strd c + off
  match loadPoly rd (streamAddr b.src0 b.str0 c + off) 1 s with
  | .error e => .error e
  | .ok (x, s1) =>
    match loadPoly rd (streamAddr b.src1 b.str1 c + off) 1 s1 with
    | .error e => .error e
    | .ok (y, s2) =>
      match (if b.flags % 2 = 1 then loadPoly rd dst 1 s2 else .ok ([0], s2)) with
      | .error e => .error e
      | .ok (d, s3) =>
        storeObject (streamReq s3 sl .store) dst (leBytes 4 ((d.headD 0 + x.headD 0 * y.headD 0) % b.q)) s3

/-- R254: one input image of a CLIN stream: its header, words and set. -/
structure ClinInput where
  hdr : BitVec 128
  words : List Nat
  set : ParamSet
  deriving DecidableEq, Repr

/-- R254: the set that governs an image of a CLIN stream: that of the slot found when SRUN first read its images, if it
has read them. -/
def clinSet (sl : StreamSlot) (h : Hart) (ktag psid : Nat) : Option ParamSet :=
  match sl.gov with
  | none => governingSet h ktag psid
  | some p => if p.ktag = ktag ∧ p.psid = psid then some p else none

/-- R254, R409: the inputs read and tested in order (DEDUCED, notes/assumptions/29.md). -/
def clinInputs (sl : StreamSlot) : List Nat → State → Except Stop (List ClinInput × State)
  | [], s => .ok ([], s)
  | i :: is, s =>
    let va := streamAddr sl.scb.src0 sl.scb.str0 i
    match readImage (streamReq s sl .load) va s with
    | .error e => .error e
    | .ok (head, pay, s1) =>
      match imageTestsBy (clinSet sl s1.hart) s1 head pay with
      | .error f => fail (f.trap va 0)
      | .ok set =>
        match clinInputs sl is s1 with
        | .error e => .error e
        | .ok (xs, s2) => .ok ({ hdr := BitVec.ofNat 128 (fieldAt head 0 16), words := payWords pay, set := set } :: xs, s2)

/-- R254: what a stream needs of the set that governs its images. -/
def ParamSet.forImages (p : ParamSet) : ParamSet :=
  { ktag := p.ktag, psid := p.psid, l := p.l, n := p.n, nvMax := p.nvMax, primes := p.primes }

/-- R254: output `o` of the CLIN stream in slot `k`. -/
def clinElement (k : Fin 4) (s : State) : Except Stop State :=
  let sl := s.hart.streams[k]
  let b := sl.scb
  match clinInputs sl (List.range b.nin) s with
  | .error e => .error e
  | .ok ([], s1) => .ok s1
  | .ok (x :: xs, s1) =>
    if xs.any fun y => hdrPsid y.hdr != hdrPsid x.hdr || hdrKtag y.hdr != hdrKtag x.hdr || hdrLevel y.hdr != hdrLevel x.hdr then
      fail { cause := 0x0D, tval := cipherVal 0 8 0 false }
    else
      match loadBytes (streamReq s1 sl .load) (streamAddr b.src1 b.str1 b.prog) (ceilDiv (b.nin * b.wa) 8) s1 with
      | .error e => .error e
      | .ok (row, s2) =>
        let ws : List Int := (List.range b.nin).map fun i => sextN b.wa (getField (leNat row) b.wa i)
        let ins := x :: xs
        let nv := clampNv ((ws.zip ins).foldl (fun n p => n + p.1.natAbs ^ 2 * hdrNv p.2.hdr) 0)
        if x.set.nvMax < nv then fail { cause := 0x0A, tval := cipherVal nv 3 0 false }
        else
          let l := hdrLevel x.hdr
          let n1 := x.set.n + 1
          let out := words x.set l fun j i =>
            modQ ((ws.zip ins).foldl (fun (t : Int) p => t + p.1 * (p.2.words.getD (j * n1 + i) 0 : Nat)) 0) (x.set.prime j)
          let hdr := mkHdr 1 l (hdrPsid x.hdr) 0 (hdrKtag x.hdr) nv s2.hart.world.val (n1 * l)
          let dst := streamAddr b.dst b.strd b.prog
          if !aligned dst 64 then fail { cause := 0x03, tval := dst }
          else
          storeObject (streamReq s2 sl .store) dst (imageBytes s2 hdr out)
            (onSlot k (fun sl => { sl with gov := some x.set.forImages }) s2)

/-- R381, R409: a stream stops with a fault, which is delivered with ENGINE and the slot as MEMBER. -/
def streamFail (k : Fin 4) (t : Trap) (s : State) : State :=
  let n := (s.hart.streams[k]).order
  holdFault n { t with member := k.val } (forget (.engine n) (onSlot k (fun sl => { sl with state := .opened }) s))

/-- R313: the running streams of the core in focus whose next element is due, `n` being slot n % 4 of its hart n / 4;
`me` is the one whose event is at hand. CLIN streams take turns among themselves. -/
def readyStreams (clin : Bool) (me : Nat) (s : State) : List Nat :=
  (List.range 16).filter fun n =>
    let id := 4 * s.core.id + n / 4
    let k := Fin.ofNat 4 n
    (s.hart :: s.harts).any fun h => h.id == id && (h.streams[k]).state == SlotState.running
      && (decide ((h.streams[k]).scb.kind = 3) == clin) && (n == me || s.agenda.contains (.streamElementComplete id k))

/-- R313: a stream of a core has had its turn. -/
def turnTaken (clin : Bool) (me : Nat) (s : State) : State :=
  s.onCore fun c => if clin then { c with clinTurn := me + 1 } else { c with streamTurn := me + 1 }

/-- R313: key pass work of the core that goes before the work of a stream. -/
def passWork (s : State) : Bool :=
  s.core.passes.any fun p => !p.buffered.isEmpty
    || (s.agenda.contains (.keyPassEnd s.core.id p.id) && !passEndHeld p.id s)

/-- R251 to R254: an element of a running stream of the hart in focus is done. CLIN streams run only while no hart of
the core holds the matrix claim (R237), the others only where no pass does (R313). -/
def elementAct (k : Fin 4) (s : State) : State :=
  let sl := s.hart.streams[k]
  let clin := decide (sl.scb.kind = 3)
  let me := s.hart.id % 4 * 4 + k.val
  let e := Instr.streamElementComplete s.hart.id k
  if sl.state ≠ .running then s
  else if clin ∧ s.core.matrix.owner.isSome then later [e] s
  else if nextInTurn (if clin then s.core.clinTurn else s.core.streamTurn) (readyStreams clin me s) ≠ some me
    ∨ (!clin ∧ passWork s) then due [e] s
  else
    let s := turnTaken clin me s
    match (if clin then clinElement k s else if sl.scb.kind = 2 then pmacElement sl s else transformElement sl s) with
    | .ok t =>
      let p := sl.scb.prog + 1
      let t1 := onSlot k (fun x =>
        { x with scb := { x.scb with prog := p }, state := if sl.scb.endAt ≤ p then .done else .running }) (forget (.engine sl.order) t)
      if sl.scb.endAt ≤ p then t1 else due [e] t1
    | .error (.trap t _) => streamFail k t s
    | .error (.cut t _) => streamFail k t s
    | .error (.trim _) => s
    | .error (.wait t) => later [e] (keepWait s t)

/-- R251: STREAM_ELEMENT_COMPLETE. -/
def execStreamElementComplete (h : Nat) (k : Fin 4) (s : State) : Out := .next (asHart h (elementAct k) s)

end

end Sys2Proof.Machine
end

