-- ==== Sys2Proof/Machine/Sched.lean ====
section
/-!
DEFINITION. The scheduler (13_scheduling.md R301 to R314, 02_execution.md R54 to R56, 23 R436, R444): launch queues,
dependence counters, binding and retirement of harts, shadow slots, the governor and the token buckets.
-/
namespace Sys2Proof.Machine

noncomputable section

/-! ### Launch records (R54, R436) -/

/-- R302: the place of a field of launch queue `n` of partition `p`. -/
def queueKey (s : State) (p n off : Nat) : Nat := partKey s p (0x80 + 32 * n + off)

/-- R302: ENABLE. -/
def partEnabled (s : State) (p : Nat) : Bool := bitAt (peek (partKey s p 0) 1 s) 0

/-- R302: a queue that LOGSZ does not disable. -/
def logszOk (l : Nat) : Bool := decide (1 ≤ l) && decide (l ≤ 16)

/-- R54: a launch record from its 64 bytes. -/
def launchOf (bs : List Byte) : Launch :=
  { entry := Word.ofNat (fieldAt bs 0 8), args := Word.ofNat (fieldAt bs 8 8), depaddr := fieldAt bs 0x10 8, harts := fieldAt bs 0x18 2
    prio := fieldAt bs 0x1A 1 % 8, world := fieldAt bs 0x1B 1, queue := fieldAt bs 0x1C 1 % 16, doneaddr := fieldAt bs 0x20 8 }

/-- R436: a counter address that reason 5 refuses. -/
def counterBad (a : Nat) : Bool := a % 8 != 0 || decide (2 ^ 56 ≤ a)

/-- R436: the first of reasons 1 to 6 that refuses a record of queue `n`. -/
def recordReason (s : State) (n : Nat) (bs : List Byte) : Option Nat :=
  let r := launchOf bs
  if r.harts = 0 then some 1
  else if r.queue ≠ n then some 2
  else if fieldAt bs 0x1A 1 / 8 ≠ 0 ∨ fieldAt bs 0x1C 1 / 16 ≠ 0 ∨ !zeroAt bs 0x1D 3 ∨ !zeroAt bs 0x28 24 then some 3
  else if r.entry.toNat % 4 ≠ 0 then some 4
  else if counterBad r.depaddr ∨ counterBad r.doneaddr then some 5
  else if !worldOk s r.world then some 6
  else none

/-- R342: a record whose world's context lacks a share is not taken yet. -/
def lacksShare (s : State) (w : Nat) : Bool := w != 0 && (ctxOfWorld s w).any fun c => c.shareM.isNone || c.shareD.isNone

/-! ### Counters (R54, R444) -/

/-- The scheduler's request for a counter of a partition. -/
def counterReq (p : Nat) (k : AccKind) : Req :=
  { kind := k, agent := .engine, use := .neither, priv := .u, ptbase := 0, part := p, world := 0, hart := 512 }

/-- R54, R122: where a counter lies, by its global address. The command window holds none (R302). -/
def counterTarget (s : State) (p : Nat) (k : AccKind) (ga : Nat) : Except Stop (Target × State) :=
  if epOf ga < 1024 ∧ within (offOf ga) windowOff 0x10000000 then deny 0x07 (Word.ofNat ga)
  else placeTarget s (counterReq p k) (Word.ofNat ga) ga 0

/-- R427, R432: what stops an access is a port that is down: it meets no answer. -/
def noAnswer (e : Stop) : Bool :=
  match e with
  | .trap t _ => t.cause == 0x11
  | _ => false

/-- What an access to a counter comes to. -/
inductive Counter where
  | value (n : Nat)
  | silent
  | refused
  deriving DecidableEq, Repr

/-- The access gave a value. -/
def Counter.isValue : Counter → Bool
  | .value _ => true
  | _ => false

/-- R304, R436: a counter read, and the state in which its packet has left (R315). -/
def readCounter (s : State) (p ga : Nat) : Counter × State :=
  let r := counterReq p .load
  match counterTarget s p .load ga with
  | .error e => (if noAnswer e then .silent else .refused, leftStopped e s)
  | .ok (t, s') =>
    let u := sendRequest r t s
    if (keyTrap s' r 0 t 0 t.rd).isSome then (.refused, u)
    else if silent s' t.rd then (.silent, u)
    else (.value (readTarget t 8 s'), u)

/-- R444: a completion decrement is lost; that of a mailbox request (R337), under partition number 96, leaves no trace. -/
def loseDecrement (p q : Nat) (s : State) : State :=
  if 96 ≤ p then s else
  let d := queueKey s p q 0x0A
  poke (queueKey s p q 0x09) (leBytes 1 9) (poke d (leBytes 2 (peek d 2 s + 1)) s)

/-- R444: a completion decrement that met no answer is sent again later. -/
def resendDecrement (ga p q : Nat) (s : State) : State :=
  later [Instr.doneaddrResend ga] (s.onDev fun d => { d with resend := d.resend ++ [(ga, p, q)] })

/-- R54, R337, R444: a completion counter decremented, sent again later, or the decrement lost. -/
def decrementDone (ga p q : Nat) (s : State) : State :=
  let r := counterReq p .atomic
  match counterTarget s p .atomic ga with
  | .error e => if noAnswer e then resendDecrement ga p q s else loseDecrement p q (leftStopped e s)
  | .ok (t, s') =>
    if t.wr.any fun k => (keyTrap s' r 0 t 0 k).isSome then loseDecrement p q (sendRequest r t s)
    else if t.wr.any (silent s) then resendDecrement ga p q (sendRequest r t s)
    else writeTarget r t 0 (leBytes 8 (readTarget t 8 s' + 2 ^ 64 - 1)) (sendRequest r t s')

/-- R54: DONEADDR decremented; 0 means none. -/
def completeLaunch (ga p q : Nat) (s : State) : State := if ga = 0 then s else decrementDone ga p q s

/-- R444: DONEADDR_RESEND. -/
def execDoneaddrResend (addr : Nat) (s : State) : Out :=
  .next (let mine := s.dev.resend.filter (·.1 == addr)
         mine.foldl (fun s x => decrementDone x.1 x.2.1 x.2.2 s)
           (s.onDev fun d => { d with resend := d.resend.filter (·.1 != addr) }))

/-! ### Taking records (R304, R436) -/

/-- R436: a record refused: ERR, NREF, and the decrement of a trustworthy DONEADDR. -/
def refuseRecord (p : Nat) (q : Fin 16) (reason doneaddr : Nat) (s : State) : State :=
  let n := queueKey s p q.val 0x0C
  let s1 := poke (queueKey s p q.val 0x09) (leBytes 1 reason) (poke n (leBytes 4 (peek n 4 s + 1)) s)
  let s2 := if reason = 8 ∨ counterBad doneaddr then s1 else completeLaunch doneaddr p q.val s1
  due [Instr.takeLaunchRecord p q] s2

/-- R304: the head of a queue. -/
def headOf (s : State) (p q : Nat) : Option Head := s.dev.heads.find? fun h => h.part == p && h.queue == q

/-- A head of a queue changed. -/
def onHead (p q : Nat) (f : Head → Head) (s : State) : State :=
  s.onDev fun d => { d with heads := d.heads.map fun h => if h.part = p ∧ h.queue = q then f h else h }

/-- A head dropped. -/
def dropHead (p q : Nat) (s : State) : State :=
  s.onDev fun d => { d with heads := d.heads.filter fun h => !(h.part == p && h.queue == q) }

/-- R304: the record at a ring slot; none where it cannot be read. -/
def readRecord (s : State) (key : Nat) : Option (List Byte) :=
  if epOf key = s.dev.devid ∧ offOf key + 64 ≤ s.dev.capacity ∧ (storageTrap s 0 key 0).isNone ∧ (storageTrap s 0 (key + 63) 0).isNone
  then some (Memory.reads s.mem key 64) else none

/-- R301: the cores of a partition. -/
def partCores (s : State) (p : Nat) : List Nat := (List.range 96).filter fun c => bitAt (peek (partKey s p 0x10) 12 s) c

/-- R306: the empty shadow slots of a partition's cores come to be filled. -/
def shadowFills (s : State) (p : Nat) : List Instr :=
  (partCores s p).flatMap fun c => [Instr.shadowSlotFill c 0 p, .shadowSlotFill c 1 p]

/-- R304, R436: the next posted record of a queue is taken. -/
def takeRecord (p : Nat) (q : Fin 16) (s : State) : State :=
  let logsz := peek (queueKey s p q.val 0x08) 1 s
  let taken := peek (queueKey s p q.val 0x18) 8 s
  if !partEnabled s p || !logszOk logsz || decide (peek (queueKey s p q.val 0x10) 8 s ≤ taken) || (headOf s p q.val).isSome then s
  else
    let t := poke (queueKey s p q.val 0x18) (leBytes 8 (taken + 1)) s
    match readRecord s (peek (queueKey s p q.val 0) 8 s + 64 * (taken % 2 ^ logsz)) with
    | none => refuseRecord p q 8 0 t
    | some bs =>
      let r := launchOf bs
      match recordReason s q.val bs with
      | some n => refuseRecord p q n r.doneaddr t
      | none =>
        if lacksShare s r.world then later [Instr.takeLaunchRecord p q] s
        else
        let c := if r.depaddr = 0 then (.value 0, t) else readCounter t p r.depaddr
        let t := c.2
        if !c.1.isValue then refuseRecord p q 7 r.doneaddr t
        else
          let id := t.dev.launchCount + 1
          let ready := r.depaddr == 0
          let h : Head := { part := p, queue := q.val, launch := id, record := r, ready := ready, order := t.dev.readyCount, nextIndex := 0 }
          let l : LiveLaunch := { id := id, part := p, queue := q.val, harts := r.harts, retired := 0, doneaddr := r.doneaddr }
          due (if ready then [Instr.bindHart p] else shadowFills s p ++ [.dependenceSatisfied p q]) (t.onDev fun d =>
            { d with launchCount := id, readyCount := d.readyCount + 1, heads := d.heads ++ [h], launches := d.launches ++ [l] })

/-- R304: TAKE_LAUNCH_RECORD. -/
def execTakeLaunchRecord (part : Nat) (q : Fin 16) (s : State) : Out := .next (takeRecord part q s)

/-! ### Shadow slots (R306) -/

/-- R306: the slots of every core that hold a launch emptied. -/
def dropShadows (launch : Nat) (s : State) : State :=
  let f : Option Shadow → Option Shadow := fun o => o.filter (·.launch != launch)
  let g : Core → Core := fun c => { c with shadow0 := f c.shadow0, shadow1 := f c.shadow1 }
  { s with core := g s.core, cores := s.cores.map g }

/-- A core's shadow slots changed. -/
def onShadows (c : Nat) (f : Shadow → Option Shadow) (s : State) : State :=
  asCore c (fun s => s.onCore fun k => { k with shadow0 := k.shadow0.bind f, shadow1 := k.shadow1.bind f }) s

/-- The request of a prefetch for a record of a partition. -/
def prefetchReq (s : State) (p : Nat) (r : Launch) (k : AccKind) : Req :=
  { kind := k, agent := .engine, use := .neither, priv := .u, ptbase := Word.ofNat (peek (partKey s p 0x28) 8 s), part := p
    world := r.world, hart := 512 }

/-- R306, R315: the bytes of a prefetch, none where a read fails, and the state in which its packets have left. -/
def prefetch (r : Req) (va : Word) : Nat → State → Option (List Byte) × State
  | 0, s => (some [], s)
  | n + 1, s =>
    match prefetch r va n s with
    | (none, s') => (none, s')
    | (some bs, s') =>
      match load r (va + BitVec.ofNat 64 n) 1 1 s' with
      | .ok (b, u) => (some (bs ++ [BitVec.ofNat 8 b]), leftPackets s' u)
      | .error e => (none, leftStopped e s')

/-- R306: the first `n` words of code of a record, by key, a word whose read fails left out, and the state as after a prefetch. -/
def prefetchCode (p : Nat) (r : Launch) : Nat → State → List (Nat × Nat) × State
  | 0, s => ([], s)
  | n + 1, s =>
    let (ws, s') := prefetchCode p r n s
    match reach { prefetchReq s' p r .fetch with bytes := 4 } (r.entry + BitVec.ofNat 64 (4 * n)) s' with
    | .ok (t, u) => (ws ++ [(t.rd, readTarget t 4 u)], leftPackets s' u)
    | .error e => (ws, leftStopped e s')

/-- R302: PFLEN. -/
def pfLen (s : State) (p : Nat) : Nat := min 32768 (peek (partKey s p 0x26) 2 s)

/-- R302, R303, R306: the inputs of a record read for the bank that PFBANK then names. -/
def prefetchInputs (p : Nat) (r : Launch) (s : State) : Option (Nat × List Byte) × State :=
  let (bs, t) := prefetch (prefetchReq s p r .load) r.args (pfLen s p) s
  (bs.map fun bs => (peek (partKey s p 0x24) 1 s % 32, bs), t)

/-- R306: the inputs of the shadow slots that hold a launch read, once its dependence holds. -/
def readInputs (p launch : Nat) (s : State) : State :=
  (partCores s p).foldl (fun s c =>
    match ([(coreAt c s).shadow0, (coreAt c s).shadow1].filterMap id).find? fun sh => sh.launch == launch && sh.inputs.isNone with
    | none => s
    | some sh =>
      let (x, t) := prefetchInputs p sh.record s
      onShadows c (fun y => some (if y.launch = launch then { y with inputs := x } else y)) t) s

/-- R305, R306: a head outranks another: priority, then readiness in order, then queue number. -/
def outranks (a b : Head) : Bool :=
  let ord : Head → Nat × Nat := fun h => if h.ready then (0, h.order) else (1, 0)
  decide (b.record.prio < a.record.prio)
    || (a.record.prio == b.record.prio
      && (decide ((ord a).1 < (ord b).1)
        || ((ord a).1 == (ord b).1 && (decide ((ord a).2 < (ord b).2) || ((ord a).2 == (ord b).2 && decide (a.queue ≤ b.queue))))))

/-- The head of highest rank among some. -/
def bestHead (hs : List Head) : Option Head := hs.find? fun h => hs.all fun g => outranks h g

/-- R306: SHADOW_SLOT_FILL: an empty slot of a core is filled. -/
def fillShadow (c : Nat) (k : Fin 2) (p : Nat) (s : State) : State :=
  let core := coreAt c s
  let mine := if k = 0 then core.shadow0 else core.shadow1
  let other := if k = 0 then core.shadow1 else core.shadow0
  if mine.isSome ∨ !(partCores s p).contains c ∨ !partEnabled s p then s
  else
    let cands := s.dev.heads.filter fun h => h.part == p && decide (h.nextIndex < h.record.harts) && !other.any (·.launch == h.launch)
    match bestHead cands with
    | none => s
    | some h =>
      let (code, s1) := prefetchCode p h.record 128 s
      let (inputs, s2) := if h.ready then prefetchInputs p h.record s1 else (none, s1)
      let sh : Shadow := { part := p, queue := h.queue, launch := h.launch, record := h.record, code := code, inputs := inputs }
      asCore c (fun s => s.onCore fun x => if k = 0 then { x with shadow0 := some sh } else { x with shadow1 := some sh }) s2

/-- R306: SHADOW_SLOT_FILL. -/
def execShadowSlotFill (c : Nat) (k : Fin 2) (part : Nat) (s : State) : Out := .next (fillShadow c k part s)

/-- R304: DEPENDENCE_SATISFIED: the head of a queue becomes ready once its counter reads 0. -/
def dependenceAct (p : Nat) (q : Fin 16) (s : State) : State :=
  match headOf s p q.val with
  | none => s
  | some h =>
    if h.ready then s
    else
      let c := readCounter s p h.record.depaddr
      let s := c.2
      match c.1 with
      | .value 0 =>
        due [Instr.bindHart p] (readInputs p h.launch
          ((onHead p q.val (fun h => { h with ready := true, order := s.dev.readyCount }) s).onDev fun d => { d with readyCount := d.readyCount + 1 }))
      | .value _ => later [Instr.dependenceSatisfied p q] s
      | _ =>
        refuseRecord p q 7 h.record.doneaddr (dropShadows h.launch ((dropHead p q.val s).onDev fun d =>
          { d with launches := d.launches.filter (·.id != h.launch) }))

/-- R304: DEPENDENCE_SATISFIED. -/
def execDependenceSatisfied (part : Nat) (q : Fin 16) (s : State) : Out := .next (dependenceAct part q s)

/-! ### Binding (R305, R55) -/

/-- The lowest free hart slot of a core. -/
def freeSlot (s : State) (c : Nat) : Option Nat :=
  ((List.range 4).map (4 * c + ·)).find? fun h => !(boundHarts s).any (·.id == h)

/-- Bound harts of a core. -/
def boundOn (s : State) (c : Nat) : Nat := ((boundHarts s).filter fun h => coreOf h.id == c).length

/-- R305: the core chosen for a launch: one whose shadow slot holds it, then the fewest bound harts, then the lowest. -/
def chooseCore (s : State) (p launch : Nat) : Option Nat :=
  let cs := (partCores s p).filter fun c => (freeSlot s c).isSome
  let cost : Nat → Nat × Nat := fun c =>
    let k := coreAt c s
    ((if k.shadow0.any (·.launch == launch) || k.shadow1.any (·.launch == launch) then 0 else 1), boundOn s c)
  cs.find? fun c => cs.all fun d =>
    let a := cost c
    let b := cost d
    decide (a.1 < b.1) || (a.1 == b.1 && (decide (a.2 < b.2) || (a.2 == b.2 && decide (c ≤ d))))

/-- R55: a launched hart. -/
def launchHart (s : State) (p id index : Nat) (h : Head) : Hart :=
  let f := Hart.fresh id
  let w : Fin 256 := Fin.ofNat 256 h.record.world
  { f with
    bound := true, pc := h.record.entry
    x := ((f.x.set 3 h.record.args).set 4 (Word.ofNat index)).set 5 (Word.ofNat h.record.harts)
    world := w, ct := worldCt s w.val
    sTrap := { f.sTrap with tvec := masked (~~~3#64) 0 (Word.ofNat (peek (partKey s p 0x30) 8 s)) }
    mTrap := { f.mTrap with tvec := masked (~~~3#64) 0 (Config.firmwareHandler s.dev.firmware.running) }
    exitv := masked (~~~3#64) 0 (Word.ofNat (peek (partKey s p 0x08) 8 s))
    ptbase := masked 0x0FFFFFFFFFFFFFFF 0 (Word.ofNat (peek (partKey s p 0x28) 8 s))
    part := p
    launch := { id := h.launch, queue := h.queue, index := index, prio := h.record.prio, doneaddr := h.record.doneaddr } }

/-- A hart placed in its slot. -/
def putHart (x : Hart) (s : State) : State :=
  if s.hart.id = x.id then { s with hart := x } else { s with harts := s.harts.filter (·.id != x.id) ++ [x] }

/-- R306: what the binding core's shadow slot holds of a launch: its code enters the instruction cache, and its inputs are
written into their bank of the scratchpad. -/
def landInputs (launch c : Nat) (s : State) : State :=
  let k := coreAt c s
  match ([k.shadow0, k.shadow1].filterMap id).find? (·.launch == launch) with
  | none => s
  | some sh =>
    let s1 := asCore c (fun s => s.onCore fun k => sh.code.foldl (fun k x => cacheWord x.1 x.2 k) k) s
    match sh.inputs with
    | none => s1
    | some (bank, bs) =>
      let key := scratchKey s c (bank * 32768)
      afterStore .engine none key bs.length (poke key bs s1)

/-- R305: one hart of a partition is bound. -/
def bindAct (p : Nat) (s : State) : State :=
  let cands := s.dev.heads.filter fun h => h.part == p && h.ready && worldOk s h.record.world && decide (h.nextIndex < h.record.harts)
  match bestHead cands with
  | none => s
  | some h =>
    match chooseCore s p h.launch with
    | none => due (shadowFills s p) s
    | some c =>
      match freeSlot s c with
      | none => s
      | some id =>
        let s1 := putHart (launchHart s p id h.nextIndex h) (landInputs h.launch c s)
        let s2 := onHead p h.queue (fun x => { x with nextIndex := x.nextIndex + 1 }) s1
        let more : State → State := fun t =>
          if h.nextIndex + 1 < h.record.harts then t
          else
            due [Instr.takeLaunchRecord p (Fin.ofNat 16 h.queue)] (dropShadows h.launch (dropHead p h.queue t))
        due [Instr.bindHart p] (more s2)

/-- R305: BIND_HART. -/
def execBindHart (part : Nat) (s : State) : Out := .next (bindAct part s)

/-! ### Retirement (R56, R281, R282) -/

/-- R282: the farms that a launch declared are released. -/
def releaseFarms (launch : Nat) (s : State) : State :=
  let f : Die → Die := fun d => { d with farms := d.farms.filter (·.launch != launch) }
  { s with die := f s.die, dies := s.dies.map f }

/-- R301: the partitions to which a core belongs. -/
def ownersOf (s : State) (c : Nat) : List Nat := (List.range 96).filter fun p => bitAt (peek (partKey s p 0x10) 12 s) c

/-- R281, steps 4 and 5: the hart in focus frees its slot, which any partition of its core may take; the last hart of a
launch completes it. -/
def retireAct (s : State) : State :=
  if !s.hart.bound || !s.hart.retiring then s
  else
    let l := s.hart.launch
    let p := s.hart.part
    let s1 := { s with hart := Hart.fresh s.hart.id }
    let s2 :=
      match s1.dev.launches.find? (·.id == l.id) with
      | none => s1
      | some x =>
        if x.retired + 1 < x.harts then
          s1.onDev fun d => { d with launches := d.launches.map fun y => if y.id = l.id then { y with retired := y.retired + 1 } else y }
        else
          completeLaunch x.doneaddr p x.queue (releaseFarms l.id (s1.onDev fun d => { d with launches := d.launches.filter (·.id != l.id) }))
    due (Instr.bindHart p :: ((ownersOf s (coreOf s.hart.id)).filter (· != p)).map Instr.bindHart) s2

/-- R56: HART_RETIREMENT. -/
def execHartRetirement (h : Nat) (s : State) : Out := .next (asHart h retireAct s)

/-! ### Posting records and partition blocks (R302, R303, R323, R435) -/

/-- R323, R336: an agent whose puts the command window accepts: an accelerator, or an admitted host. -/
def windowAdmits (s : State) (ep : Nat) : Bool := decide (ep < 1024) || s.dev.admittedHosts.contains ep

/-- R323: launch records written into a ring, from record `k` on; none where the ring's memory refuses one. -/
def writeRing (ring logsz : Nat) : Nat → List (List Byte) → State → Option State
  | _, [], s => some s
  | k, r :: rs, s =>
    let key := ring + 64 * (k % 2 ^ logsz)
    if (readRecord s key).isNone then none else
      writeRing ring logsz (k + 1) rs (afterStore .engine none key 64 (poke key (r.take 64 ++ leBytes (64 - r.length) 0) s))

/-- R323, R435: POST_LAUNCH_RECORD: records written into a queue's ring and posted by one put with signal, and the response. -/
def postAct (ep p : Nat) (q : Fin 16) (records : List (List Byte)) (s : State) : State :=
  let logsz := peek (queueKey s p q.val 0x08) 1 s
  let posted := peek (queueKey s p q.val 0x10) 8 s
  if !windowAdmits s ep then respond ep true s
  else if !logszOk logsz then respond ep false s
  else
    match writeRing (peek (queueKey s p q.val 0) 8 s) logsz posted records s with
    | none => respond ep true s
    | some t => respond ep false (writeKey (queueKey s p q.val 0x10) (leBytes 8 (posted + records.length)) t)

/-- R323: POST_LAUNCH_RECORD. -/
def execPostLaunchRecord (ep part : Nat) (q : Fin 16) (records : List (List Byte)) (s : State) : Out :=
  .next (postAct ep part q records s)

/-- R303, R435: PARTITION_BLOCK_WRITE by a host, and its response. -/
def execPartitionBlockWrite (ep part off : Nat) (data : List Byte) (s : State) : Out :=
  .next (if s.dev.admittedHosts.contains ep ∧ off + data.length ≤ 0x1000 ∧ part < 96 then respond ep false (partWrite part off data s)
    else respond ep true s)

/-! ### Power (R309 to R311) -/

/-- R309: the bucket of the core in focus set to ISSUECAP at its TIME, and again each microsecond while it is limited. -/
def refillAct (s : State) : State :=
  let now := s.dev.time.toNat
  if now < s.core.refill then s
  else
    let s1 := s.onCore fun k => { k with tokens := k.issuecap }
    if s.core.issuecap = 0xFFFF then s1
    else
      let t := periodAfter 1000 now
      atTime t (.tokenBucketRefill s.core.id) (s1.onCore fun k => { k with refill := t })

/-- R309: TOKEN_BUCKET_REFILL. -/
def execTokenBucketRefill (c : Nat) (s : State) : Out := .next (asCore c refillAct s)

/-- R309, R310: ISSUECAP of a core, which counts from the next refill on. -/
def setCap (c v : Nat) (s : State) : State :=
  asCore c (fun s =>
    if s.core.issuecap = v then s
    else
      let s1 := s.onCore fun k => { k with issuecap := v }
      if s.dev.timers.any (·.2 == .tokenBucketRefill c) then s1
      else
        let t := periodAfter 1000 s.dev.time.toNat
        atTime t (.tokenBucketRefill c) (s1.onCore fun k => { k with refill := t })) s

/-- R311: picojoules charged to a partition since its last update. -/
def spentOf (p : Nat) (d : Dev) : Nat := ((d.energies.filter (·.part == p)).map fun e => e.total - e.mark).foldl (· + ·) 0

/-- R311: every ENQn of a partition updated, in whole microjoules; the fractions stay. -/
def updateEnergy (p : Nat) (s : State) : State :=
  s.onDev fun d =>
    { d with energies := d.energies.map fun e =>
        if e.part = p then { e with value := BitVec.ofNat 64 (e.total / 1000000), mark := e.total } else e }

/-- R310: the partition's token total under a cap: power is energy over the 10 µs of each of the periods in which it was spent. -/
def tokenTotal (cap spent nb periods old : Nat) : Nat :=
  if spent = 0 then 4500 * nb else max (64 * nb) (min (4500 * nb) (old * cap * 10000000 * periods / spent))

/-- R310, R311: the end of a period and of `more` behind it, among which what was spent is spread evenly
(DESIGN CHOICE, notes/assumptions/31.md): ENQn, the token total and the caps of the partition's cores. -/
def governCores (p more : Nat) (g : Governor) (s : State) : State :=
  let capw := peek (partKey s p 0x20) 4 s
  let cores := partCores s p
  let busy := cores.filter fun c => decide (0 < boundOn s c)
  let nb := busy.length
  let total := if capw = 0 then none else some (Nat.repeat (tokenTotal capw (spentOf p s.dev) nb (more + 1)) (more + 1) (g.total.getD (4500 * nb)))
  let s1 := (updateEnergy p s).onDev fun d => { d with governors := { g with total := total, cap := capw } :: d.governors.filter (·.part != p) }
  cores.foldl (fun s c => setCap c (match total with
    | some n => if busy.contains c then n / nb else 0xFFFF
    | none => 0xFFFF) s) s1

/-- R310: GOVERNOR_PERIOD, every 10 µs of TIME from the first ENABLE on: as often as TIME has passed a multiple of them. -/
def governorAct (p : Nat) (s : State) : State :=
  let now := s.dev.time.toNat
  let g := (s.dev.governors.find? (·.part == p)).getD { part := p, next := now / 10000 * 10000 }
  if now < g.next then s
  else
    let next := periodAfter 10000 now
    atTime next (.governorPeriod p) (governCores p ((now - g.next) / 10000) { g with next := next } s)

/-- R310: GOVERNOR_PERIOD (DESIGN CHOICE, notes/assumptions/31.md). -/
def execGovernorPeriod (part : Nat) (s : State) : Out := .next (governorAct part s)

end

end Sys2Proof.Machine
end

