-- ==== Sys2Proof/Machine/Work.lean ====
section
/-!
DEFINITION. The work distributor and the farm units (11_isa_sync.md R277 to R283, 20 R391): WPUSH, WQRY and its answer,
FARM, FSTRIP and WDONE.
-/
namespace Sys2Proof.Machine

noncomputable section

/-- R391: cause 0x15. -/
def workTrap (reason : Nat) : Trap := { cause := 0x15, tval := Word.ofNat reason }

/-! ### Pools (R277, R279) -/

/-- R277, R391: a task record that reason 2 refuses. -/
def taskBad (bs : List Byte) : Bool :=
  decide (2 < fieldAt bs 0 2) || !zeroAt bs 2 2 || !zeroAt bs 0x14 44
    || (fieldAt bs 0 2 == 1 && (fieldAt bs 8 4 == 0 || fieldAt bs 0x0C 4 == 0 || fieldAt bs 0x10 2 == 0 || decide (128 < fieldAt bs 0x10 2)
      || fieldAt bs 0x12 2 == 0 || decide (4096 < fieldAt bs 0x12 2)))

/-- R279: a pool, which is empty until its first record or query. -/
def poolAt (s : State) (part num : Nat) : Pool :=
  (s.dev.pools.find? fun p => p.part == part && p.num == num).getD { part := part, num := num, records := [], nextGrant := 0, queries := [] }

/-- A pool put back. -/
def setPool (p : Pool) (s : State) : State :=
  s.onDev fun d => { d with pools := p :: d.pools.filter fun q => !(q.part == p.part && q.num == p.num) }

/-- R279: an end-of-work record is discarded once a record stands behind it. -/
def dropEnds : List (List Byte) → List (List Byte)
  | r :: q :: rs => if fieldAt r 0 2 = 2 then dropEnds (q :: rs) else r :: q :: rs
  | rs => rs

/-- R277, R279: block columns of a panel. -/
def panelCols (r : List Byte) : Nat := ceilDiv (fieldAt r 0x0C 4) (fieldAt r 0x12 2)

/-- R279: the number of grants a record gives. -/
def grantsOf (r : List Byte) : Nat := if fieldAt r 0 2 = 1 then ceilDiv (fieldAt r 8 4) (fieldAt r 0x10 2) * panelCols r else 1

/-- R279, R280: the answer that grant `k` of a record makes. -/
def answerOf (r : List Byte) (k : Nat) : List Byte :=
  if fieldAt r 0 2 = 2 then leBytes 4 0 ++ leBytes 4 0 ++ leBytes 4 0 ++ leBytes 4 3
  else if fieldAt r 0 2 = 1 then
    let row := k / panelCols r * fieldAt r 0x10 2
    let col := k % panelCols r * fieldAt r 0x12 2
    let nrow := min (fieldAt r 0x10 2) (fieldAt r 8 4 - row)
    let ncol := min (fieldAt r 0x12 2) (fieldAt r 0x0C 4 - col)
    leBytes 4 row ++ leBytes 4 col ++ leBytes 4 (fieldAt r 4 4) ++ leBytes 4 (5 + nrow * 2 ^ 10 + ncol * 2 ^ 18)
  else leBytes 4 0 ++ leBytes 4 0 ++ leBytes 4 (fieldAt r 4 4) ++ leBytes 4 1

/-- R279: the pool after a grant of the record at its head. -/
def afterGrant (p : Pool) : Pool :=
  match p.records with
  | [] => p
  | r :: rs =>
    if fieldAt r 0 2 = 2 then p
    else if p.nextGrant + 1 < grantsOf r then { p with nextGrant := p.nextGrant + 1 }
    else { p with records := dropEnds rs, nextGrant := 0 }

/-- R279: the answers of the queries that reached the pool, in their order, as its records give them: a query has its answer from the
records as it finds them, whatever is pushed afterwards. -/
def giveAnswers : List Query → Pool → List Query × Pool
  | [], p => ([], p)
  | q :: qs, p =>
    match q.answer, p.records with
    | none, r :: _ =>
      let x := giveAnswers qs (afterGrant p)
      ({ q with answer := some (answerOf r p.nextGrant) } :: x.1, x.2)
    | _, _ =>
      let x := giveAnswers qs p
      (q :: x.1, x.2)

/-- R279: a pool whose queries have what its records give them. -/
def settlePool (p : Pool) : Pool := { (giveAnswers p.queries p).2 with queries := (giveAnswers p.queries p).1 }

/-- R280, R397: an answer written into a scratchpad, whose words it makes good. -/
def landAnswer (key : Nat) (bs : List Byte) (s : State) : State :=
  let s1 := afterStore .engine none key 16 (poke key bs s)
  s1.onDev fun d => { d with bad := d.bad.filter fun b =>
    !(b.block == key / 256 && b.word.any fun w => within w (key % 256 / 4) 4) }

/-- R296, R370: an answer may be written: no earlier access of its hart is still to touch its bytes. -/
def answerReady (q : Query) (s : State) : Bool :=
  (focus q.hart s).all fun t => !interlocked { reqOf t .store .vector .neither with order := some q.order } [q.key] t

/-- R370: a query that has been answered is no access of its hart any more. -/
def answered (q : Query) (s : State) : State :=
  asHart q.hart (fun s => s.onHart fun h => { h with queries := h.queries.filter (·.1 != q.order) }) s

/-- R279, R280: the first query of a pool is answered, where it has its answer or the pool holds a record. -/
def answerAct (part num : Nat) (s : State) : State :=
  let p := poolAt s part num
  let land : Query → List Query → List Byte → Pool → State := fun q qs bs p =>
    if answerReady q s then
      let s1 := answered q (landAnswer q.key bs (setPool p s))
      if qs.isEmpty then s1 else due [Instr.wqryAnswer part (Fin.ofNat 16 num)] s1
    else later [Instr.wqryAnswer part (Fin.ofNat 16 num)] s
  match p.queries with
  | [] => s
  | q :: qs =>
    match q.answer, p.records with
    | some bs, _ => land q qs bs { p with queries := qs }
    | none, r :: _ => land q qs (answerOf r p.nextGrant) (afterGrant { p with queries := qs })
    | none, [] => s

/-- R280: WQRY_ANSWER. -/
def execWqryAnswer (part : Nat) (pool : Fin 16) (s : State) : Out := .next (answerAct part pool.val s)

/-! ### WPUSH and WQRY (R278, R280) -/

/-- R278: the trap of a write into a ring slot, if the ring's memory refuses it (DEDUCED, notes/assumptions/35.md). -/
def ringTrap (s : State) (key : Nat) (va : Word) : Option Trap :=
  if epOf key ≠ s.dev.devid ∨ s.dev.capacity < offOf key + 64 then some { cause := 0x07, tval := va }
  else
    match storageTrap s va key 0 with
    | some t => some t
    | none => storageTrap s va (key + 63) 0

/-- R278: a launch record posted by the distributor. -/
def postLaunch (n : Nat) (bs : List Byte) (va : Word) (s : State) : Except Stop (State × List Word) :=
  let p := s.hart.part
  let logsz := peek (queueKey s p n 0x08) 1 s
  let posted := peek (queueKey s p n 0x10) 8 s
  let key := peek (queueKey s p n 0) 8 s + 64 * (posted % 2 ^ logsz)
  if (recordReason s n bs).isSome then .error (.cut (workTrap 3) s)
  else if !logszOk logsz then .error (.cut (workTrap 7) s)
  else
    match ringTrap s key va with
    | some t => .error (.cut t s)
    | none => quiet (writeKey (queueKey s p n 0x10) (leBytes 8 (posted + 1)) (afterStore .engine none key 64 (poke key bs s)))

/-- R278: a task record appended to a pool; what reached the pool before has its answer from the records before. -/
def pushTask (n : Nat) (bs : List Byte) (s : State) : Except Stop (State × List Word) :=
  if taskBad bs then .error (.cut (workTrap 2) s)
  else
    let p := settlePool (poolAt s s.hart.part n)
    quiet (due [Instr.wqryAnswer s.hart.part (Fin.ofNat 16 n)] (setPool { p with records := dropEnds (p.records ++ [bs]) } s))

/-- WPUSH in the vector queue. -/
def opWpush (a b : Fin 32) : VOp :=
  { i := .wpush a b, xsrc := [a, b], vector := false
    effect := fun c s =>
      let x := (c.x a).toNat
      if bitsOf x 63 5 ≠ 0 then fail (workTrap 1)
      else if !aligned (c.x b) 64 then fail { cause := 0x03, tval := c.x b }
      else if !released s then .error (.wait s)
      else
        match loadBytes (reqOf s .load .vector .neither) (c.x b) 64 s with
        | .error e => .error e
        | .ok (bs, s1) => if bitAt x 4 then pushTask (x % 16) bs s1 else postLaunch (x % 16) bs (c.x b) s1 }

/-- R278: WPUSH. -/
def execWpush (a b : Fin 32) (s : State) : Out := .next (vector (opWpush a b) s)

/-- R280, R391: a 16-byte-aligned scratchpad address of the core-local window. -/
def answerAddrOk (va : Nat) : Bool := inWindow va && decide (va % 2 ^ 32 < 0x100000) && va % 16 == 0

/-- R370: the query of the hart in focus for an answer at an address, among its transfers and streams. -/
def askPool (part n : Nat) (va : Word) (s : State) : State :=
  let p := poolAt s part n
  let q : Query := { key := scratchKey s s.core.id (va.toNat % 2 ^ 48), hart := s.hart.id, order := s.hart.xferCount }
  (setPool { p with queries := p.queries ++ [q] } s).onHart fun h =>
    { h with queries := h.queries ++ [(h.xferCount, va)], xferCount := h.xferCount + 1 }

/-- WQRY in the vector queue. -/
def opWqry (a b : Fin 32) : VOp :=
  { i := .wqry a b, xsrc := [a, b], vector := false
    effect := fun c s =>
      let x := (c.x a).toNat
      if bitsOf x 63 4 ≠ 0 then fail (workTrap 1)
      else if !answerAddrOk (c.x b).toNat then fail (workTrap 4)
      else if 32 ≤ entriesHeld s then .error (.wait s)
      else quiet (due [Instr.wqryAnswer s.hart.part (Fin.ofNat 16 x)] (askPool s.hart.part x (c.x b) s)) }

/-- R280: WQRY. -/
def execWqry (a b : Fin 32) (s : State) : Out := .next (vector (opWqry a b) s)

/-! ### Strip farms (R282, R283) -/

/-- R282: the lowest farm number of a partition that is free on the die in focus (DESIGN CHOICE, notes/assumptions/70.md). -/
def freeFarm (s : State) (part : Nat) : Option Nat :=
  (List.range 16).find? fun n => !s.die.farms.any fun f => f.part == part && f.num == n

/-- FARM in the vector queue. -/
def opFarm (d a b : Fin 32) : VOp :=
  { i := .farm d a b, xsrc := [a, b], xdst := [d], vector := false
    effect := fun c s =>
      let strip := (c.x b).toNat
      if strip = 0 ∨ 1048576 < strip then fail (workTrap 5)
      else
        match freeFarm s s.hart.part with
        | none => .error (.wait s)
        | some n =>
          let f : Farm := { num := n, part := s.hart.part, launch := s.hart.launch.id, trip := bitsOf (c.x a).toNat 47 0, strip := strip, next := 0 }
          .ok (s.onDie fun d => { d with farms := d.farms ++ [f] }, [Word.ofNat (s.die.id * 16 + n)]) }

/-- R282: FARM. -/
def execFarm (d a b : Fin 32) (s : State) : Out := .next (vector (opFarm d a b) s)

/-- R283: one strip handed out. -/
def takeStrip (f : Farm) : Farm × List Word :=
  let len := min f.strip (f.trip - f.next)
  ({ f with next := f.next + len }, [Word.ofNat f.next, Word.ofNat len])

/-- FSTRIP in the vector queue. -/
def opFstrip (d a : Fin 32) : VOp :=
  { i := .fstrip d a, xsrc := [a], xdst := [d, d + 1], vector := false
    effect := fun c s =>
      let x := (c.x a).toNat
      let mine : Farm → Bool := fun f => f.part == s.hart.part && f.num == x % 16
      match (if x < 64 then (dieAt (x / 16) s).farms.find? mine else none) with
      | none => fail (workTrap 6)
      | some f =>
        let t := takeStrip f
        .ok (asDie (x / 16) (fun s => s.onDie fun d => { d with farms := d.farms.map fun g => if mine g then t.1 else g }) s, t.2) }

/-- R283: FSTRIP. -/
def execFstrip (d a : Fin 32) (s : State) : Out := .next (vector (opFstrip d a) s)

/-! ### WDONE (R281) -/

/-- WDONE in the vector queue: its steps 1 to 3; the slot is freed by HART_RETIREMENT. The hart's transfers are
complete before the release of step 4 (DEDUCED, notes/assumptions/35.md). -/
def opWdone : VOp :=
  { i := .wdone, vector := false, deleg := true, holds := true
    effect := fun _ s =>
      let s1 := startHartBatches s
      if refreshPending s1 then .error (.wait s1)
      else
        match failureAt s1.hart with
        | some d => .error (.cut (deferredTrap s1.hart d) (clearFail d s1))
        | none =>
          if !released s1 then .error (.wait s1)
          else quiet (due [Instr.hartRetirement s1.hart.id] ((releaseAll s1).onHart fun h => { h with retiring := true })) }

/-- R281: WDONE. -/
def execWdone (s : State) : Out := .next (vector opWdone s)

end

end Sys2Proof.Machine
end

