-- ==== Sys2Proof/Machine/Echo.lean ====
section
/-!
DEFINITION. The Echo unit (11_isa_sync.md R284 to R289, 20 R400): binding and resolving regions, the surrogate network
and its training, APXB, APXE and APXINV, and the rule violations of an open invocation.
-/
namespace Sys2Proof.Machine

noncomputable section

/-! ### The surrogate (R288) -/

/-- One layer: o-th output b[o] + the fma chain over the inputs. -/
def layer (w : List (List F32)) (b x : List F32) : List F32 :=
  (w.zip b).map fun p => (p.1.zip x).foldl (fun z q => ffma q.1 q.2 z) p.2

/-- ReLU. -/
def relu (z : List F32) : List F32 := z.map fun x => fmax x 0

/-- The outputs of the surrogate for one input. -/
def surrogateOut (e : EchoRegion) (x : List F32) : List F32 :=
  layer e.w3 e.b3 (relu (layer e.w2 e.b2 (relu (layer e.w1 e.b1 x))))

/-- The first values of a region's random weights and the state after them. -/
def weightRun : Nat → Nat → List F32 × Nat
  | 0, x => ([], x)
  | n + 1, x =>
    let y := (1664525 * x + 1013904223) % 2 ^ 32
    let r := weightRun n y
    (roundI false ((y / 256 : Nat) - (2 ^ 23 : Nat) : Int) (-25) :: r.1, r.2)

/-- A list cut into rows. -/
def rowsOf (n w : Nat) (l : List F32) : List (List F32) := (List.range n).map fun o => (l.drop (o * w)).take w

/-- R288: the region `r` with fresh weights, for K inputs and J outputs. -/
def freshRegion (r : Fin 8) (k j : Nat) : EchoRegion :=
  let a := weightRun (32 * k) (0x1F2E0000 + r.val)
  let b := weightRun (32 * 32) a.2
  let c := weightRun (j * 32) b.2
  { state := 1, k := k, j := j, w1 := rowsOf 32 k a.1, b1 := List.replicate 32 0, w2 := rowsOf 32 32 b.1, b2 := List.replicate 32 0
    w3 := rowsOf j 32 c.1, b3 := List.replicate j 0 }

/-- An FP32 value divided by a positive number, rounded once (R63). -/
def fdivNat (x : F32) (d : Nat) : F32 :=
  match x.val with
  | .fin s m e => roundF s (2 * (m * 2 ^ 80 / d) + (if m * 2 ^ 80 % d = 0 then 0 else 1)) (e - 81)
  | v => v.round

/-- R288: the mean absolute error over some samples, `g3` holding the differences of each. -/
def meanError (g3 : List (List F32)) (n : Nat) : F32 := fdivNat ((g3.flatMap id).foldl (fun a g => fadd a (fabs g)) 0) n

/-- The differences between the surrogate's outputs and the true ones. -/
def errorsOf (e : EchoRegion) (s : List F32 × List F32) : List F32 := ((surrogateOut e s.1).zip s.2).map fun p => fsub p.1 p.2

/-- What the forward and backward pass of one sample leaves: inputs of the three layers and the three gradients. -/
structure Pass where
  a1 : List F32
  a2 : List F32
  a3 : List F32
  g1 : List F32
  g2 : List F32
  g3 : List F32
  deriving DecidableEq, Repr

/-- Column `o` of a matrix. -/
def column (w : List (List F32)) (o : Nat) : List F32 := w.map fun r => r.getD o 0

/-- A gradient carried back through a layer. -/
def backward (z : List F32) (w : List (List F32)) (g : List F32) : List F32 :=
  z.mapIdx fun o zo => if flt 0 zo then ((column w o).zip g).foldl (fun a p => ffma p.1 p.2 a) 0 else 0

/-- One sample. -/
def passOf (e : EchoRegion) (s : List F32 × List F32) : Pass :=
  let z1 := layer e.w1 e.b1 s.1
  let h1 := relu z1
  let z2 := layer e.w2 e.b2 h1
  let h2 := relu z2
  let g3 := ((layer e.w3 e.b3 h2).zip s.2).map fun p => fsub p.1 p.2
  let g2 := backward z2 e.w3 g3
  { a1 := s.1, a2 := h1, a3 := h2, g1 := backward z1 e.w2 g2, g2 := g2, g3 := g3 }

/-- The gradient of one weight over the batch. -/
def gradient (ps : List Pass) (g a : Pass → F32) : F32 := ps.foldl (fun acc p => ffma (g p) (a p) acc) 0

/-- A weight after one step. -/
def stepped (lr g w : F32) : F32 := ffma (fscale (lr ^^^ 0x80000000) (-6)) g w

/-- The weights of a layer after one step. -/
def stepW (lr : F32) (ps : List Pass) (g a : Pass → List F32) (w : List (List F32)) : List (List F32) :=
  w.mapIdx fun o row => row.mapIdx fun i x => stepped lr (gradient ps (fun p => (g p).getD o 0) (fun p => (a p).getD i 0)) x

/-- The biases of a layer after one step. -/
def stepB (lr : F32) (ps : List Pass) (g : Pass → List F32) (b : List F32) : List F32 :=
  b.mapIdx fun o x => stepped lr (gradient ps (fun p => (g p).getD o 0) (fun _ => 0x3F800000)) x

/-- R288: one training step over a batch of 64. -/
def trainBatch (lr : F32) (batch : List (List F32 × List F32)) (e : EchoRegion) : EchoRegion :=
  let ps := batch.map (passOf e)
  { e with
    w1 := stepW lr ps Pass.g1 Pass.a1 e.w1, b1 := stepB lr ps Pass.g1 e.b1
    w2 := stepW lr ps Pass.g2 Pass.a2 e.w2, b2 := stepB lr ps Pass.g2 e.b2
    w3 := stepW lr ps Pass.g3 Pass.a3 e.w3, b3 := stepB lr ps Pass.g3 e.b3, gen := e.gen + 1 }

/-- R287, R288: the batches of 64 that the buffered samples of a region in OBSERVE make. -/
def trainAll (lr limit : F32) : Nat → EchoRegion → EchoRegion
  | 0, e => e
  | n + 1, e =>
    if e.state ≠ 1 ∨ e.samples.length < 64 then e
    else
      let batch := e.samples.take 64
      let mae := meanError (batch.map (errorsOf e)) (64 * e.j)
      let good := if fle mae limit then e.good + 1 else 0
      let t := { trainBatch lr batch e with samples := e.samples.drop 64, good := good }
      trainAll lr limit n (if 4 ≤ good then { t with state := 2, good := 0, clean := 0 } else t)

/-! ### Regions (R284, R285, R287) -/

/-- The region `r` of the core in focus. -/
def regionAt (s : State) (r : Fin 8) : EchoRegion := s.core.echo[r]

/-- A region replaced. -/
def setRegion (r : Fin 8) (e : EchoRegion) (s : State) : State := s.onCore fun c => { c with echo := c.echo.set r e }

/-- R287: INVALID and unbound. -/
def loseRegion (r : Fin 8) (s : State) : State := setRegion r { regionAt s r with state := 0, bound := none, span := [] } s

/-- R287: a rule violation: INVALID, and still bound. -/
def violate (r : Fin 8) (s : State) : State := setRegion r { regionAt s r with state := 0 } s

/-- R284: a declaration: its inputs and outputs. -/
structure Decl where
  ins : List (Fin 32)
  outs : List (Fin 32)
  deriving DecidableEq, Repr

/-- R284, R287, R400: a declaration from its two words; none for one that breaks a rule. -/
def declOf (w0 w1 : Nat) : Option Decl :=
  let k := bitsOf w0 2 0
  let j := bitsOf w1 1 0
  let ins := (List.range k).map fun i => Fin.ofNat 32 (bitsOf w0 (7 + 5 * i) (3 + 5 * i))
  let outs := (List.range j).map fun i => Fin.ofNat 32 (bitsOf w1 (6 + 5 * i) (2 + 5 * i))
  if k = 0 ∨ 4 < k ∨ j = 0 ∨ 2 < j ∨ bitsOf w0 31 (3 + 5 * k) ≠ 0 ∨ bitsOf w1 31 (2 + 5 * j) ≠ 0 ∨ (ins.any outs.contains) then none
  else some { ins := ins, outs := outs }

/-- R287: where the words of a region lie, page by page. -/
def spanOf (s : State) (p : Word) (len : Nat) : List (Nat × Nat) :=
  let n := 4 * len + 8
  let first := p.toNat / 4096
  (List.range ((p.toNat + n - 1) / 4096 - first + 1)).filterMap fun k =>
    let lo := max p.toNat ((first + k) * 4096)
    let hi := min (p.toNat + n) ((first + k + 1) * 4096)
    match resolve (reqOf s .fetch .scalar .neither) (BitVec.ofNat 64 lo) s with
    | .ok (t, _) => some (t.rd, hi - lo)
    | .error _ => none

/-- R400: what tells the weights of a region from any that it, or a region of another core, holds at another time. -/
def weightsId (r : Fin 8) (s : State) : Nat := 2 ^ 16 * (regionAt s r).gen + s.core.id % 2 ^ 16

/-- R285: an APXB from an address binds its region there and enters OBSERVE with fresh weights. -/
def bindRegion (r : Fin 8) (p : Word) (len : Nat) (d : Option Decl) (s : State) : State :=
  if (regionAt s r).bound = some p then s
  else
    setRegion r { freshRegion r ((d.map (·.ins.length)).getD 0) ((d.map (·.outs.length)).getD 0) with
      bound := some p, span := spanOf s p len, gen := (regionAt s r).gen + 1 } s

/-- R288: the elements that an invocation samples (DEDUCED, notes/assumptions/33.md). -/
def sampleElems (vl : Nat) : List Nat := (List.range (min vl 64)).map fun m => m * vl / 64

/-- The FP32 values of some registers at an element. -/
def valuesAt (h : Hart) (vs : List (Fin 32)) (i : Nat) : List F32 := vs.map fun v => BitVec.ofNat 32 (elemAt h v 32 i)

/-- R397, R400: the lowest element at which an input register holds a failing word. -/
def inputTrap (h : Hart) (ins : List (Fin 32)) : Option (Trap × Nat) :=
  lowest (h.vbad.filterMap fun b =>
    if ins.contains b.1 ∧ h.vstart ≤ b.2 ∧ b.2 < h.vl then some ({ cause := 0x09, tval := wordCode h 0 b.1.val b.2 }, b.2) else none)

/-- The elements from VSTART below `lim` that the surrogate writes into the output registers. -/
def surrogateWrite (e : EchoRegion) (d : Decl) (lim : Nat) (s : State) : State :=
  let h := s.hart
  let idx := indices h.vstart (min lim h.vl)
  (d.outs.zip (List.range d.outs.length)).foldl (fun t p =>
    writeElems p.1 none (fun _ => true) 32 (fun i => ((surrogateOut e (valuesAt h d.ins i)).getD p.2 0).toNat) idx t) s

/-! ### APXB (R286, R400) -/

/-- An APXB that continues at an address. -/
def continueAt (pc : Word) (s : State) : Except Stop (State × List Word) := quiet (s.onHart fun h => { h with pc := pc })

/-- R286: a true run, its inputs captured at APXB. -/
def openRun (r : Fin 8) (p : Word) (len : Nat) (d : Decl) (measure : Bool) (s : State) : State :=
  s.onHart fun h =>
    { h with echo := some { region := r, addr := p, len := len, outs := d.outs, vl := h.vl
                            inputs := (sampleElems h.vl).map (valuesAt h d.ins), measure := measure } }

/-- R286, R400: a surrogate run from VSTART on, which an input that fails, or a trap that is due, cuts short. -/
def surrogateRun (r : Fin 8) (p : Word) (len : Nat) (d : Decl) (s : State) : Except Stop (State × List Word) :=
  let e := regionAt s r
  let s := beginWrites d.outs s
  let upTo (f : Nat) : State :=
    (setVstart f (surrogateWrite e d f s)).onHart fun h => { h with surrogate := some (r, weightsId r s) }
  let bad := inputTrap s.hart d.ins
  match stopIn s.hart s.hart.vstart (bad.elim s.hart.vl (·.2)) with
  | some f => .error (.wait (upTo f))
  | none =>
    match bad with
    | some (t, f) => .error (.cut t (upTo f))
    | none =>
      continueAt (p + BitVec.ofNat 64 (4 * len + 8))
        ((setVstart 0 (surrogateWrite e d s.hart.vl s)).onHart fun h => { h with surrogate := none })

/-- R90, R408: what an invocation that reads or writes payload registers among some waits for or raises, with no other effect. -/
def echoNames (vs : List (Fin 32)) (s : State) : Option Stop :=
  let named := payloadRegs vs
  let pend := named.filter fun c => hdrKind s.hart.chdr[c] == 2
  if !pend.isEmpty then some (.wait (startFor pend s))
  else (named.find? fun c => s.hart.crerr[c] != 0).map fun c => .cut (deferredTrap s.hart c) (clearFail c s)

/-- R400: the weights with which the hart's interrupted surrogate run of region `r` at `p` began still stand there. -/
def sameRun (r : Fin 8) (p : Word) (s : State) : Bool :=
  s.hart.surrogate == some (r, weightsId r s) && (regionAt s r).bound == some p && (regionAt s r).state == 3

/-- R400: an interrupted surrogate run that does not resume as one: the true body starts over. -/
def dropRun (s : State) : State :=
  if s.hart.surrogate.isSome then (setVstart 0 s).onHart fun h => { h with surrogate := none } else s

/-- R286, R400: the row of the table for a region that is bound and follows the rules. The first invocation in ACTIVE is
number 0 (DESIGN CHOICE, notes/assumptions/69.md). -/
def resolveRegion (r : Fin 8) (p : Word) (len : Nat) (d : Decl) (s : State) : Except Stop (State × List Word) :=
  let e := regionAt s r
  let true' : State → Except Stop (State × List Word) := continueAt (p + 12)
  match s.hart.surrogate with
  | some _ => if e.bad then true' (loseRegion r (dropRun s)) else surrogateRun r p len d s
  | none =>
    if e.state = 0 then true' s
    else if e.state = 1 then true' (openRun r p len d false s)
    else if e.bad then true' (loseRegion r s)
    else if e.state = 2 then true' (openRun r p len d true s)
    else
      let t := setRegion r { e with count := e.count + 1 } s
      if e.count % max 1 s.hart.apxrate.toNat = 0 then true' (openRun r p len d true t) else surrogateRun r p len d t

/-- R286, R400: the registers that APXB reads or writes in the row that it takes: in a true run the inputs that it captures, and in a
surrogate run its outputs too. -/
def rowRegs (r : Fin 8) (d : Decl) (s : State) : List (Fin 32) :=
  let e := regionAt s r
  if e.state = 0 ∨ (e.bad ∧ e.state ≠ 1) then []
  else if s.hart.surrogate.isSome ∨ (e.state = 3 ∧ e.count % max 1 s.hart.apxrate.toNat ≠ 0) then d.ins ++ d.outs
  else d.ins

/-- R284: the declaration words, read as the hart's code is (DESIGN CHOICE, notes/assumptions/69.md). -/
def readDecl (p : Word) (s : State) : Except Stop (Nat × Nat × State) :=
  match load (reqOf s .fetch .scalar .neither) (p + 4) 4 4 s with
  | .error e => .error e
  | .ok (w0, s1) =>
    match load (reqOf s1 .fetch .scalar .neither) (p + 8) 4 4 s1 with
    | .error e => .error e
    | .ok (w1, s2) => .ok (w0, w1, s2)

/-- R51, R110, R286: the region acts for the hart. -/
def echoOn (h : Hart) (r : Fin 8) : Bool := h.apxctl.getLsbD r.val && !h.ct

/-- R285 to R287, R400: APXB from address `p`. An interrupted surrogate run of the region that does not resume as one goes on with the
true body, and the invocation gives no samples. -/
def apxbEffect (r : Fin 8) (len : Nat) (p : Word) (s0 : State) : Except Stop (State × List Word) :=
  let resumes := echoOn s0.hart r && sameRun r p s0
  let s := if resumes then s0 else dropRun s0
  if len < 3 then
    continueAt (p + BitVec.ofNat 64 (4 * len + 4)) (if echoOn s.hart r then violate r (bindRegion r p len none s) else s)
  else if !echoOn s.hart r || (!resumes && s0.hart.surrogate.any (·.1 == r)) then continueAt (p + 12) s
  else
    match readDecl p s with
    | .error e => .error e
    | .ok (w0, w1, s1) =>
      let d := declOf w0 w1
      let s2 := bindRegion r p len d s1
      match d with
      | none => continueAt (p + 12) (violate r s2)
      | some d =>
        if (needs32 s2).isSome then continueAt (p + 12) (violate r s2)
        else
          match echoNames (rowRegs r d s2) s0 with
          | some e => .error e
          | none => resolveRegion r p len d s2

/-- APXB in the vector queue. -/
def opApxb (r : Fin 8) (l : Fin 32768) : VOp :=
  { i := .apxb r l, vector := false, holds := true, jumps := true, effect := fun c s => apxbEffect r l.val c.pc s }

/-- R285, R286: APXB. -/
def execApxb (r : Fin 8) (l : Fin 32768) (s : State) : Out := .next (vector (opApxb r l) s)

/-! ### APXE (R286 to R288) -/

/-- R287: the error of a measured invocation moves its region. -/
def measured (mae limit : F32) (e : EchoRegion) : EchoRegion :=
  if flt limit mae then { e with state := 1, good := 0, clean := 0 }
  else if e.state = 2 then
    let clean := if fle mae limit then e.clean + 1 else 0
    if 8 ≤ clean then { e with state := 3, clean := 0, count := 0 } else { e with clean := clean }
  else e

/-- R286: an open invocation closed. -/
def closeRun (o : EchoOpen) (s : State) : State :=
  let e := regionAt s o.region
  let s1 := s.onHart fun h => { h with echo := none }
  let samples := o.inputs.zip ((sampleElems o.vl).map (valuesAt s.hart o.outs))
  if e.bound ≠ some o.addr ∨ samples.isEmpty then s1
  else if e.bad then loseRegion o.region s1
  else if !o.measure && e.state = 1 then
    setRegion o.region (trainAll s.hart.apxlr s.hart.apxerr 2 { e with samples := e.samples ++ samples }) s1
  else if o.measure && (e.state = 2 || e.state = 3) then
    setRegion o.region (measured (meanError (samples.map (errorsOf e)) (samples.length * e.j)) s.hart.apxerr e) s1
  else s1

/-- R286: the output registers that the closing of an invocation reads: those of one that is sampled. -/
def closeRegs (o : EchoOpen) (s : State) : List (Fin 32) :=
  let e := regionAt s o.region
  if e.bound ≠ some o.addr ∨ o.inputs.isEmpty ∨ e.bad then []
  else if (!o.measure && e.state = 1) || (o.measure && (e.state = 2 || e.state = 3)) then o.outs else []

/-- APXE in the vector queue. What it reads of payload registers it waits for, and raises the failure of (R90, R408). -/
def opApxe (r : Fin 8) : VOp :=
  { i := .apxe r, vector := false, holds := true
    effect := fun _ s =>
      match s.hart.echo with
      | none => quiet s
      | some o =>
        if o.region ≠ r then quiet s
        else
          match echoNames (closeRegs o s) s with
          | some e => .error e
          | none => quiet (closeRun o s) }

/-- R286: APXE. -/
def execApxe (r : Fin 8) (s : State) : Out := .next (vector (opApxe r) s)

/-- APXINV in the vector queue. -/
def opApxinv (r : Fin 8) : VOp := { i := .apxinv r, vector := false, effect := fun _ s => quiet (loseRegion r s) }

/-- R287: APXINV. -/
def execApxinv (r : Fin 8) (s : State) : Out := .next (vector (opApxinv r) s)

/-! ### Rule violations in an open invocation (R284, R287) -/

/-- R284: a branch of the body at `pc` stays within the body or at its APXE. -/
def branchInside (o : EchoOpen) (pc : Word) (off : Fin 32768) : Bool :=
  let t := (pc + 4 * sextF 15 off.val).toNat
  decide (o.addr.toNat + 12 ≤ t) && decide (t ≤ o.addr.toNat + 4 * o.len + 4)

/-- R284: an instruction allowed at `pc` inside an open invocation. -/
def echoAllows (o : EchoOpen) (pc : Word) (i : Instr) : Bool :=
  match i with
  | .pfx .. | .pfxn .. => true
  | .vbany _ t => branchInside o pc t
  | .vbnone _ t => branchInside o pc t
  | .apxe r => r == o.region
  | .vmvxs .. | .vmfirst .. | .vmpopc .. => false
  | i => let m := wordOf i / 2 ^ 25 % 64; decide (0x23 ≤ m) && decide (m ≤ 0x28)

/-- R287: a disallowed instruction executed inside an open invocation is a rule violation. -/
def echoGuard (pc : Word) (is : List Instr) (s : State) : State :=
  match s.hart.echo with
  | none => s
  | some o =>
    if is.all (echoAllows o pc) || (regionAt s o.region).bound != some o.addr then s else violate o.region s

end

end Sys2Proof.Machine
end

