-- ==== Sys2Proof/Machine/Frames.lean ====
section
/-!
DEFINITION. Vector frames (11_isa_sync.md R290, R291): FSAVE and FRSTR. The architected part is laid out as the spec
gives it; the implementation part is the model's own (DESIGN CHOICE, notes/assumptions/12.md).
-/
namespace Sys2Proof.Machine

noncomputable section

/-- The lent state of PFXL. -/
def lendOf (x : Nat) : Lend :=
  { pm := Fin.ofNat 8 (bitsOf x 9 7), neg := bitAt x 6, dc := Fin.ofNat 32 (bitsOf x 5 1), cen := bitAt x 0 }

/-- A loop from its 20 bytes. -/
def loopOf (bs : List Byte) (off : Nat) : HwLoop :=
  let x := fieldAt bs (off + 16) 4
  { live := bitAt x 24, count := bitsOf x 23 0, start := Word.ofNat (fieldAt bs off 8), last := Word.ofNat (fieldAt bs (off + 8) 8) }

/-- The state of a code. -/
def SlotState.ofCode (n : Nat) : SlotState := if n = 0 then .empty else if n = 1 then .opened else if n = 2 then .running else .done

/-- R290: the MAC of the implementation part under the world's key. -/
def frameMac (s : State) (impl : List Byte) : List Byte := padTo 32 (Config.hmacSm3 (worldKey s s.hart.world.val) impl)

/-- R290: the frame of a held context. -/
def frameBytes (s : State) (c : Held) : List Byte :=
  let impl := implPart s.hart c
  archPart s.hart c ++ impl ++ frameMac s impl

/-- R291: the hart's vector side in the launch state of R55; V registers, masks and the grant stay. The loops and what a PFX lends
are the scalar side's, which may have gone on (execFsave). -/
def clearVector (h : Hart) : Hart :=
  let f := Hart.fresh h.id
  { h with
    vl := f.vl, vtype := f.vtype, vstart := f.vstart, cthresh := f.cthresh, ecarry := f.ecarry, mstart := f.mstart, streams := f.streams, binds := [], chdr := f.chdr, crerr := f.crerr, failHdr := f.failHdr, keys := f.keys, qm := f.qm
    held := none, inDeleg := false, surrogate := none, releasedOnce := false }

/-- R387: cause 0x03 where a frame address is not 64-byte aligned. -/
def frameAligned (va : Word) : Bool := aligned va 64

/-- FSAVE in the vector queue (DEDUCED, notes/assumptions/27.md). -/
def opFsave (a : Fin 32) : VOp :=
  { i := .fsave a, xsrc := [a], vector := false, inHandler := true
    effect := fun x s =>
      let va := x.x a
      let s1 := startHartBatches s
      if refreshPending s1 then .error (.wait s1)
      else
        match s1.hart.held with
        | none => fail (illegal (.fsave a) 5 0)
        | some c =>
          if !frameAligned va then fail { cause := 0x03, tval := va }
          else
            match storeObject (reqOf s1 .store .vector .neither) va (frameBytes s1 c) s1 with
            | .error e => .error e
            | .ok s2 => quiet (s2.onHart clearVector) }

/-- R55, R291: LC0 and LC1 are dead behind an FSAVE that has a context to save. -/
def deadLoops (s : State) : State :=
  if s.hart.held.isSome && !framesQueued s.hart then s.onHart fun h => { h with loops := {} } else s

/-- R291, R388: FSAVE. -/
def execFsave (a : Fin 32) (s : State) : Out := .next (privileged (.fsave a) (fun s => vector (opFsave a) (deadLoops s)) s)

/-! ### FRSTR -/

/-- The instruction of a member of a queued convoy, with what is lent to it. -/
def memberOf (bs : List Byte) : Option (Option Lend × Instr) :=
  (decodeWord (fieldAt bs 0 4)).toOption.map fun i => (if fieldAt bs 4 1 = 1 then some (lendOf (fieldAt bs 5 2)) else none, i)

/-- A queued convoy from its bytes and its place in QADDR. -/
def queueOf (vpc : Word) (off : Nat) (bs : List Byte) : QEntry :=
  { pc := vpc + BitVec.ofInt 64 (4 * sextN 32 off)
    members := (List.range (min 4 (fieldAt bs 0 1))).filterMap fun k => memberOf (bs.drop (2 + 7 * k))
    x := (List.range (min 11 (fieldAt bs 1 1))).map fun k => (fieldAt bs (30 + 9 * k) 1, Word.ofNat (fieldAt bs (31 + 9 * k) 8)) }

/-- A pending reply from its fields. -/
def replyOf (bs : List Byte) (k : Nat) : Reply :=
  let d := fieldAt bs (0xB0 + k) 1
  let r : Fin 32 := Fin.ofNat 32 d
  let two := fieldAt bs (0x690 + 16 * k) 1 == 1
  let v := Word.ofNat (fieldAt bs (0xB8 + 8 * k) 8)
  { dests := if two then [r, r + 1] else [r]
    vals := if bitAt d 7 then some (if two then [v, Word.ofNat (fieldAt bs (0x698 + 16 * k) 8)] else [v]) else none }

/-- R291: the held context of a frame. -/
def heldOf (bs : List Byte) : Held :=
  let flags := fieldAt bs 0x0D 1
  let vpc := Word.ofNat (fieldAt bs 0 8)
  { vpc := vpc
    queue := (List.range (min 16 (fieldAt bs 0x26 1))).map fun k => queueOf vpc (fieldAt bs (0x70 + 4 * k) 4) ((bs.drop (0x710 + 132 * k)).take 132)
    replies := (List.range (min 8 (fieldAt bs 0x27 1))).map (replyOf bs)
    loops := { lc0 := loopOf bs 0x28, lc1 := loopOf bs 0x3C, zeroLater := bitAt (fieldAt bs 0x38 4) 25 }
    lend := if bitAt flags 0 then some (lendOf (fieldAt bs 0x0E 2)) else none
    inDeleg := bitAt flags 1
    running := (List.finRange 4).filter fun k => bitAt (fieldAt bs 0x670 1) k.val
    regrant := some (bitsOf (fieldAt bs 0x24 2) 11 8) }

/-- R254: the set of a stream from its 36 bytes. -/
def govOf (bs : List Byte) : Option ParamSet :=
  if fieldAt bs 0 1 = 1 then
    some { ktag := fieldAt bs 1 2, psid := fieldAt bs 3 1, l := fieldAt bs 4 1, n := fieldAt bs 5 2, nvMax := fieldAt bs 7 4
           primes := (List.range 4).map fun k => fieldAt bs (11 + 4 * k) 4 }
  else none

/-- A stream slot of a frame; its progress is SPROG. -/
def slotOf (bs : List Byte) (k : Fin 4) : StreamSlot :=
  let b := bs.drop (0x430 + 96 * k.val)
  { state := SlotState.ofCode (fieldAt b 0 1), scb := { scbOf (b.drop 16) with prog := fieldAt bs (0x50 + 8 * k.val) 8 }, order := fieldAt b 8 8
    gov := govOf (bs.drop (0xF50 + 36 * k.val)) }

/-- A stream binding of a frame. -/
def bindOfFrame (bs : List Byte) : Option Binding :=
  if fieldAt bs 0 1 = 1 then
    some { v := Fin.ofNat 32 (fieldAt bs 1 1), base := Word.ofNat (fieldAt bs 8 8), estride := Word.ofNat (fieldAt bs 16 8)
           count := fieldAt bs 24 8, strip := fieldAt bs 4 4, sewc := fieldAt bs 2 1 % 4, pos := fieldAt bs 32 8, fetched := [] }
  else none

/-- R291: the hart with the held context of a frame. What it issues from now on comes after its streams (R296). -/
def restoreFrame (bs : List Byte) (h : Hart) : Hart :=
  { h with
    held := some (heldOf bs)
    vstart := fieldAt bs 8 4 % 2 ^ 18, mstart := fieldAt bs 0x0C 1 % 128, vl := fieldAt bs 0x10 8 % 2 ^ 18
    vtype := BitVec.ofNat 12 (fieldAt bs 0x18 8), ecarry := BitVec.ofNat 32 (fieldAt bs 0x20 4)
    chdr := Vector.ofFn fun k => BitVec.ofNat 128 (fieldAt bs (0x100 + 16 * k.val) 16)
    failHdr := Vector.ofFn fun k => BitVec.ofNat 32 (fieldAt bs (0x200 + 4 * k.val) 4)
    crerr := Vector.ofFn fun k => Fin.ofNat 4 (fieldAt bs (0x240 + k.val) 1)
    qm := Vector.ofFn fun k => fieldAt bs (0x250 + 8 * k.val) 8
    keys := Vector.ofFn fun k =>
      let b := bs.drop (0x270 + 112 * k.val)
      { bound := fieldAt b 0 1 == 1, handle := fieldAt b 8 8, set := entryOf (b.drop 16) }
    streams := Vector.ofFn (slotOf bs), xferCount := countAbove (Vector.ofFn (slotOf bs)) h.xferCount
    binds := (List.range 4).filterMap fun k => bindOfFrame (bs.drop (0x5B0 + 48 * k))
    releasedOnce := fieldAt bs 0x671 1 == 1
    surrogate := if fieldAt bs 0x672 1 = 1 then some (Fin.ofNat 8 (fieldAt bs 0x673 1), fieldAt bs 0x680 8) else none }

/-- R384: FRSTR in the vector queue. The hart's refreshes complete first (DEDUCED, notes/assumptions/27.md). -/
def opFrstr (a : Fin 32) : VOp :=
  { i := .frstr a, xsrc := [a], vector := false
    effect := fun x s =>
      let va := x.x a
      let s1 := startHartBatches s
      if refreshPending s1 then .error (.wait s1)
      else if s1.hart.held.isSome then fail (illegal (.frstr a) 6 0)
      else if !frameAligned va then fail { cause := 0x03, tval := va }
      else
        match loadBytes (reqOf s1 .load .vector .neither) va 4096 s1 with
        | .error e => .error e
        | .ok (bs, s2) =>
          if frameMac s2 ((bs.drop 256).take 0xEE0) ≠ bs.drop 0xFE0 then .error (.cut { cause := 0x17, tval := va } s2)
          else quiet (s2.onHart (restoreFrame bs)) }

/-- R291, R388: FRSTR. -/
def execFrstr (a : Fin 32) (s : State) : Out := .next (privileged (.frstr a) (vector (opFrstr a)) s)

end

end Sys2Proof.Machine
end

