-- ==== Sys2Proof/Machine/Fabric.lean ====
section
/-!
DEFINITION. The fabric, the memory links and the grotto as the device meets them: flits and link keys (14_fabric.md
R317 to R321, 23 R429 to R433), fabric time (R322), memory links (23 R422), lane retirement (20 R398), grotto switches
and units (23 R426, R427), accesses of other endpoints (05 R122, 23 R435), page migration (05 R125, 23 R428), and the
limits of waiting accesses (05 R134, 23 R423, R424).
-/
namespace Sys2Proof.Machine

noncomputable section

/-! ### Link events (R433) -/

/-- R433: the TVAL of a link event. -/
def linkEventVal (kind num pod plane : Nat) : Word := Word.ofNat (kind + num * 2 ^ 8 + pod * 2 ^ 14 + plane * 2 ^ 16)

/-- R394, R433: a link event queued on a die. -/
def linkEvent (die kind num pod plane : Nat) (s : State) : State := asDie die (dieEvent true (linkEventVal kind num pod plane)) s

/-! ### Ports (R318 to R321, R429 to R432) -/

/-- R429, R430, R431: a port goes down. Its credits are reset with the link, to none, and the packets that wait there move to
other planes; what goes to grotto by this plane (R427) and what the link itself has to say goes with it
(DESIGN CHOICE, notes/assumptions/74.md). -/
def linkReset (p : Fin 64) (rekey : Bool) (s : State) : State :=
  let waiting := (s.dev.ports[p]).queue
  let t := onLinkPort p (fun x =>
    { x with up := false, rekey := rekey, credits := Vector.replicate 4 0, owed := Vector.replicate 4 0, retryOut := none, queue := []
             recv := { x.recv with retries := 0, fails := [] }, send := { x.send with retries := 0 } }) s
  waiting.foldl (fun t f => match f.dest with
    | some k => if epOf k < 3840 then queuePacket (p.val / 16) k f t else t
    | none => t) t

/-- R429, R430, R431: a port goes down, to be re-keyed or with a link event of kind 1. -/
def portDownAct (p : Fin 64) (rekey : Bool) (s : State) : State :=
  let t := linkReset p rekey s
  if rekey then due [Instr.portRekey p] t else linkEvent (p.val / 16) 1 p.val 0 0 t

/-- R320, R321: the flit's slot is the live one, holds a key, and its tag verifies (DESIGN CHOICE, notes/assumptions/37.md). -/
def flitVerifies (d : LinkDir) (flit : List Byte) : Bool :=
  let k : Fin 2 := Fin.ofNat 2 (fieldAt flit 1 1)
  k == d.live && (d.slot k).valid && flitTagOf (d.slot k) flit == flit.drop 240

/-- R317: the depth report of a CONG field kept. -/
def keepDepth (cong : Nat) (l : List (Nat × Nat × Nat)) : List (Nat × Nat × Nat) :=
  let pod := bitsOf cong 1 0
  let kind := bitsOf cong 2 2
  (pod, kind, bitsOf cong 31 8) :: l.filter fun x => !(x.1 == pod && x.2.1 == kind)

/-- R321: the slot that the payload of a marker names is the other one, and holds a key (DESIGN CHOICE,
notes/assumptions/37.md). -/
def markerMoves (d : LinkDir) (flit : List Byte) : Bool :=
  let named : Fin 2 := Fin.ofNat 2 (fieldAt (flitBody (d.slot d.live) ((flit.drop 16).take 224)) 0 1)
  fieldAt flit 0 1 == 3 && named != d.live && (d.slot named).valid

/-- R318 to R321: an accepted flit: its credits, its report, its place in the sequence, and the buffer of its channel, which
is freed; a marker moves the direction to the other slot. -/
def acceptFlit (flit : List Byte) (x : FabricPort) : FabricPort :=
  let credit := fieldAt flit 2 2
  let v : Fin 4 := Fin.ofNat 4 credit
  let r := x.recv
  let old := r.slot r.live
  let r := { r with seq := r.seq + 1, retries := 0 }
  let ch : Fin 4 := Fin.ofNat 4 (fieldAt flit 1 1 / 2)
  let r := if markerMoves r flit then { r.setSlot r.live { old with valid := false } with live := 1 - r.live }
    else r.setSlot r.live { old with counter := old.counter + 1 }
  { x with
    recv := r, retryOut := none, credits := x.credits.set v (x.credits[v] + bitsOf credit 9 2), depths := keepDepth (fieldAt flit 4 4) x.depths
    owed := if fieldAt flit 0 1 = 0 then x.owed else x.owed.set ch (x.owed[ch] + 1) }

/-- R429, R430: a flit discarded: the flit that comes next is asked for again on channel 3, up to 8 times; a tag that fails
is counted for 1 ms of TIME. -/
def discardFlit (p : Fin 64) (tagFailed : Bool) (s : State) : State :=
  let now := s.dev.time.toNat
  let r := (s.dev.ports[p]).recv
  let fails := if tagFailed then now :: r.fails.filter fun t => decide (now < t + 1000000) else r.fails
  if 16 ≤ fails.length then portDownAct p true s
  else if 8 ≤ r.retries then portDownAct p false s
  else onLinkPort p (fun x => queueFlit { type := 1, vc := 3, payload := leBytes 8 r.seq }
    { x with retryOut := some r.seq, recv := { r with retries := r.retries + 1, fails := fails } }) s

/-- R439: an acknowledgement of a migration's confirmation that a flit of channel 3 carries
(DESIGN CHOICE, notes/assumptions/36.md). -/
def ackAct (payload : List Byte) (s : State) : State :=
  if fieldAt payload 0 8 ≠ 2 then s
  else
    let answered (c : Context) : Context := if c.id.toNat = fieldAt payload 8 8 then { c with unconfirmed := false } else c
    s.onDev fun d => { d with ctxs := d.ctxs.map answered }

/-- R320: what an accepted flit asks for beside the port: its payload, where it is a packet of channel 3. -/
def flitPayload (x : FabricPort) (flit : List Byte) (s : State) : State :=
  if fieldAt flit 0 1 = 1 ∧ bitsOf (fieldAt flit 1 1) 2 1 = 3 then
    ackAct (flitBody (x.recv.slot x.recv.live) ((flit.drop 16).take 224)) s
  else s

/-- R429: FLIT_RECEIVE. In the flit time of a flit accepted one is sent (R318). A flit already accepted is dropped; while
a retry is out, the flits after the missing one are discarded in silence. -/
def flitAct (p : Fin 64) (flit : List Byte) (s : State) : State :=
  let x := s.dev.ports[p]
  let seq := fieldAt flit 8 8
  if !x.up || flit.length != 256 || decide (seq < x.recv.seq) then s
  else if seq ≠ x.recv.seq then (if x.retryOut.isSome then s else discardFlit p false s)
  else if flitVerifies x.recv flit then flitPayload x flit (onLinkPort p (fun x => flitTime (acceptFlit flit x)) s)
  else discardFlit p true s

/-- R429: FLIT_RECEIVE. -/
def execFlitReceive (port : Fin 64) (flit : List Byte) (s : State) : Out := .next (flitAct port flit s)

/-- R429: FLIT_RETRY_REQUEST: the flits from SEQ on are sent again as they were; the request for one flit comes at most 8
times before the port goes down. -/
def execFlitRetryRequest (port : Fin 64) (seq : Nat) (s : State) : Out :=
  .next (let x := s.dev.ports[port]
         if !x.up then s
         else
           let n := if x.send.retrySeq = seq then x.send.retries + 1 else 1
           if 8 < n then portDownAct port false s
           else onLinkPort port (fun x => { x with send := { x.send with retrySeq := seq, retries := n, resend := some seq } }) s)

/-- R430: a direction with a fresh key in slot 0, from counter 0. No two agreements have one number: `n` is odd for a re-key and
even at bring-up. -/
def freshDir (n : Nat) : LinkDir := { slot0 := { valid := true, key := Config.freshLinkKey (2 * n), salt := Config.freshLinkKey (2 * n + 1) % 2 ^ 32 } }

/-- R430, R431: PORT_REKEY. Where this end has not asked for it, the far end has counted the failures of the direction that it
receives, and the port goes down here with it. -/
def execPortRekey (port : Fin 64) (s : State) : Out :=
  let n := 256 * s.tick + 4 * port.val + 1
  .next (due [Instr.portUp port] (linkEvent (port.val / 16) 3 port.val 0 0 (onLinkPort port (fun x =>
    { x with rekey := false, send := freshDir n, recv := freshDir (n + 2) }) (linkReset port true s))))

/-- R432: PORT_UP. -/
def execPortUp (port : Fin 64) (s : State) : Out :=
  .next (let x := s.dev.ports[port]
         if x.up || x.rekey then s else linkEvent (port.val / 16) 2 port.val 0 0 (onLinkPort port (fun x => { x with up := true }) s))

/-- R321: the live slot's counter has reached 2^48 - 2^20, and no key for the other slot has been asked for or has come. -/
def FabricPort.wantsKey (x : FabricPort) : Bool :=
  x.up && decide (2 ^ 48 - 2 ^ 20 ≤ x.send.count) && !x.send.requested && !(x.send.slot (1 - x.send.live)).valid

/-- R431: the live slot's counter has reached 2^48 - 2^16, so that nothing more is sent under its key. -/
def FabricPort.exhausted (x : FabricPort) : Bool := x.up && decide (2 ^ 48 - 2 ^ 16 ≤ x.send.count)

/-- R321: KEY_SWITCHOVER_REQUEST. -/
def execKeySwitchoverRequest (port : Fin 64) (s : State) : Out :=
  .next (if (s.dev.ports[port]).wantsKey then onLinkPort port (fun x => { x with send := { x.send with requested := true } }) s else s)

/-- R321, R431: what the counters of the ports make due. -/
def keyEvents (s : State) : List Instr :=
  ((List.finRange 64).flatMap fun p =>
    (if (s.dev.ports[p]).exhausted then [Instr.keyCounterExhausted p] else [])
      ++ if (s.dev.ports[p]).wantsKey then [Instr.keySwitchoverRequest p] else []).filter fun e => !s.agenda.contains e

/-- R318: a port in one step: a flit time of it passes, or none. -/
def flitStep (passes : Bool) (x : FabricPort) : FabricPort :=
  let y := flitTime x
  { x with send := if passes then y.send else x.send, owed := if passes then y.owed else x.owed
           credits := if passes then y.credits else x.credits, queue := if passes then y.queue else x.queue }

/-- R318, R321, R431: the links in one step: the flit times that pass on them, and what their counters make due
(DESIGN CHOICE, notes/assumptions/37.md). -/
def linkTick (s : State) : State :=
  due (keyEvents s) (s.onDev fun d => { d with ports := Vector.ofFn fun p => flitStep (Config.flitSent s.tick p.val) d.ports[p] })

/-- R320, R321: a key installed in the free slot of a direction. At the sender a marker that names the slot is sent under
the live one, and the direction moves on. -/
def installKey (recv : Bool) (slot : Fin 2) (key salt : Nat) (x : FabricPort) : FabricPort :=
  let k : LinkSlot := { valid := true, key := key % 2 ^ 256, salt := salt % 2 ^ 32, counter := 0 }
  if recv then (if slot = x.recv.live then x else { x with recv := x.recv.setSlot slot k })
  else if slot = x.send.live ∨ !x.send.requested then x
  else queueFlit { type := 3, vc := 3, payload := leBytes 1 slot.val } { x with send := { x.send.setSlot slot k with requested := false } }

/-- R320, R321: LINK_KEY_INSTALL. -/
def execLinkKeyInstall (port : Fin 64) (recv : Bool) (slot : Fin 2) (key salt : Nat) (s : State) : Out :=
  .next (onLinkPort port (installKey recv slot key salt) s)

/-- R431: KEY_COUNTER_EXHAUSTED: the port goes down to be re-keyed. -/
def execKeyCounterExhausted (port : Fin 64) (s : State) : Out :=
  .next (if (s.dev.ports[port]).exhausted then portDownAct port true s else s)

/-- R322: TIME_BEACON: TIME is steered toward the reference and never decreases. In the microsecond between two beacons it
gains at most one nanosecond. -/
def execTimeBeacon (t : Nat) (s : State) : Out :=
  .next (s.onDev fun d => { d with time := if d.time.toNat < t then laterTime d.time 1 else d.time })

/-! ### Memory links and lanes (R422, R398) -/

/-- R422: MEMORY_LINK_DOWN. -/
def execMemoryLinkDown (m : Fin 24) (s : State) : Out :=
  .next (if s.dev.linksDown.contains m.val then s
    else linkEvent (m.val / 6) 4 m.val 0 0 (s.onDev fun d => { d with linksDown := d.linksDown ++ [m.val] }))

/-- R398: LANE_RETIREMENT. -/
def execLaneRetirement (c : Nat) (lane : Fin 64) (s : State) : Out :=
  .next (if c < 96 then asCore c (fun s => s.onCore fun k => { k with lanemap := k.lanemap ||| (1#64 <<< lane.val) }) s else s)

/-! ### Grotto (R426, R427) -/

/-- R427: the device is an accelerator of the pod and holds units there. -/
def holdsUnits (s : State) (pod : Nat) : Bool :=
  podOf s.dev.devid == some pod && s.dev.units.any fun u => u.pod == pod && u.part.isSome

/-- R427: a link event of a grotto switch on die 0. -/
def switchEvent (kind pod plane : Nat) (s : State) : State := if holdsUnits s pod then linkEvent 0 kind 0 pod plane s else s

/-- R427: the plane that holds the other copy of a mirrored line. -/
def otherPlane (p : Nat) : Nat := p ^^^ 32

/-- R427: GROTTO_SWITCH_LOST: unmirrored units are lost; mirrored ones where the surviving copy goes too. -/
def execGrottoSwitchLost (pod : Fin 4) (plane : Fin 64) (s : State) : Out :=
  .next (if planeLost s pod.val plane.val then s
    else
      let q := otherPlane plane.val
      let second := planeLost s pod.val q || s.dev.resyncPlanes.contains (pod.val, q)
      switchEvent 5 pod.val plane.val (s.onDev fun d =>
        { d with
          lostPlanes := d.lostPlanes ++ [(pod.val, plane.val)]
          resyncPlanes := d.resyncPlanes.filter (· != (pod.val, plane.val))
          units := d.units.map fun u => if u.pod = pod.val ∧ ((u.shadow.isNone ∧ !u.isShadow) ∨ second) then { u with lost := true } else u }))

/-- R427: a byte of a pod lies in a plane. -/
def inPlane (pod plane key : Nat) : Bool := epOf key == 3840 + pod && planeOf (offOf key) == plane

/-- R427: GROTTO_SWITCH_RETURN: its storage reads zero, and degraded lines are to be copied back. -/
def execGrottoSwitchReturn (pod : Fin 4) (plane : Fin 64) (s : State) : Out :=
  .next (if planeLost s pod.val plane.val then
      let s1 := { s with mem := s.mem.filter fun c => !inPlane pod.val plane.val c.1 }
      switchEvent 6 pod.val plane.val (s1.onDev fun d =>
        { d with
          lostPlanes := d.lostPlanes.filter (· != (pod.val, plane.val))
          resyncPlanes := d.resyncPlanes ++ [(pod.val, plane.val)]
          bad := d.bad.filter fun b => !inPlane pod.val plane.val (b.block * 256) })
    else s)

/-- R427: the lines of a mirrored unit whose copy in a plane is written back from the other copy: target and source keys. -/
def degradedLines (u : GrottoUnit) (plane : Nat) : List (Nat × Nat) :=
  match u.shadow with
  | none => []
  | some sh =>
    (List.range 256).filterMap fun k =>
      let o := u.num * 65536 + 256 * k
      let m := mirrorOff sh o
      let prim := gaOf (3840 + u.pod) o
      let mir := gaOf (3840 + u.pod) m
      if planeOf o = plane then some (prim, mir) else if planeOf m = plane then some (mir, prim) else none

/-- R427, R421: a degraded line copied back from its surviving copy; where that copy fails, the line fails in both. -/
def resyncLine (src dst : Nat) (s : State) : State :=
  match badAt s src with
  | none => copyLine src dst s
  | some b => s.onDev fun d => { d with bad := { b with block := dst / 256 } :: d.bad.filter (·.block != dst / 256) }

/-- R427: MIRROR_RESYNC_COMPLETE. -/
def execMirrorResyncComplete (pod : Fin 4) (plane : Fin 64) (s : State) : Out :=
  .next (if s.dev.resyncPlanes.contains (pod.val, plane.val) then
      let lines := (s.dev.units.filter fun u => u.pod == pod.val && !u.lost).flatMap fun u => degradedLines u plane.val
      (lines.foldl (fun t l => resyncLine l.2 l.1 t) s).onDev fun d =>
        { d with resyncPlanes := d.resyncPlanes.filter (· != (pod.val, plane.val)) }
    else s)

/-- R426: an access that was put off, and so has been accepted, is still to touch a unit. -/
def unitAwaited (s : State) (pod u : Nat) : Bool :=
  (s.hart :: s.harts).any fun h => h.sbuf.any fun x => (x.target.rd :: x.target.wr).any fun k =>
    within k (gaOf (3840 + pod) (u * 65536)) 65536

/-- R426: GROTTO_UNIT_ZERO: a freed unit is zeroed once every access accepted to it has been performed, and is free from then on. -/
def execGrottoUnitZero (pod : Fin 4) (u : Nat) (s : State) : Out :=
  .next (if s.dev.units.any fun x => x.pod == pod.val && x.num == u && x.part.isNone then
      if unitAwaited s pod.val u then later [.grottoUnitZero pod u] s
      else (zeroUnit pod.val u s).onDev fun d =>
        { d with units := d.units.filter fun x => !(x.pod == pod.val && x.num == u) }
    else s)

/-! ### Accesses of other endpoints (R122, R323, R337, R435) -/

/-- R97, R122, R302, R323, R337, R435: whether this device accepts a write of another endpoint at the byte of an offset. A
scratchpad is reached by puts and signals alone, a key store by no atomic, and the command window by admitted hosts. -/
def remoteByte (s : State) (ep kind off : Nat) : Bool :=
  let admitted := s.dev.admittedHosts.contains ep
  decide (off < s.dev.capacity - s.dev.shroudArea)
    || (within off scratchOff (96 * 0x100000) && (kind == 2 || kind == 3))
    || (within off keyOff 0x20000000 && (kind == 1 || kind == 2))
    || (within off windowOff (96 * 0x1000) && admitted)
    || (within off mailboxOff (16 * 0x1000) && admitted)

/-- R122, R302: a write of another endpoint is accepted in every byte, or is the signal of an accelerator to a POSTED field. -/
def remoteOk (s : State) (ep kind off n : Nat) : Bool :=
  (List.range n).all (fun i => remoteByte s ep kind (off + i)) || (kind == 3 && isPosted off && n == 8 && decide (ep < 1024))

/-- R397, R419: a block that fails takes no part of itself, and a failing word of a scratchpad is written but not read. -/
def remoteStored (s : State) (kind off n : Nat) : Bool :=
  (List.range n).all fun i =>
    let key := gaOf s.dev.devid (off + i)
    (storageTrap s 0 key 0).isNone
      || (!s.dev.linksDown.contains (linkOf (off + i)) && decide (off ≤ (off + i) / 256 * 256) && decide ((off + i) / 256 * 256 + 256 ≤ off + n))
      || (kind ≤ 2 && (badAt s key).any (·.word.isSome))

/-- The blocks and words that a stretch of bytes writes whole no longer fail. -/
def healRange (key n : Nat) (s : State) : State :=
  s.onDev fun d => { d with bad := d.bad.filter fun b =>
    match b.word with
    | none => !(decide (key ≤ b.block * 256) && decide (b.block * 256 + 256 ≤ key + n))
    | some w => !(decide (key ≤ b.block * 256 + 4 * w) && decide (b.block * 256 + 4 * w + 4 ≤ key + n)) }

/-- R122: a write of another endpoint performed here, or refused whole. -/
def remoteStore (ep kind off : Nat) (data : List Byte) (s : State) : State :=
  let n := data.length
  if ep = s.dev.devid ∨ !remoteOk s ep kind off n ∨ !remoteStored s kind off n then s
  else
    let key := gaOf s.dev.devid off
    healRange key n (afterStore .engine none key n (writeKey key data s))

/-- R166, R266: the read and write of a kind of REMOTE_ENDPOINT_ACCESS. -/
def remoteKind (kind : Nat) : RmwKind :=
  ([RmwKind.sub, .swap, .add, .and, .or, .xor, .min, .max, .minu, .maxu][kind - 3]?).getD .cas

/-- R166, R266: a signal or an atomic of `n` bytes, with its operand, and before it the value that CAS expects. -/
def remoteRmwOf (kind n : Nat) (data : List Byte) : Rmw :=
  { kind := remoteKind kind, n := n, b := fieldAt data (if kind = 13 then n else 0) n, e := fieldAt data 0 n }

/-- R112, R135, R266: a signal or an atomic of another endpoint, aligned to its size, performed here as one operation. -/
def remoteRmw (ep kind off : Nat) (data : List Byte) (s : State) : State :=
  let n := if kind = 13 then data.length / 2 else data.length
  if (n ≠ 8 ∧ (n ≠ 4 ∨ kind = 3)) ∨ off % n ≠ 0 then s
  else remoteStore ep kind off (leBytes n ((remoteRmwOf kind n data).new (peek (gaOf s.dev.devid off) n s))) s

/-- R129, R372, R426, R427: the copies of a byte of grotto that a store of a hart of a partition updates, the one that a load
reads first; none where that partition does not own its unit, or it is lost, or is not open to an atomic. -/
def grottoCopies (s : State) (part ga : Nat) (atomic : Bool) : List Nat :=
  let pod := epOf ga - 3840
  let o := offOf ga
  match (if epOf ga < 3840 ∨ s.dev.pods ≤ pod ∨ 2 ^ 41 ≤ o then none else unitAt s pod o) with
  | none => []
  | some u =>
    if u.part != some part || u.lost || (atomic && !u.openat) then []
    else
      let prim := if planeLost s pod (planeOf o) then [] else [gaOf (3840 + pod) o]
      match u.shadow with
      | none => prim
      | some sh => prim ++ if planeLost s pod (planeOf (mirrorOff sh o)) then [] else [gaOf (3840 + pod) (mirrorOff sh o)]

/-- R122, R372: an access of another accelerator, or of a host, to places outside this device, byte `i` at the copies given;
one that some byte has no copy of is refused (DEDUCED, notes/assumptions/57.md). -/
def remoteCopies (copies : Nat → List Nat) (kind ga : Nat) (data : List Byte) (s : State) : State :=
  let n := if kind = 13 then data.length / 2 else data.length
  if ((List.range n).any fun i => (copies i).isEmpty) ∨ (3 ≤ kind ∧ ((n ≠ 8 ∧ (n ≠ 4 ∨ kind = 3)) ∨ ga % n ≠ 0)) then s
  else
    let old := leNat ((List.range n).map fun i => Memory.read s.mem ((copies i).headD 0))
    let new := if kind ≤ 2 then data else leBytes n ((remoteRmwOf kind n data).new old)
    (List.range n).foldl (fun t i => (copies i).foldl (fun t k => poke k [new.getD i 0] t) t) s

/-- R372, R426: an access of a hart of a partition on another accelerator to grotto. -/
def remoteGrotto (ep part kind ga : Nat) (data : List Byte) (s : State) : State :=
  if 1024 ≤ ep ∨ ep = s.dev.devid then s
  else remoteCopies (fun i => grottoCopies s part (ga + i) (decide (3 ≤ kind))) kind ga data s

/-- R122, R132: another endpoint's memory as an agent other than this device changes it: in the load-store domain every
device sees one memory. -/
def remoteElsewhere (ep kind ga : Nat) (data : List Byte) (s : State) : State :=
  if ep = s.dev.devid then s else remoteCopies (fun i => if epOf (ga + i) = epOf ga then [ga + i] else []) kind ga data s

/-- R128, R129, R372: a GALLOC of another accelerator, which its own quota admits: the switches record the owner, and nothing
is charged here. -/
def remoteGalloc (ep part ga : Nat) (data : List Byte) (s : State) : State :=
  let pod := epOf ga - 3840
  let n := fieldAt data 0 4
  let attrs := fieldAt data 4 1
  if ep = s.dev.devid ∨ 1024 ≤ ep ∨ s.dev.pods ≤ pod ∨ n = 0 then s
  else ((allocUnits ep part pod n (bitAt attrs 0) (bitAt attrs 1) s).map (·.2)).getD s

/-- R275, R372: a GFREE of a hart of a partition on another accelerator, of units from a global address on. -/
def remoteGfree (ep part ga : Nat) (data : List Byte) (s : State) : State :=
  if ep = s.dev.devid ∨ 1024 ≤ ep ∨ offOf ga % 65536 ≠ 0 ∨ 2 ^ 41 ≤ offOf ga then s
  else freeUnits part ((epOf ga - 3840) * podUnits + offOf ga / 65536) (fieldAt data 0 4) s

/-- R122, R372: an access of another endpoint as the place it goes to takes it. -/
def remoteAct (ep part kind ga : Nat) (data : List Byte) (s : State) : State :=
  let grotto := decide (3840 ≤ epOf ga) && decide (epOf ga < 3844)
  if kind = 0 then s
  else if kind = 14 then (if grotto then remoteGalloc ep part ga data s else s)
  else if kind = 15 then (if grotto then remoteGfree ep part ga data s else s)
  else if grotto then remoteGrotto ep part kind ga data s
  else if epOf ga ≠ s.dev.devid then remoteElsewhere ep kind ga data s
  else if kind ≤ 2 then remoteStore ep kind (offOf ga) data s
  else remoteRmw ep kind (offOf ga) data s

/-- The global address that an event of another endpoint names: an offset of this device, or any global address. -/
def remoteGa (s : State) (off : Nat) : Nat := if off < 2 ^ 44 then gaOf s.dev.devid off else off % 2 ^ 56

/-- R319, R435: what this device answers leaves on channel 1: a request to a place of its own has a response, which says whether
it was refused. -/
def remoteAnswer (ep kind ga n : Nat) (s0 s : State) : State :=
  if epOf ga = s0.dev.devid then respond ep (!remoteOk s0 ep kind (offOf ga) (max 1 n)) s else s

/-- R122, R372: REMOTE_ENDPOINT_ACCESS, to an offset of this device or to a global address. A load changes no memory here, and
its answer, as that of every request to this device, leaves by a port (DEDUCED, notes/assumptions/57.md). -/
def execRemoteEndpointAccess (ep : Nat × Fin 96) (kind : Fin 16) (off : Nat) (data : List Byte) (s : State) : Out :=
  .next (remoteAnswer ep.1 kind.val (remoteGa s off) (if kind = 13 then data.length / 2 else data.length) s (remoteAct ep.1 ep.2.val kind.val (remoteGa s off) data s))

/-! ### Page migration (R125, R428) -/

/-- R125: the copy engine's request for a migration, which comes behind the hart's transfers. -/
def migrateReq (s : State) (k : AccKind) (va n : Nat) : Req :=
  { reqOf s k .engine .neither with priv := .s, order := some (2 ^ 63 + va / 4096), whole := if k = .store then [(va, va + n)] else [] }

/-- R428: the destination byte of an offset, with its checks. -/
def migrateDest (va : Word) (dest n k : Nat) (s : State) : Except Stop (Target × State) :=
  let r := migrateReq s .store va.toNat n
  let a := va + BitVec.ofNat 64 k
  match placeTarget s r a (dest + k) 0 with
  | .error e => .error e
  | .ok x => arrive r a s x

/-- R428, R418: the bytes of a page read and the bytes of its destination checked, in ascending order. -/
def scanPage (va : Word) (dest n : Nat) : Nat → List Byte → State → Scan
  | 0, acc, s => .done acc.reverse s
  | m + 1, acc, s =>
    let k := n - (m + 1)
    match load (migrateReq s .load va.toNat n) (va + BitVec.ofNat 64 k) 1 1 s with
    | .error (.trap t _) => .fault k false t s
    | .error (.cut t _) => .fault k false t s
    | .error (.trim _) => .wait s
    | .error (.wait t) => .wait t
    | .ok (b, s1) =>
      match migrateDest va dest n k s1 with
      | .error (.trap t _) => .fault k true t s1
      | .error (.cut t _) => .fault k true t s1
      | .error (.trim _) => .wait s1
      | .error (.wait t) => .wait t
      | .ok (_, s2) => scanPage va dest n m (BitVec.ofNat 8 b :: acc) s2

/-- R125: the bytes of a page landed at its destination. -/
def landPage (va : Word) (dest n : Nat) : Nat → List Byte → State → State
  | _, [], s => s
  | k, b :: bs, s =>
    match migrateDest va dest n k s with
    | .ok (t, s') => landPage va dest n (k + 1) bs (writeTarget (migrateReq s .store va.toNat n) t (va + BitVec.ofNat 64 k) [b] s')
    | .error _ => landPage va dest n (k + 1) bs s

/-- R428, R418: the copy of a page as far as it gets: the bytes below `lim` landed, and the fault; none while an access
waits. -/
def runPage (va : Word) (dest : Nat) : Nat → Nat → Option (Nat × Bool × Trap) → State → Option (Option (Nat × Bool × Trap)) × State
  | 0, _, _, s => (none, s)
  | fuel + 1, lim, found, s =>
    match scanPage va dest lim lim [] s with
    | .done bs t => (some found, landPage va dest lim 0 bs t)
    | .fault f d t _ => runPage va dest fuel f (some (f, d, t)) s
    | .wait t => (none, t)

/-- R125: stores of any agents that reach the source page at global address `src`, applied there in their order; one that waits
there, and those behind it, are still to come. One that the place refuses stops the agent that makes it. -/
def sourceStores (src : Nat) : List (Nat × Byte) → State → List (Nat × Byte) × State
  | [], s => ([], s)
  | x :: xs, s =>
    let r : Req := { reqOf s .store .engine .neither with priv := .s, hart := 512 }
    match placeTarget s r 0 (src + x.1) 0 with
    | .error _ => sourceStores src xs s
    | .ok (t, s1) =>
      if t.wr.any fun k => lockedBy s1 r k || silent s1 k then (x :: xs, s)
      else if t.wr.any fun k => (keyTrap s1 r 0 t 0 k).isSome then sourceStores src xs s
      else sourceStores src xs (writeTarget r t 0 [x.2] s1)

/-- R125: PAGE_MIGRATION by the copy engine for the hart in focus: the stores that reach the source are applied there, the
page is copied (a line written during the copy is copied again), and the flip points the leaf at the destination; a copy
that faults, in its translation too, performs no flip (DEDUCED, notes/assumptions/39.md). -/
def migrateAct (va dest : Nat) (stores : List (Nat × Byte)) (s : State) : State :=
  let asid := bitsOf s.hart.ptbase.toNat 59 16 * 4096
  match walk s (BitVec.ofNat 64 va) 0x05 [5, 4, 3, 2, 1] asid with
  | .error (.trap t _) => engineFail s.hart.xferCount 0 false t s
  | .error _ => s
  | .ok l =>
    if bitAt l.pte 12 ∨ dest % l.size ≠ 0 ∨ va % l.size ≠ 0 ∨ 2 ^ 56 ≤ dest then s
    else
      let (rest, s1) := sourceStores (gapn l.pte) (stores.filter fun x => decide (x.1 < l.size)) s
      match if rest.isEmpty then runPage (BitVec.ofNat 64 va) dest 4 l.size none s1 else (none, s1) with
      | (none, t) => later [Instr.pageMigration s.hart.id va dest rest] t
      | (some (some (f, d, tr)), t) => engineFail t.hart.xferCount f d tr t
      | (some none, t) =>
        let n := l.size / (2 ^ (12 + 9 * (leafLevel (bitsOf l.pte 11 8) - 1)))
        (List.range n).foldl (fun u k =>
          let pte := peek (l.first + 8 * k) 8 u
          poke (l.first + 8 * k) (leBytes 8 (setField (pte / 2 ^ 16) 44 0 (dest / 4096) * 2 ^ 16 + pte % 2 ^ 16)) u) t

/-- R125, R428: PAGE_MIGRATION. -/
def execPageMigration (h va dest : Nat) (stores : List (Nat × Byte)) (s : State) : Out := .next (asHart h (migrateAct va dest stores) s)

/-! ### Limits of waiting accesses (R134, R423, R424) -/

/-- R424: a store or an atomic of a waiting access that was performed although no answer came: an atomic on the value that its
location then holds. -/
def performLate (w : MemWait) (s : State) : State :=
  match w.late with
  | none => s
  | some (va, a) =>
    let k : AccKind := match a with
      | .store _ => .store
      | _ => .atomic
    let r : Req := match w.who with
      | .scalar => reqOf s k .scalar .neither
      | .vector => reqOf s k .vector .neither
      | .engine n =>
        match s.hart.xfers.find? (·.id == n) with
        | some x => engineReq s x .atomic
        | none => { reqOf s .store .port .neither with order := some n }
    match resolve r va s with
    | .ok (t, s') => a.perform r t va s'
    | .error _ => s

/-- R424: REMOTE_TIMEOUT: the access raises 0x11 when it is made again; a store may have been performed
(DESIGN CHOICE, notes/assumptions/38.md). -/
def remoteTimeoutAct (s : State) : State :=
  let overdue : MemWait → Bool := fun w => w.trap.cause == 0x11 && !w.expired && decide (w.limit ≤ s.dev.time.toNat)
  let s1 := if Config.performedAnyway s.tick then (s.hart.waits.filter overdue).foldl (fun u w => performLate w u) s else s
  s1.onHart fun h => { h with waits := h.waits.map fun w => if overdue w then { w with expired := true, late := none } else w }

/-- R424: REMOTE_TIMEOUT. -/
def execRemoteTimeout (h : Nat) (s : State) : Out := .next (asHart h remoteTimeoutAct s)

/-- R423: REPLICA_LOCK_TIMEOUT. -/
def execReplicaLockTimeout (h : Nat) (s : State) : Out :=
  .next (asHart h (fun s => s.onHart fun h => { h with waits := h.waits.map fun w =>
    if w.trap.cause = 0x12 ∧ (w.redirect || !w.load) ∧ w.limit ≤ s.dev.time.toNat then { w with expired := true } else w }) s)

/-- R134: LOCKED_LOAD_REDIRECT: the load goes to the home, where a further limit may pass (R423). -/
def execLockedLoadRedirect (h : Nat) (s : State) : Out :=
  .next (asHart h (fun s =>
    let overdue : MemWait → Bool := fun w => w.trap.cause == 0x12 && w.load && !w.redirect && decide (w.limit ≤ s.dev.time.toNat)
    let sent : MemWait → MemWait := fun w =>
      if overdue w then { w with redirect := true, limit := s.dev.time.toNat + 64000 } else w
    if s.hart.waits.any overdue then
      (inTime 64000 (.replicaLockTimeout s.hart.id) s).onHart fun h => { h with waits := h.waits.map sent }
    else s) s)

end

end Sys2Proof.Machine
end

