-- ==== Sys2Proof/Machine/Trust.lean ====
section
/-!
DEFINITION. The trust controller (15_trust.md R335 to R349, 23 R437 to R439): the mailbox, attestation, firmware,
confidential contexts, migration, the configuration, and the reset of the device. What the spec leaves open of the layouts
of its payloads is named in a log entry (DESIGN CHOICE, notes/assumptions/36.md).
-/
namespace Sys2Proof.Machine

noncomputable section

/-! ### The mailbox (R337, R437) -/

/-- Bytes of a mailbox slot. -/
def slotBytes (s : State) (slot : Fin 16) (off n : Nat) : List Byte := Memory.reads s.mem (mailKey s slot.val off) n

/-- A field of a mailbox slot. -/
def slotField (s : State) (slot : Fin 16) (off n : Nat) : Nat := leNat (slotBytes s slot off n)

/-- R337: the payload of a request, by its LEN. -/
def payloadOf (s : State) (slot : Fin 16) : List Byte := slotBytes s slot 0x40 (min 4032 (slotField s slot 0x0C 4))

/-- R337: a request answered: the answer and its STATUS are written into the slot, and the requester's DONE counter is
decremented. LEN stays as the request has it (DESIGN CHOICE, notes/assumptions/75.md). -/
def answerSlot (slot : Fin 16) (status : Nat) (payload : List Byte) (s : State) : State :=
  let s1 := poke (mailKey s slot.val 0x40) (payload.take 4032) (poke (mailKey s slot.val 0x0A) (leBytes 2 status) s)
  let s2 := s1.onDev fun d => { d with mailbox := d.mailbox.filter (· != slot) }
  decrementDone (slotField s slot 0x10 8) 96 0 s2

/-- R437: a request whose LEN or reserved bytes are out of range. -/
def slotBad (s : State) (slot : Fin 16) : Bool := decide (4032 < slotField s slot 0x0C 4) || !zeroAt (slotBytes s slot 0x20 32) 0 32

/-- R337, R340, R437: a request served in its turn: slots are served in the order in which they are posted, and each by the
step of its CMD as it then reads; an unknown CMD is answered at once. An ATTEST during an activation is not held back. -/
def serve (cmd : Nat) (ev : Instr) (slot : Fin 16) (f : State → State) (s : State) : State :=
  let c := slotField s slot 0x08 2
  if !s.dev.mailbox.contains slot then s
  else if s.dev.mailbox.head? ≠ some slot ∧ !(cmd == 1 && c == 1 && s.dev.firmware.activating.isSome) then later [ev] s
  else
    if c = 0 ∨ 9 < c then answerSlot slot 2 [] s
    else if c ≠ cmd then due [mailEvent c slot] s
    else if slotBad s slot then answerSlot slot 2 [] s
    else f s

/-! ### Attestation (R338, R339) -/

/-- R338: the measurement set: digests, then the counter values as entries of their own. -/
def measurements (s : State) : List (List Byte) :=
  (padTo 32 Config.bootRomDigest :: padTo 32 s.dev.firmware.running :: s.dev.configDigests.map (padTo 32))
    ++ (s.dev.firmware.version :: s.dev.configCounters.map (·.2)).map fun n => padTo 32 (leBytes 8 n)

/-- R339: the attestation report for a nonce, with its signature (DESIGN CHOICE, notes/assumptions/36.md); of more than 96 entries it
holds the first 96 (DESIGN CHOICE, notes/assumptions/75.md). -/
def report (nonce : List Byte) (s : State) : List Byte :=
  let meas := (measurements s).take 96
  let act := s.dev.firmware.activating
  let body := padTo 32 nonce ++ padTo 32 (Config.sm3 (identityPublic s.dev)) ++ leBytes 8 s.dev.time.toNat ++ leBytes 2 meas.length
    ++ leBytes 2 (if act.isSome then 1 else 0) ++ leBytes 4 0 ++ padTo 32 ((act.map (·.1)).getD []) ++ meas.flatMap id
  body ++ padTo 64 (Config.sm2Sign (identityPrivate s.dev) (Config.sm3 body))

/-- R339, R340: ATTEST. -/
def execAttest (slot : Fin 16) (s : State) : Out :=
  .next (serve 1 (.attest slot) slot (fun s =>
    answerSlot slot (if s.dev.firmware.activating.isSome then 1 else 0) (report ((payloadOf s slot).take 32) s) s) s)

/-! ### Contexts (R341 to R343) -/

/-- The context named by an id. -/
def ctxById (s : State) (id : BitVec 64) : Option Context := s.dev.ctxs.find? (·.id == id)

/-- A context changed. -/
def onCtx (id : BitVec 64) (f : Context → Context) (s : State) : State :=
  s.onDev fun d => { d with ctxs := d.ctxs.map fun c => if c.id = id then f c else c }

/-- The entries of 32 bytes of a list. -/
def digestsOf (n : Nat) (bs : List Byte) : List (List Byte) := (List.range n).map fun k => (bs.drop (32 * k)).take 32

/-- R341: a context from its policy; none for a policy of another length. -/
def ctxOfPolicy (id : BitVec 64) (bs : List Byte) : Option Context :=
  let nl := fieldAt bs 0x40 2
  let np := fieldAt bs 0x42 2
  if bs.length ≠ 0x48 + 32 * (nl + np) then none
  else
    some { id := id, modelOwner := bs.take 32, dataOwner := (bs.drop 32).take 32, leaves := digestsOf nl (bs.drop 0x48)
           peers := digestsOf np (bs.drop (0x48 + 32 * nl)), shareM := none, shareD := none, state := .opened, dest := []
           unconfirmed := false }

/-- R337: a new context id: none that the device knows, nor that of world 0 (DESIGN CHOICE, notes/assumptions/36.md). -/
def freshCtxId (d : Dev) : BitVec 64 :=
  let base := Config.contextId d.ctxCount
  (((List.range (d.ctxs.length + 2)).map fun k => base + BitVec.ofNat 64 k).find? fun x => x != 0 && !d.ctxs.any (·.id == x)).getD base

/-- R341: CTXOPEN. -/
def openCtx (slot : Fin 16) (s : State) : State :=
  let id := freshCtxId s.dev
  match ctxOfPolicy id (payloadOf s slot) with
  | none => answerSlot slot 2 [] s
  | some c =>
    answerSlot slot 0 [] (poke (mailKey s slot.val 0x18) (leBytes 8 id.toNat)
      (s.onDev fun d => { d with ctxs := d.ctxs ++ [c], ctxCount := d.ctxCount + 1 }))

/-- R341: CTXOPEN. -/
def execCtxopen (slot : Fin 16) (s : State) : Out := .next (serve 2 (.ctxopen slot) slot (openCtx slot) s)

/-- R337: the context a request names in CTX. -/
def slotCtx (s : State) (slot : Fin 16) : Option Context := ctxById s (BitVec.ofNat 64 (slotField s slot 0x18 8))

/-- R341, R348: a share put into a context; once both are present a later one is ignored. -/
def putShare (model : Bool) (share : List Byte) (c : Context) : Context :=
  if c.shareM.isSome ∧ c.shareD.isSome then c else if model then { c with shareM := some share } else { c with shareD := some share }

/-- R341, R437: CTXSHARE: the owner's public key, its signature over the digest of the wrapped share, and the wrapped
share (DESIGN CHOICE, notes/assumptions/36.md). One key for both owners gives the model owner's share first
(DESIGN CHOICE, notes/assumptions/79.md). -/
def shareAct (slot : Fin 16) (s : State) : State :=
  let p := payloadOf s slot
  let owner := Config.sm3 (p.take 64)
  let wrapped := p.drop 128
  match slotCtx s slot with
  | none => answerSlot slot 5 [] s
  | some c =>
    if c.state ≠ .opened then answerSlot slot 5 [] s
    else if owner ≠ c.modelOwner ∧ owner ≠ c.dataOwner then answerSlot slot 6 [] s
    else if !Config.sm2Verify (p.take 64) (Config.sm3 wrapped) ((p.drop 64).take 64) then answerSlot slot 3 [] s
    else
      match Config.sm2Decrypt (identityPrivate s.dev) wrapped with
      | none => answerSlot slot 3 [] s
      | some share =>
        if share.length ≠ 32 then answerSlot slot 3 [] s
        else
          let model := owner == c.modelOwner && (owner != c.dataOwner || c.shareM.isNone)
          answerSlot slot 0 [] (onCtx c.id (putShare model share) s)

/-- R341: CTXSHARE. -/
def execCtxshare (slot : Fin 16) (s : State) : Out := .next (serve 3 (.ctxshare slot) slot (shareAct slot) s)

/-- R343: CTXEND. -/
def endAct (slot : Fin 16) (s : State) : State :=
  match slotCtx s slot with
  | none => answerSlot slot 5 [] s
  | some c =>
    if c.state ≠ .opened then answerSlot slot 5 [] s
    else due [Instr.contextErase c.id.toNat] (answerSlot slot 0 [] (onCtx c.id (fun c => { c with state := .ending }) s))

/-- R343: CTXEND. -/
def execCtxend (slot : Fin 16) (s : State) : Out := .next (serve 4 (.ctxend slot) slot (endAct slot) s)

/-- R342: the worlds bound to a context. -/
def worldsOf (s : State) (id : BitVec 64) : List Nat := (s.dev.worlds.filter (·.ctx == id)).map (·.world)

/-- R343, R348: a hart is bound in a world of the context, or completes a WSW into one. -/
def ctxInUse (s : State) (id : BitVec 64) : Bool :=
  (boundHarts s).any fun h => (worldsOf s id).contains h.world.val || h.switching.any fun w => (worldsOf s id).contains w.val

/-- R343, R234: the table registers valid under some worlds made invalid. -/
def dropTables (ws : List Nat) (s : State) : State :=
  let f : Core → Core := fun c => { c with tables := c.tables.map fun t => if ws.contains t.world then { t with valid := false } else t }
  { s with core := f s.core, cores := s.cores.map f }

/-- R343: a context's keys erased and its worlds unbound. -/
def eraseCtx (id : BitVec 64) (s : State) : State :=
  let ws := worldsOf s id
  (onCtx id (fun c => { c with shareM := none, shareD := none, state := .ended }) (dropTables ws s)).onDev fun d =>
    { d with worlds := d.worlds.filter (·.ctx != id) }

/-- R343: CONTEXT_ERASE. -/
def execContextErase (ctx : Nat) (s : State) : Out :=
  .next (let id := BitVec.ofNat 64 ctx
         match ctxById s id with
         | none => s
         | some c => if c.state ≠ .ending then s else if ctxInUse s id then later [Instr.contextErase ctx] s else eraseCtx id s)

/-- R342, R155: WBIND: world id, flag and context id in the payload (DEDUCED, notes/assumptions/40.md); the flag holds at once
for the harts in the world. -/
def bindWorld (slot : Fin 16) (s : State) : State :=
  let p := payloadOf s slot
  let w := fieldAt p 0 1
  let id := BitVec.ofNat 64 (fieldAt p 8 8)
  if p.length ≠ 16 ∨ w = 0 ∨ 1 < fieldAt p 1 1 then answerSlot slot 2 [] s
  else
    match ctxById s id with
    | none => answerSlot slot 5 [] s
    | some c =>
      if c.state ≠ .opened then answerSlot slot 5 [] s
      else
        answerSlot slot 0 [] (refreshCt (s.onDev fun d =>
          { d with worlds := { world := w, ctx := id, ct := fieldAt p 1 1 == 1 } :: d.worlds.filter (·.world != w) }))

/-- R342: WBIND. -/
def execWbind (slot : Fin 16) (s : State) : Out := .next (serve 5 (.wbind slot) slot (bindWorld slot) s)

/-! ### Migration (R348, R439) -/

/-- The failing words of a bit image. -/
def badOf (regs img : Nat) : List (Nat × Nat) :=
  ((List.range (4096 * regs)).filter fun i => bitAt img i).map fun i => (i / 4096, i % 4096)

/-- A shroud from its bytes and its MAC. -/
def shroudOfBytes (bs : List Byte) : Shroud :=
  let f1 := (bs.drop (4 + 32 * 16384 + 8 * 512)).take 4096
  let f2 := (bs.drop (4 + 32 * 16384 + 8 * 512 + 4096)).take 4096
  let bad := bs.drop (4 + 32 * 16384 + 8 * 512 + 2 * 4096)
  let h := restoreFrame f1 (Hart.fresh 0)
  let own := heldOf f1
  { hart := fieldAt bs 0 2, place := 0, world := fieldAt bs 2 1, mac := (bs.drop (shroudLen - 32)).take 32
    v := Vector.ofFn fun k => fieldAt bs (4 + 16384 * k.val) 16384, m := Vector.ofFn fun k => fieldAt bs (4 + 32 * 16384 + 512 * k.val) 512
    vbad := (badOf 32 (fieldAt bad 0 16384)).map fun b => (Fin.ofNat 32 b.1, b.2)
    mbad := (badOf 8 (fieldAt bad 16384 4096)).map fun b => (Fin.ofNat 8 b.1, b.2)
    chdr := h.chdr, crerr := h.crerr, failHdr := h.failHdr, keys := h.keys, qm := h.qm, vl := h.vl, vtype := h.vtype, vstart := h.vstart
    ecarry := h.ecarry, mstart := h.mstart, groups := BitVec.ofNat 8 (fieldAt f1 0x24 1), loops := own.loops, lend := own.lend
    inDeleg := own.inDeleg, streams := h.streams, binds := h.binds, held := if fieldAt bs 3 1 = 1 then some (heldOf f2) else none
    surrogate := h.surrogate, releasedOnce := h.releasedOnce }

/-- R348: shares, policy, world bindings, shrouds and expiry of a context (DESIGN CHOICE, notes/assumptions/36.md). -/
def packageOf (s : State) (c : Context) (expiry : Nat) : List Byte :=
  let ws := s.dev.worlds.filter (·.ctx == c.id)
  let sh := s.dev.shrouds.filter fun k => (worldsOf s c.id).contains k.world
  leBytes 8 c.id.toNat ++ leBytes 8 expiry ++ leBytes 2 c.leaves.length ++ leBytes 2 c.peers.length ++ leBytes 2 ws.length
    ++ leBytes 2 sh.length ++ flagByte c.shareM.isSome ++ flagByte c.shareD.isSome ++ leBytes 6 0
    ++ padTo 32 (c.shareM.getD []) ++ padTo 32 (c.shareD.getD []) ++ padTo 32 c.modelOwner ++ padTo 32 c.dataOwner
    ++ c.leaves.flatMap (padTo 32) ++ c.peers.flatMap (padTo 32) ++ ws.flatMap (fun w => leBytes 1 w.world ++ flagByte w.ct)
    ++ sh.flatMap shroudImage

/-- R348, R439: CTXEXPORT. The package is the source's public key, its signature and the encrypted body
(DESIGN CHOICE, notes/assumptions/36.md). -/
def exportAct (slot : Fin 16) (s : State) : State :=
  let dest := (payloadOf s slot).take 64
  match slotCtx s slot with
  | none => answerSlot slot 5 [] s
  | some c =>
    if c.state ≠ .opened then answerSlot slot 5 [] s
    else if !c.peers.contains (Config.sm3 dest) then answerSlot slot 6 [] s
    else if ctxInUse s c.id then later [Instr.ctxexport slot] s
    else
      let body := (Config.packageBody dest (packageOf s c (s.dev.time.toNat + 10000000000))).toList
      let pkg := padTo 64 (identityPublic s.dev) ++ padTo 64 (Config.sm2Sign (identityPrivate s.dev) (Config.sm3 body)) ++ body
      onCtx c.id (fun c => { c with shareM := none, shareD := none, state := .exported, dest := dest }) (answerSlot slot 0 pkg s)

/-- R348: CTXEXPORT. -/
def execCtxexport (slot : Fin 16) (s : State) : Out := .next (serve 6 (.ctxexport slot) slot (exportAct slot) s)

/-- R348: the context of a package's body. -/
def ctxOfPackage (bs : List Byte) : Context :=
  let nl := fieldAt bs 0x10 2
  let np := fieldAt bs 0x12 2
  { id := BitVec.ofNat 64 (fieldAt bs 0 8), modelOwner := (bs.drop 0x60).take 32, dataOwner := (bs.drop 0x80).take 32
    leaves := digestsOf nl (bs.drop 0xA0), peers := digestsOf np (bs.drop (0xA0 + 32 * nl))
    shareM := if fieldAt bs 0x18 1 = 1 then some ((bs.drop 0x20).take 32) else none
    shareD := if fieldAt bs 0x19 1 = 1 then some ((bs.drop 0x40).take 32) else none
    state := .opened, dest := [], unconfirmed := true }

/-- R439: the digest that a confirmation signs. -/
def confirmDigest (id : BitVec 64) : List Byte := Config.sm3 (label "moved" ++ leBytes 8 id.toNat)

/-- R348, R439: the confirmation of a context, signed by this device, goes out on channel 3, and again 100 µs later for as
long as it is not acknowledged (DESIGN CHOICE, notes/assumptions/36.md). -/
def confirmAct (id : BitVec 64) (s : State) : State :=
  if !(ctxById s id).any (·.unconfirmed) then s
  else
    let sig := padTo 64 (Config.sm2Sign (identityPrivate s.dev) (confirmDigest id))
    inTime 100000 (.confirmationResend id.toNat)
      (onLinkPort 0 (queueFlit { type := 1, vc := 3, payload := leBytes 8 1 ++ leBytes 8 id.toNat ++ sig }) s)

/-- R344, R348: a shroud of a package put into the lowest free place of its hart slot; one that finds none is lost
(DESIGN CHOICE, notes/assumptions/36.md). -/
def placeShroud (k : Shroud) (s : State) : State :=
  match freePlace s.dev k.hart [k.world] with
  | none => s
  | some p =>
    (touchShroud k.hart p s).onDev fun d =>
      { d with shrouds := { k with place := p } :: d.shrouds.filter fun x => !(x.hart == k.hart && x.world == k.world) }

/-- R348: the context of a package installed with its world bindings and shrouds. -/
def installPackage (bs : List Byte) (s : State) : State :=
  let c := ctxOfPackage bs
  let nw := fieldAt bs 0x14 2
  let off := 0xA0 + 32 * (c.leaves.length + c.peers.length)
  let ws : List WorldBind := (List.range nw).map fun k =>
    { world := fieldAt bs (off + 2 * k) 1, ctx := c.id, ct := fieldAt bs (off + 2 * k + 1) 1 == 1 }
  let s1 := s.onDev fun d =>
    { d with ctxs := d.ctxs.filter (·.id != c.id) ++ [c], worlds := ws ++ d.worlds.filter fun w => !ws.any (·.world == w.world) }
  let sh := (List.range (fieldAt bs 0x16 2)).map fun k =>
    shroudOfBytes (bs.drop (off + 2 * nw + shroudLen * k))
  confirmAct c.id (sh.foldl (fun s k => placeShroud k s) (refreshCt s1))

/-- R348, R437, R439: CTXACCEPT. -/
def acceptAct (slot : Fin 16) (s : State) : State :=
  let p := payloadOf s slot
  let body := p.drop 128
  if !Config.sm2Verify (p.take 64) (Config.sm3 body) ((p.drop 64).take 64) then answerSlot slot 3 [] s
  else
    match Config.sm2Decrypt (identityPrivate s.dev) body with
    | none => answerSlot slot 3 [] s
    | some bs =>
      let c := ctxOfPackage bs
      if !c.peers.contains (Config.sm3 (p.take 64)) ∨ !c.peers.contains (Config.sm3 (identityPublic s.dev)) then answerSlot slot 6 [] s
      else if fieldAt bs 8 8 ≤ s.dev.time.toNat then answerSlot slot 8 [] s
      else if (ctxById s c.id).any fun x => x.state == .opened || x.state == .ending then answerSlot slot 5 [] s
      else answerSlot slot 0 [] (installPackage bs s)

/-- R348: CTXACCEPT. -/
def execCtxaccept (slot : Fin 16) (s : State) : Out := .next (serve 7 (.ctxaccept slot) slot (acceptAct slot) s)

/-- R348, R439: MIGRATION_CONFIRMATION: the source marks the context moved, and acknowledges. -/
def execMigrationConfirmation (ctx : Nat) (signature : List Byte) (s : State) : Out :=
  .next (let id := BitVec.ofNat 64 ctx
         match ctxById s id with
         | none => s
         | some c =>
           if (c.state = .exported ∨ c.state = .moved) ∧ Config.sm2Verify c.dest (confirmDigest id) signature then
             onLinkPort 0 (queueFlit { type := 1, vc := 3, payload := leBytes 8 2 ++ leBytes 8 id.toNat }) (onCtx id (fun c => { c with state := .moved }) s)
           else s)

/-- R439: CONFIRMATION_RESEND: the confirmation goes out again, 100 µs later, for as long as it is not acknowledged. -/
def execConfirmationResend (ctx : Nat) (s : State) : Out :=
  .next (confirmAct (BitVec.ofNat 64 ctx) s)

/-! ### Firmware (R338, R340, R438) -/

/-- R338, R340: FWSTAGE: location and length of the image in the payload; the image ends in its signature
(DESIGN CHOICE, notes/assumptions/36.md). During an activation it takes the place of the image that is activated
(DESIGN CHOICE, notes/assumptions/75.md). -/
def stageAct (slot : Fin 16) (s : State) : State :=
  let p := payloadOf s slot
  let off := fieldAt p 0 8
  let len := fieldAt p 8 8
  if p.length ≠ 16 ∨ len < 72 ∨ s.dev.capacity - s.dev.shroudArea < off + len then answerSlot slot 2 [] s
  else
    let img := Memory.reads s.mem (gaOf s.dev.devid off) len
    let body := img.take (len - 64)
    let digest := Config.sm3 body
    let version := fieldAt body 4 4
    if !Config.sm2Verify Config.felmundPublic digest (img.drop (len - 64)) then answerSlot slot 3 [] s
    else if version < s.dev.firmware.version then answerSlot slot 4 [] s
    else
      answerSlot slot 0 (padTo 32 digest) (s.onDev fun d =>
        { d with firmware := { d.firmware with staged := some (digest, version), other := img } })

/-- R340: FWSTAGE. -/
def execFwstage (slot : Fin 16) (s : State) : Out := .next (serve 8 (.fwstage slot) slot (stageAct slot) s)

/-- R340: an activation of the staged image starts, and ends after a while, with an outcome; both are open
(DESIGN CHOICE, notes/assumptions/75.md). One in progress is waited for, while other requests are served. -/
def activateAct (slot : Fin 16) (s : State) : State :=
  let f := s.dev.firmware
  let leave : State → State := fun s => s.onDev fun d => { d with mailbox := d.mailbox.filter (· != slot) }
  if f.activating.isSome then leave (s.onDev fun d => { d with firmware := { d.firmware with waiting := d.firmware.waiting ++ [slot] } })
  else
    match f.staged with
    | none => answerSlot slot 7 [] s
    | some (digest, version) =>
      if (payloadOf s slot).take 32 ≠ padTo 32 digest then answerSlot slot 7 [] s
      else
        inTime (Config.activationTime s.tick) (.fwActivationComplete (Config.activates s.tick))
          (leave (s.onDev fun d => { d with firmware := { d.firmware with activating := some (digest, version, slot), staged := none } }))

/-- R340: FWACT. -/
def execFwact (slot : Fin 16) (s : State) : Out := .next (serve 9 (.fwact slot) slot (activateAct slot) s)

/-- R340, R438: FW_ACTIVATION_COMPLETE: one write of flash raises the counter and selects the bank, and the digest is
replaced; or the image is discarded. -/
def execFwActivationComplete (success : Bool) (s : State) : Out :=
  .next (match s.dev.firmware.activating with
    | none => s
    | some (digest, version, slot) =>
      let next := s.dev.firmware.waiting
      let s1 := s.onDev fun d =>
        { d with
          mailbox := next ++ d.mailbox
          firmware :=
            { d.firmware with
              running := if success then digest else d.firmware.running
              version := if success then max version d.firmware.version else d.firmware.version
              bank := if success then d.firmware.other else d.firmware.bank
              other := if success then d.firmware.bank else d.firmware.other
              activating := none, waiting := [] } }
      due (next.map Instr.fwact) (answerSlot slot (if success then 0 else 9) [] s1))

/-! ### Configuration (R336) -/

/-- R336: the digest that the signature of a block covers. -/
def ConfigBlock.digest (b : ConfigBlock) : List Byte := Config.sm3 (leBytes 4 b.type ++ leBytes 4 b.version ++ b.body)

/-- R336: the replay-protected counter of a type of block. -/
def counterOf (d : Dev) (type : Nat) : Nat := ((d.configCounters.find? (·.1 == type)).map (·.2)).getD 0

/-- R336: whether the controller accepts a block: its signature verifies, under Felmund's key or the operator key that an
earlier block of Felmund names, it names this device, and its version is no lower than the counter
(DESIGN CHOICE, notes/assumptions/36.md). -/
def blockOk (d : Dev) (b : ConfigBlock) : Bool :=
  (Config.sm2Verify Config.felmundPublic b.digest b.signature || d.operatorKey.any fun k => Config.sm2Verify k b.digest b.signature)
    && b.body.take 32 == Config.sm3 (identityPublic d) && decide (counterOf d b.type ≤ b.version)

/-- R336: the hosts that a block admits, 2 bytes of endpoint and 64 of public key each. -/
def hostsOf (bs : List Byte) : List (Nat × List Byte) :=
  (List.range (bs.length / 66)).map fun k => (fieldAt bs (66 * k) 2, (bs.drop (66 * k + 2)).take 64)

/-- R336: the setting that an accepted block gives, by its type (DESIGN CHOICE, notes/assumptions/36.md). -/
def applySetting (b : ConfigBlock) (d : Dev) : Dev :=
  let bs := b.body.drop 32
  if b.type = 0 then
    if Config.sm2Verify Config.felmundPublic b.digest b.signature then { d with operatorKey := some (bs.take 64) } else d
  else if b.type = 1 then { d with admittedHosts := (hostsOf bs).map (·.1), hostKeys := hostsOf bs }
  else if b.type = 2 then { d with domain := digestsOf (bs.length / 32) bs }
  else if b.type = 3 then { d with bootGroups := (List.range 4).map fun k => fieldAt bs (2 * k) 2 % 4096 }
  else if b.type = 4 then { d with world0Ct := fieldAt bs 0 1 % 2 == 1 }
  else if b.type = 5 then { d with shroudArea := min (fieldAt bs 0 8) d.capacity }
  else d

/-- R336, R338: a block accepted: it is measured, its setting holds and its counter rises to its version; any other block is
passed over. -/
def takeBlock (d : Dev) (b : ConfigBlock) : Dev :=
  if blockOk d b then
    applySetting b { d with
      configDigests := d.configDigests ++ [b.digest]
      configCounters := (b.type, b.version) :: d.configCounters.filter (·.1 != b.type) }
  else d

/-! ### Reset (R349, R438, R439) -/

/-- R349: what the outside of the device keeps over its reset: the memory of other endpoints. -/
def outsideMem (s : State) : List Host.Cell := s.mem.filter fun c => decide (c.1 < 2 ^ 56) && epOf c.1 != s.dev.devid

/-- R349, step 1: the trust controller runs its boot ROM. Module flash, the memory that is installed and the switches outside
stay as they were (DEDUCED, notes/assumptions/40.md). -/
def bootTrust (s : State) : State :=
  let d := s.dev
  { State.reset with
    tick := s.tick
    mem := outsideMem s
    dev := { ({} : Dev) with
      devid := d.devid, capacity := d.capacity, nodes := d.nodes, pods := d.pods, resets := d.resets + 1, ctxCount := d.ctxCount
      firmware := { running := d.firmware.running, version := d.firmware.version, bank := d.firmware.bank, other := d.firmware.other }
      helperData := d.helperData, certificate := d.certificate, flash := d.flash, configCounters := d.configCounters
      world0Ct := d.world0Ct, admittedHosts := d.admittedHosts, hostKeys := d.hostKeys, domain := d.domain, bootGroups := d.bootGroups
      shroudArea := d.shroudArea, operatorKey := d.operatorKey, configDigests := d.configDigests
      units := d.units, lostPlanes := d.lostPlanes, resyncPlanes := d.resyncPlanes, silentEndpoints := d.silentEndpoints
      sideband := d.sideband.filter fun x => epOf (x.line * 256) != d.devid
      bad := d.bad.filter fun b => epOf (b.block * 256) != d.devid } }

/-- R338: whether the image of a bank verifies, at a version no lower than the counter. -/
def imageOk (d : Dev) (img : List Byte) : Bool :=
  let body := img.take (img.length - 64)
  Config.sm2Verify Config.felmundPublic (Config.sm3 body) (img.drop (img.length - 64)) && decide (d.firmware.version ≤ fieldAt body 4 4)

/-- R349, step 2: the configuration blocks and the firmware verified and measured, where module flash holds them
(DEDUCED, notes/assumptions/40.md). -/
def bootConfig (s : State) : State :=
  s.onDev fun d =>
    let d := if d.flash.isEmpty then d else
      d.flash.foldl takeBlock { d with configDigests := [], operatorKey := none, admittedHosts := [], hostKeys := [], domain := []
                                       bootGroups := [], world0Ct := false, shroudArea := ({} : Dev).shroudArea }
    if imageOk d d.firmware.bank then
      { d with firmware := { d.firmware with running := Config.sm3 (d.firmware.bank.take (d.firmware.bank.length - 64)) } }
    else d

/-- R349, step 3: links trained, the memory key drawn (it goes with the count of resets), main memory zeroed, its versions
begun anew and the shroud area reserved. -/
def bootMemory (s : State) : State :=
  { s with mem := s.mem.filter fun c => epOf c.1 != s.dev.devid, versions := []
           dev := { s.dev with shrouds := [], linksDown := [] } }

/-- R349, step 4: the controllers of each link agree keys and install slot 0. -/
def bootPorts (s : State) : State :=
  s.onDev fun d => { d with ports := Vector.ofFn fun k =>
    { send := freshDir (256 * d.resets + 4 * k.val), recv := freshDir (256 * d.resets + 4 * k.val + 2) } }

/-- R349, step 5: TIME locked to the plane-0 beacon. -/
def bootTime (s : State) : State := s.onDev fun d => { d with time := Config.timeAtLock d.resets }

/-- R349, step 6: each die joins the GGROUP named by configuration. -/
def bootClocks (s : State) : State :=
  (List.range 4).foldl (fun t d => asDie d (ggroupAct (s.dev.bootGroups.getD d 0)) t) s

/-- R349, step 7: the command window opens; every byte of it reads 0, ENABLE among them. -/
def bootWindow (s : State) : State := clearMem (gaOf s.dev.devid windowOff) (gaOf s.dev.devid windowOff + 0x10000000) s

/-- R349: DEVICE_RESET, through the steps of bring-up in their order. -/
def execDeviceReset (s : State) : Out :=
  .next (bootWindow (bootClocks (bootTime (bootPorts (bootMemory (bootConfig (bootTrust s)))))))

end

end Sys2Proof.Machine
end

