-- ==== Sys2Proof/Machine/Members.lean ====
section
/-!
DEFINITION. Convoys as the sequencer frames and the vector queue runs them: which instruction is which member, the
fetch of a convoy (20_faults_execution.md R443), its legality (02_execution.md R27 to R29, R35, 06 R138, 09 R209, 20 R387),
PFX (R34), the overlap of a load and a store (08 R202), the convoy at the head of the vector queue (R31, R37, R381), and
the events by which waiting instructions go on.
-/
namespace Sys2Proof.Machine

noncomputable section

/-- The vector-queue instruction of an instruction word; none for scalar instructions, VBANY, VBNONE, PFX and
events. A CSRW is one where R39 sends it through the vector queue. -/
def opOf : Instr → Option VOp
  | .setvl d a v => some (opSetvl d a v)
  | .vadd e d a b p s => some (opVadd e d a b p s)
  | .vsub e d a b p s => some (opVsub e d a b p s)
  | .vrsub e d a b p s => some (opVrsub e d a b p s)
  | .vmul e d a b p s => some (opVmul e d a b p s)
  | .vmulh e d a b p s => some (opVmulh e d a b p s)
  | .vmulhu e d a b p s => some (opVmulhu e d a b p s)
  | .vand e d a b p s => some (opVand e d a b p s)
  | .vor e d a b p s => some (opVor e d a b p s)
  | .vxor e d a b p s => some (opVxor e d a b p s)
  | .vsll e d a b p s => some (opVsll e d a b p s)
  | .vsrl e d a b p s => some (opVsrl e d a b p s)
  | .vsra e d a b p s => some (opVsra e d a b p s)
  | .vmin e d a b p s => some (opVmin e d a b p s)
  | .vmax e d a b p s => some (opVmax e d a b p s)
  | .vminu e d a b p s => some (opVminu e d a b p s)
  | .vmaxu e d a b p s => some (opVmaxu e d a b p s)
  | .vsadd e d a b p s => some (opVsadd e d a b p s)
  | .vssub e d a b p s => some (opVssub e d a b p s)
  | .vsaddu e d a b p s => some (opVsaddu e d a b p s)
  | .vssubu e d a b p s => some (opVssubu e d a b p s)
  | .vmerge e d a b p s => some (opVmerge e d a b p s)
  | .vmv e d b p s => some (opVmv e d b p s)
  | .vid e d p => some (opVid e d p)
  | .vcmpeq e d a b p s => some (opVcmpeq e d a b p s)
  | .vcmpne e d a b p s => some (opVcmpne e d a b p s)
  | .vcmplt e d a b p s => some (opVcmplt e d a b p s)
  | .vcmpltu e d a b p s => some (opVcmpltu e d a b p s)
  | .vcmple e d a b p s => some (opVcmple e d a b p s)
  | .vcmpleu e d a b p s => some (opVcmpleu e d a b p s)
  | .vfadd e d a b p s => some (opVfadd e d a b p s)
  | .vfsub e d a b p s => some (opVfsub e d a b p s)
  | .vfmul e d a b p s => some (opVfmul e d a b p s)
  | .vfma e d a b p s => some (opVfma e d a b p s)
  | .vfmin e d a b p s => some (opVfmin e d a b p s)
  | .vfmax e d a b p s => some (opVfmax e d a b p s)
  | .vfcmpeq e d a b p s => some (opVfcmpeq e d a b p s)
  | .vfcmplt e d a b p s => some (opVfcmplt e d a b p s)
  | .vfcmple e d a b p s => some (opVfcmple e d a b p s)
  | .vfcvtif e d a p => some (opVfcvtif e d a p)
  | .vfcvtfi e d a p => some (opVfcvtfi e d a p)
  | .vslideup e d a b p => some (opVslideup e d a b p)
  | .vslidedn e d a b p => some (opVslidedn e d a b p)
  | .vshuf e d a b p => some (opVshuf e d a b p)
  | .vcompress e d a b p => some (opVcompress e d a b p)
  | .vexpand e d a b p => some (opVexpand e d a b p)
  | .vredsum e d a b p => some (opVredsum e d a b p)
  | .vredmax e d a b p => some (opVredmax e d a b p)
  | .vredmin e d a b p => some (opVredmin e d a b p)
  | .vredand e d a b p => some (opVredand e d a b p)
  | .vredor e d a b p => some (opVredor e d a b p)
  | .vmfirst e d a p => some (opVmfirst e d a p)
  | .vmpopc e d a p => some (opVmpopc e d a p)
  | .vmand e d a b p => some (opVmand e d a b p)
  | .vmor e d a b p => some (opVmor e d a b p)
  | .vmxor e d a b p => some (opVmxor e d a b p)
  | .vmnot e d a p => some (opVmnot e d a p)
  | .vmvxs e d a b => some (opVmvxs e d a b)
  | .vsplat e d a p => some (opVsplat e d a p)
  | .vnarrow e d a b p => some (opVnarrow e d a b p)
  | .vwiden e d a b p => some (opVwiden e d a b p)
  | .vscale e d a p => some (opVscale e d a p)
  | .vmadd e d a b p q => some (opVmadd e d a b p q)
  | .vmsub e d a b p q => some (opVmsub e d a b p q)
  | .vmmul e d a b p q => some (opVmmul e d a b p q)
  | .vmmac e d a b p q => some (opVmmac e d a b p q)
  | .vmneg e d a p q => some (opVmneg e d a p q)
  | .vmred e d a p q => some (opVmred e d a p q)
  | .vbfly e d a b p q => some (opVbfly e d a b p q)
  | .vibfly e d a b p q => some (opVibfly e d a b p q)
  | .vnegrot e d a b p q => some (opVnegrot e d a b p q)
  | .vauto e d a b p q => some (opVauto e d a b p q)
  | .vdecomp e d a b p q => some (opVdecomp e d a b p q)
  | .vmswitch e d a b p q => some (opVmswitch e d a b p q)
  | .vld e d a p o => some (opVld e d a p o)
  | .vlds e d a b p o => some (opVlds e d a b p o)
  | .vldx e d a b p o => some (opVldx e d a b p o)
  | .vldff e d a p o => some (opVldff e d a p o)
  | .vldb e d a b p o => some (opVldb e d a b p o)
  | .vst e d a p o => some (opVst e d a p o)
  | .vsts e d a b p o => some (opVsts e d a b p o)
  | .vstx e d a b p o => some (opVstx e d a b p o)
  | .vstb e d a b p o => some (opVstb e d a b p o)
  | .vspill d a => some (opVspill d a)
  | .vfill d a => some (opVfill d a)
  | .vamoadd d a b p q l s => some (opVamoadd d a b p q l s)
  | .vamoand d a b p q l s => some (opVamoand d a b p q l s)
  | .vamoor d a b p q l s => some (opVamoor d a b p q l s)
  | .vamoxor d a b p q l s => some (opVamoxor d a b p q l s)
  | .vamomin d a b p q l s => some (opVamomin d a b p q l s)
  | .vamomax d a b p q l s => some (opVamomax d a b p q l s)
  | .vamominu d a b p q l s => some (opVamominu d a b p q l s)
  | .vamoswap d a b p q l s => some (opVamoswap d a b p q l s)
  | .vamooadd d a b p q l s => some (opVamooadd d a b p q l s)
  | .vamooand d a b p q l s => some (opVamooand d a b p q l s)
  | .vamooor d a b p q l s => some (opVamooor d a b p q l s)
  | .vamooxor d a b p q l s => some (opVamooxor d a b p q l s)
  | .vamoomin d a b p q l s => some (opVamoomin d a b p q l s)
  | .vamoomax d a b p q l s => some (opVamoomax d a b p q l s)
  | .vamoominu d a b p q l s => some (opVamoominu d a b p q l s)
  | .vamooswap d a b p q l s => some (opVamooswap d a b p q l s)
  | .vwaiteq d a b p s => some (opVwaiteq d a b p s)
  | .vwaitne d a b p s => some (opVwaitne d a b p s)
  | .vwaitlt d a b p s => some (opVwaitlt d a b p s)
  | .vwaitltu d a b p s => some (opVwaitltu d a b p s)
  | .vwaitge d a b p s => some (opVwaitge d a b p s)
  | .vwaitgeu d a b p s => some (opVwaitgeu d a b p s)
  | .mmode a => some (opMmode a)
  | .mzero t => some (opMzero t)
  | .msave t a => some (opMsave t a)
  | .mrstr t a => some (opMrstr t a)
  | .mopa t k a j b r l => some (opMopa t k a j b r l)
  | .mops t k a j b r l => some (opMops t k a j b r l)
  | .mdrain e d t b => some (opMdrain e d t b)
  | .mdrainc e d t b => some (opMdrainc e d t b)
  | .mfill t a b => some (opMfill t a b)
  | .pcfgBase p a => some (opPcfgBase p a)
  | .pcfgDim p a b => some (opPcfgDim p a b)
  | .pclr p => some (opPclr p)
  | .cload d x => some (opCload d x)
  | .cstore a x => some (opCstore a x)
  | .cadd d a b => some (opCadd d a b)
  | .csub d a b => some (opCsub d a b)
  | .cneg d a => some (opCneg d a)
  | .cmulp d a x => some (opCmulp d a x)
  | .caddp d a x => some (opCaddp d a x)
  | .cmacc d a x => some (opCmacc d a x)
  | .cmodsw d a => some (opCmodsw d a)
  | .ckeysw d a => some (opCkeysw d a)
  | .cbudget a x => some (opCbudget a x)
  | .chdrLo a x => some (opChdrLo a x)
  | .chdrHi a x => some (opChdrHi a x)
  | .cinv d => some (opCinv d)
  | .cmov d a => some (opCmov d a)
  | .cimport d x => some (opCimport d x)
  | .cref d a t => some (opCref d a t)
  | .crgo => some opCrgo
  | .crwait => some opCrwait
  | .kbind k a => some (opKbind k a)
  | .kunbind k => some (opKunbind k)
  | .tload t a k => some (opTload t a k)
  | .tclr t => some (opTclr t)
  | .qmset j a => some (opQmset j a)
  | .sopen k a => some (opSopen k a)
  | .srun k => some (opSrun k)
  | .swait k => some (opSwait k)
  | .ssave k a => some (opSsave k a)
  | .cpy d a b => some (opCpy d a b)
  | .cpy2d d a b => some (opCpy2d d a b)
  | .puts d a b => some (opPuts d a b)
  | .cpyb d a b => some (opCpyb d a b)
  | .binit a b => some (opBinit a b)
  | .barv a => some (opBarv a)
  | .bard a => some (opBard a)
  | .bexp a b => some (opBexp a b)
  | .bwait a b => some (opBwait a b)
  | .btest d a => some (opBtest d a)
  | .sbind d a => some (opSbind d a)
  | .sunbind d => some (opSunbind d)
  | .galloc d a b => some (opGalloc d a b)
  | .gfree a b => some (opGfree a b)
  | .reef a => some (opReef a)
  | .wqry a b => some (opWqry a b)
  | .wpush a b => some (opWpush a b)
  | .wdone => some opWdone
  | .farm d a b => some (opFarm d a b)
  | .fstrip d a => some (opFstrip d a)
  | .apxb r l => some (opApxb r l)
  | .apxe r => some (opApxe r)
  | .apxinv r => some (opApxinv r)
  | .fsave a => some (opFsave a)
  | .frstr a => some (opFrstr a)
  | .fenceSv s => some (opFenceSv s)
  | .csrw d a c => if d = 0 ∧ csrVector c.val then some (opCsrw a c) else none
  | _ => none

/-! ### Overlap of the load and the store of a convoy (R202) -/

/-- R202: the form, base, predicate and kind of a vector memory member. -/
def memPart : Instr → Option (MemForm × Fin 32 × Fin 8 × AccKind)
  | .vld _ _ a p _ => some (.unit none, a, p, .load)
  | .vldff _ _ a p _ => some (.unit none, a, p, .load)
  | .vlds _ _ a b p _ => some (.stride b, a, p, .load)
  | .vldx _ _ a b p _ => some (.index b, a, p, .load)
  | .vldb _ _ a b p _ => some (.unit (some b), a, p, .load)
  | .vst _ _ a p _ => some (.unit none, a, p, .store)
  | .vsts _ _ a b p _ => some (.stride b, a, p, .store)
  | .vstx _ _ a b p _ => some (.index b, a, p, .store)
  | .vstb _ _ a b p _ => some (.unit (some b), a, p, .store)
  | _ => none

/-- The bytes that element `i` of a form touches. -/
def elemBytes (f : MemForm) (c : Ctx) (h : Hart) (base : Word) (i : Nat) : List Word :=
  if isStream f h then
    let pl := fieldPlace (bitOffset f c) (elemW h.vtype) i
    (List.range pl.2.2).map fun j => base + BitVec.ofNat 64 (pl.1 + j)
  else
    (List.range (if narrowW h.vtype = 0 then elemW h.vtype / 8 else 2)).map fun j => elemAddr f c h base i + BitVec.ofNat 64 j

/-- R272: the registers with the strips of bound sources up to a limit, and this limit; a strip that cannot be read lowers it. -/
def stripsTo (vs : List (Fin 32)) : Nat → Nat → State → State × Nat
  | 0, _, s => (s, s.hart.vstart)
  | n + 1, lim, s =>
    match receiveStrips vs lim s with
    | .ok t => (t, lim)
    | .error (.trap _ e) => stripsTo vs n e s
    | .error _ => (s, s.hart.vstart)

/-- R272: the registers as a member finds them, with the strips of its bound sources, and the element that it does not reach. -/
def stripped (o : VOp × Option Lend) (s : State) : State × Nat :=
  if s.hart.vl = 0 then (s, 0) else stripsTo o.1.vsrc (s.hart.binds.length + 1) s.hart.vl s

/-- R202, R296: the keys that a member touches, after translation. -/
def memberKeys (x : Fin 32 → Word) (o : VOp × Option Lend) (kind : AccKind) (s : State) : List Nat :=
  match memPart o.1.i with
  | none => []
  | some (f, a, p, k) =>
    if k ≠ kind then []
    else
      let (s, lim) := stripped o s
      let c : Ctx := { pc := 0, x := x, lend := o.2, member := 0, lim := lim }
      ((elems c s.hart).filter (memActive f s.hart p o.2)).flatMap fun i =>
        (elemBytes f c s.hart (x a) i).flatMap fun va =>
          match resolve (reqOf s k .vector .neither) va s with
          | .ok (t, _) => if k = .store then t.wr else [t.rd]
          | .error _ => []

/-- R202: a member run below its fault. -/
def runBelow (x : Fin 32 → Word) (o : VOp × Option Lend) : Nat → Nat → State → State
  | 0, _, s => s
  | n + 1, lim, s =>
    match runMember 0 x lim 0 o.1 o.2 s with
    | .ok (t, _) => t
    | .error (.trap _ e) => runBelow x o n e s
    | .error _ => s

/-- R202: what a member leaves in the registers over all its elements, for the members after it; elements that a load
cannot read keep their values, a store leaves nothing but the strips it consumed, and a member that faults leaves what it
does below its fault. -/
def probeMember (x : Fin 32 → Word) (o : VOp × Option Lend) (s : State) : State :=
  match memPart o.1.i with
  | some (f, a, p, .load) =>
    let (s, lim) := stripped o s
    let c : Ctx := { pc := 0, x := x, lend := o.2, member := 0, lim := lim }
    (elems c s.hart).foldl (fun t i =>
      if memActive f t.hart p o.2 i then
        match loadElem (reqOf t .load .vector .neither) f c (x a) i t with
        | .ok (v, t') => putElem (o.1.vdst.headD 0) o.2 (elemW t'.hart.vtype) i v t'
        | .error _ => t
      else t) s
  | some _ => (stripped o s).1
  | none => runBelow x o (s.hart.binds.length + 3) s.hart.vl s

/-- R202: the keys that the loads and the stores of a convoy touch, each member's by the registers that it finds. -/
def convoyKeys (x : Fin 32 → Word) : List (VOp × Option Lend) → State → List Nat × List Nat
  | [], _ => ([], [])
  | o :: os, s =>
    let r := convoyKeys x os (probeMember x o s)
    (memberKeys x o .load s ++ r.1, memberKeys x o .store s ++ r.2)

/-- R202: the load member reads a byte that the store member writes. -/
def overlapOf (x : Fin 32 → Word) (ops : List (VOp × Option Lend)) (s : State) : Bool :=
  let k := convoyKeys x ops s
  k.1.any k.2.contains

/-! ### Fetch (R443) -/

/-- What a fetch comes to. -/
inductive Fetch where
  | words (ws : List Nat) (s : State)
  | trap (t : Trap) (s : State)
  | wait (s : State)

/-- R443: the words of a convoy from an address on, up to the first with E = 1, at most `n`. -/
def fetchWords : Nat → Word → State → Fetch
  | 0, _, s => .words [] s
  | n + 1, a, s =>
    match fetchWord a s with
    | .error (.trap t _) => .trap t s
    | .error (.cut t s') => .trap t s'
    | .error (.trim _) => .wait s
    | .error (.wait t) => .wait t
    | .ok (w, s') =>
      if bitAt w 31 then .words [w] s'
      else
        match fetchWords n (a + 4) s' with
        | .words ws t => .words (w :: ws) t
        | .trap t u => .trap t u
        | .wait u => .wait u

/-! ### Legality (R29, R35, R153, R387) -/

/-- R386, R387: cause 0x01 for a word. -/
def illegalWord (w reason member : Nat) : Trap :=
  { cause := 0x01, tval := Word.ofNat (w % 2 ^ 32 + reason * 2 ^ 32 + min member 3 * 2 ^ 40), member := min member 3 }

/-- R137: the major of a word. -/
def majorOf (w : Nat) : Nat := w / 2 ^ 25 % 64

/-- R35: a word to which a PFX may lend. -/
def takesLend (w : Nat) : Bool := let m := majorOf w; (decide (0x23 ≤ m) && decide (m ≤ 0x29)) || (decide (0x2B ≤ m) && decide (m ≤ 0x2D))

/-- R35: a lent copy the word cannot take: it writes no V register, or its vd is dc. -/
def copyClash (l : Lend) (i : Instr) : Bool :=
  l.cen && match opOf i with
    | some o => o.vdst.isEmpty || o.vdst.head? == some l.dc
    | none => true

/-- R34: what a PFX word lends. -/
def lendBy (i : Instr) : Option Lend :=
  match i with
  | .pfx p d c => some { pm := p, neg := false, dc := d, cen := c }
  | .pfxn p d c => some { pm := p, neg := true, dc := d, cen := c }
  | _ => none

/-- R386: the PFX word of a lent state. -/
def lendWord (l : Lend) : Nat := if l.neg then wordOf (.pfxn l.pm l.dc l.cen) else wordOf (.pfx l.pm l.dc l.cen)

/-- A framed member: its word, the instruction and what is lent to it. -/
structure ConvoyMember where
  word : Nat
  i : Instr
  lend : Option Lend
  deriving DecidableEq, Repr

/-- R387: the reason for which a word is refused: a scalar instruction without E, which is no convoy, or a
non-instruction. -/
def reasonOf (e : DecodeError) : Nat :=
  match e with
  | .endBitClear => 1
  | _ => 0

/-- R138, R387: the members that a sequence of words makes, and the trap of the word that ends it where it makes no convoy;
`lend` is what the PFX before lends and `held` whether that PFX was executed before an interruption (R395). -/
def frameWords (first : Nat) (held : Bool) : List Nat → Option Lend → Nat → List ConvoyMember × Option Trap
  | [], _, k => ([], some (illegalWord first 1 k))
  | w :: ws, lend, k =>
    match decodeWord w with
    | .error e => ([], some (match lend with
        | some l =>
          if takesLend w && reasonOf e == 1 then illegalWord w 1 k else illegalWord (lendWord l) (if held then 1 else 0) k
        | none => illegalWord w (reasonOf e) k))
    | .ok i =>
      match lendBy i, lend with
      | some _, some l => ([], some (illegalWord (lendWord l) (if held then 1 else 0) k))
      | some l, none => frameWords first false ws (some l) k
      | none, lend =>
        if lend.isSome && !takesLend w then ([], some (illegalWord ((lend.map lendWord).getD 0) (if held then 1 else 0) k))
        else if lend.any (copyClash · i) then ([], some (illegalWord ((lend.map lendWord).getD 0) 1 k))
        else if 4 ≤ k then ([], some (illegalWord w 1 3))
        else if bitAt w 31 then ([{ word := w, i := i, lend := lend }], none)
        else
          let r := frameWords first false ws none (k + 1)
          ({ word := w, i := i, lend := lend } :: r.1, r.2)

/-- R28: how many members of a class a convoy may hold. -/
def classLimit : Cls → Nat
  | .alu => 2
  | _ => 1

/-- R243, R387: a MOPA whose stepping registers run past V31. -/
def stepsPast (i : Instr) : Bool :=
  match i with
  | .mopa _ k a j b r l => if l then !k && decide (31 < a.val + r.val) else !j && decide (31 < b.val + r.val)
  | .mops _ k a j b r l => if l then !k && decide (31 < a.val + r.val) else !j && decide (31 < b.val + r.val)
  | _ => false

/-- The registers, masks and X registers a member reads and writes (R29), as numbers. -/
structure Names where
  reads : List Nat
  writes : List Nat
  deriving DecidableEq, Repr

/-- R29: what a member reads and writes: V registers from 0, masks from 32, X registers from 64. A reply into X0 writes nothing
(DESIGN CHOICE, notes/assumptions/73.md). -/
def namesOf (o : VOp) (l : Option Lend) : Names :=
  let ms := o.masks l
  { reads := o.vsrc.map (·.val) ++ ms.map (32 + ·.val) ++ o.xsrc.map (64 + ·.val)
    writes := (o.writes l).map (·.val) ++ o.mdst.map (32 + ·.val) ++ (o.xdst.filter (· != 0)).map (64 + ·.val) }

/-- R209: a VNEGROT or VAUTO member. -/
def readsWhole (i : Instr) : Bool :=
  match i with
  | .vnegrot .. => true
  | .vauto .. => true
  | _ => false

/-- R28, R29, R209: the first member, in order, that makes the sequence no convoy; `more` says that a word follows the last
of them (DEDUCED, notes/assumptions/34.md). -/
def badMember (more : Bool) : Nat → List (VOp × Option Lend) → List ConvoyMember → Option Trap
  | _, _, [] => none
  | k, before, m :: ms =>
    let only := before.isEmpty && ms.isEmpty && !more
    match opOf m.i with
    | none => if only then none else some (illegalWord m.word 1 k)
    | some o =>
      let alone := o.cls == .solo && !only
      let late := o.cls == .drain && !before.isEmpty
      let many := decide (classLimit o.cls ≤ (before.filter fun b => b.1.cls == o.cls).length) && o.cls != .solo
      let n := namesOf o m.lend
      let clash := before.any fun b =>
        let e := namesOf b.1 b.2
        (n.writes.any fun r => e.reads.contains r || e.writes.contains r) || (readsWhole m.i && n.reads.any fun r => decide (r < 32) && e.writes.contains r)
      if alone || late || many || clash || stepsPast m.i then some (illegalWord m.word 1 k)
      else badMember more (k + 1) (before ++ [(o, m.lend)]) ms

/-- A convoy framed: its members, its words after the pc, and the PFX that heads it there. -/
inductive Framed where
  | convoy (ms : List ConvoyMember) (n : Nat) (pfx : Option Instr) (s : State)
  | trap (t : Trap) (s : State)
  | wait (s : State)

/-- R34: the PFX a word holds. -/
def headPfx (w : Nat) : Option Instr :=
  match decodeWord w with
  | .ok i => if (lendBy i).isSome then some i else none
  | .error _ => none

/-- R138, R386, R387, R443: the convoy at the pc, fetched and judged: the first offending word decides
(DEDUCED, notes/assumptions/34.md). -/
def frameConvoy (s : State) : Framed :=
  match fetchWords (if s.hart.lend.isSome then 7 else 8) s.hart.pc s with
  | .trap t u => .trap t u
  | .wait u => .wait u
  | .words ws u =>
    let f := frameWords (ws.headD 0) (s.hart.lend.isSome && s.hart.lendHeld) ws s.hart.lend 0
    match (badMember f.2.isSome 0 [] f.1).or f.2 with
    | some t => .trap t u
    | none => .convoy f.1 ws.length (if s.hart.lend.isNone then headPfx (ws.headD 0) else none) u

/-- R43: the members of a convoy of several, dispatched together. -/
def issueConvoy (ms : List ConvoyMember) (n : Nat) (s : State) : State :=
  let ops := ms.filterMap fun m => (opOf m.i).map fun o => (o, m.lend)
  dispatch n ops (fun t => overlapOf (captured (capture ops s)) ops t) s

/-! ### PFX (R34) -/

/-- R34, R36: a PFX lends to the instruction that follows it. -/
def lendNext (l : Option Lend) (s : State) : State := s.onHart fun h => { h with lend := l, lendHeld := false, pc := h.pc + 4 }

/-- R34: PFX. -/
def execPfx (p : Fin 8) (d : Fin 32) (c : Bool) (s : State) : Out := .next (lendNext (lendBy (.pfx p d c)) s)

/-- R34: PFXN. -/
def execPfxn (p : Fin 8) (d : Fin 32) (c : Bool) (s : State) : Out := .next (lendNext (lendBy (.pfxn p d c)) s)

/-- R158 to R160, R164, R165, R168: an instruction of the scalar side that touches its registers and the pc alone. -/
def registersOnly (i : Instr) : Bool :=
  match i with
  | .add .. | .sub .. | .and .. | .or .. | .xor .. | .sll .. | .srl .. | .sra .. | .slt .. | .sltu .. | .min .. | .max .. |
    .minu .. | .maxu .. | .mul .. | .mulh .. | .mulhu .. | .div .. | .divu .. | .rem .. | .remu .. | .clz .. | .popc .. |
    .ctz .. | .addi .. | .andi .. | .ori .. | .xori .. | .slti .. | .sltiu .. | .slli .. | .srli .. | .srai .. | .lui .. |
    .auipc .. | .beq .. | .bne .. | .blt .. | .bge .. | .bltu .. | .bgeu .. | .jal .. | .jalr .. | .loop .. => true
  | _ => false

/-- R298, R275: an instruction of the vector queue that does not pass the stores of the S agent before it: a release, a fence
of the S agent, and what waits until every earlier access is performed. FSAVE and FRSTR keep the frame of what came before. -/
def releases (i : Instr) : Bool :=
  match i with
  | .wpush .. | .wdone | .barv .. | .bard .. | .gfree .. | .fenceSv .. | .fsave .. | .frstr .. => true
  | .vamoadd _ _ _ _ _ l _ => l
  | .vamoand _ _ _ _ _ l _ => l
  | .vamoor _ _ _ _ _ l _ => l
  | .vamoxor _ _ _ _ _ l _ => l
  | .vamomin _ _ _ _ _ l _ => l
  | .vamomax _ _ _ _ _ l _ => l
  | .vamominu _ _ _ _ _ l _ => l
  | .vamoswap _ _ _ _ _ l _ => l
  | .vamooadd _ _ _ _ _ l _ => l
  | .vamooand _ _ _ _ _ l _ => l
  | .vamooor _ _ _ _ _ l _ => l
  | .vamooxor _ _ _ _ _ l _ => l
  | .vamoomin _ _ _ _ _ l _ => l
  | .vamoomax _ _ _ _ _ l _ => l
  | .vamoominu _ _ _ _ _ l _ => l
  | .vamooswap _ _ _ _ _ l _ => l
  | _ => false

/-! ### The head of the vector queue (R31, R38, R381) -/

/-- R38: the replies of a convoy put into the entries it owes, in order. -/
def fillReplies : List (List Word) → List Reply → List Reply
  | [], rs => rs
  | _, [] => []
  | v :: vs, r :: rs => if r.vals.isNone then { r with vals := some v } :: fillReplies vs rs else r :: fillReplies (v :: vs) rs

/-- The members of a queued convoy as they run. -/
def queuedOps (e : QEntry) : List (VOp × Option Lend) := e.members.filterMap fun m => (opOf m.2).map fun o => (o, m.1)

/-- R381, R383: a fault of the convoy `e` that was at the head of the queue, `rest` being queued behind it: a cause that TDELEG
delegates goes to the hart's U handler when nothing follows the convoy (DEDUCED, notes/assumptions/47.md). -/
def vectorFault (t : Trap) (e : QEntry) (s : State) : State :=
  if delegated s.hart t && s.hart.vq.isEmpty then
    takeDelegated t e.pc (s.onHart fun h =>
      { h with replies := h.replies.take (h.replies.length - (replyDests (queuedOps e)).length) })
  else takeImprecise { t with vside := true } [e] s

/-- R31, R37: the convoy at the head of the queue runs; `false` while it waits. -/
def vectorTry (s : State) : State × Bool :=
  match s.hart.vq with
  | [] => (s, false)
  | e :: rest =>
    let ops := queuedOps e
    let x := captured e.x
    match runConvoy e.pc x ops (overlapOf x ops) (s.onHart fun h => { h with vq := rest }) with
    | .done t rs => ((forget .vector t).onHart fun h => { h with replies := fillReplies rs h.replies }, true)
    | .wait t => (t.onHart fun h => { h with vq := e :: rest }, false)
    | .trap t u => (vectorFault t e u, true)

/-- R261, R281, R285: the scalar side fetches nothing past a queued convoy of these. -/
def queueHolds (h : Hart) : Bool := h.vq.any fun e => (queuedOps e).any (·.1.holds)

/-- R31: VECTOR_CONVOY_START. -/
def execVectorConvoyStart (h : Nat) (s : State) : Out := .next (asHart h (fun s => (vectorTry s).1) s)

/-- R38: the reply at the head of the queue written. -/
def replyAct (s : State) : State :=
  match s.hart.replies with
  | { dests := ds, vals := some vs } :: rest => writeReply ds vs (s.onHart fun h => { h with replies := rest })
  | _ => s

/-- R38: REPLY_WRITE. -/
def execReplyWrite (h : Nat) (s : State) : Out := .next (asHart h replyAct s)

/-- The vector side of a hart tried where its head satisfies a test. -/
def tryHead (p : Instr → Bool) (s : State) : State :=
  match s.hart.vq with
  | e :: _ => if e.members.any fun m => p m.2 then (vectorTry s).1 else s
  | [] => s

/-- R47: LANE_GROUP_GRANT: a hart that waits for lane groups is served, at its vector queue or at its TRET. -/
def grantAct (s : State) : State :=
  if !s.hart.groupWait then s
  else if !s.hart.vq.isEmpty then (vectorTry s).1
  else if s.hart.priv != .u && s.hart.held.any (·.regrant.isSome) then trapReturn s
  else s

/-- R47: LANE_GROUP_GRANT. -/
def execLaneGroupGrant (h : Nat) (s : State) : Out := .next (asHart h grantAct s)

/-- R47: the harts of a core that wait for lane groups. -/
def groupWaiters (s : State) : List Nat := ((coreHarts s).filter (·.groupWait)).map (·.id)

/-- R48: LANE_GROUP_SCRUBBED. -/
def execLaneGroupScrubbed (c : Nat) (g : Fin 8) (s : State) : Out :=
  .next (asCore c (fun s =>
    if s.core.scrubbing.getLsbD g.val then
      due ((groupWaiters s).map Instr.laneGroupGrant) (s.onCore fun k => { k with scrubbing := k.scrubbing &&& ~~~(1#8 <<< g.val) })
    else s) s)

/-- R237: MATRIX_CLAIM_GRANT. -/
def execMatrixClaimGrant (h : Nat) (s : State) : Out :=
  .next (asHart h (fun s => if s.hart.claimWait then (vectorTry s).1 else s) s)

/-- R260, R261: VWAIT_COMPLETE. -/
def execVwaitComplete (h : Nat) (s : State) : Out :=
  .next (asHart h (tryHead fun i => match i with
    | .vwaiteq .. | .vwaitne .. | .vwaitlt .. | .vwaitltu .. | .vwaitge .. | .vwaitgeu .. => true
    | _ => false) s)

/-- R270: BWAIT_COMPLETE. -/
def execBwaitComplete (h : Nat) (s : State) : Out :=
  .next (asHart h (tryHead fun i => match i with
    | .bwait .. => true
    | _ => false) s)

/-! ### VBANY and VBNONE (R184, R41) -/

/-- R184: some bit of a mask below VL is 1. -/
def anyBit (h : Hart) (m : Fin 8) : Bool := (List.range h.vl).any fun i => (h.m[m]).testBit i

/-- R41: a queued instruction that can change VL. FSAVE and FRSTR leave another hart context behind them. -/
def changesVl (i : Instr) : Bool :=
  match i with
  | .setvl .. | .vldff .. | .vfill .. | .fsave .. | .frstr .. => true
  | _ => false

/-- R41: a queued convoy whose drain a branch on mask `m` waits for. -/
def holdsBranch (m : Fin 8) (e : QEntry) : Bool := (queuedOps e).any fun o => o.1.mdst.contains m || changesVl o.1.i

/-- R184, R397: the failing word of a mask that a test of its bits below VL reads first. -/
def maskTrap (h : Hart) (m : Fin 8) : Option Trap :=
  (lowest (h.mbad.filterMap fun b =>
    if b.1 = m ∧ 32 * b.2 < h.vl then some ({ cause := 0x09, tval := wordCode h 1 m.val b.2, vside := true }, b.2) else none)).map (·.1)

/-- R37, R41, R184: the branch is dispatched where the vector queue has a slot, and resolves once the earlier convoys that write
its mask or can change VL have drained, the scalar side fetching nothing past it. A mask word that fails uncorrectably is
reported there (R397). -/
def vbranch (i : Instr) (m : Fin 8) (o : Fin 32768) (want : Bool) (s : State) : State :=
  if framesQueued s.hart then wait s
  else if s.hart.held.isSome then raise (illegal i 6 0) s
  else if decide (16 ≤ s.hart.vq.length) || s.hart.vq.any (holdsBranch m) then wait s
  else
  match maskTrap s.hart m with
  | some t => raise t s
  | none =>
  if anyBit s.hart m = want then jump (s.hart.pc + 4 * sextF 15 o.val) s
  else retire s

/-- R184: VBANY. -/
def execVbany (m : Fin 8) (o : Fin 32768) (s : State) : Out := .next (vbranch (.vbany m o) m o true s)

/-- R184: VBNONE. -/
def execVbnone (m : Fin 8) (o : Fin 32768) (s : State) : Out := .next (vbranch (.vbnone m o) m o false s)

/-- R41: VBRANCH_RESOLVE: a VBANY or VBNONE at the pc resolves. -/
def branchAct (s : State) : State :=
  match frameConvoy s with
  | .convoy [{ word := _, i := .vbany m o, lend := none }] _ _ t => vbranch (.vbany m o) m o true t
  | .convoy [{ word := _, i := .vbnone m o, lend := none }] _ _ t => vbranch (.vbnone m o) m o false t
  | _ => s

/-- R41: VBRANCH_RESOLVE. -/
def execVbranchResolve (h : Nat) (s : State) : Out := .next (asHart h (fun s => if s.hart.bound then branchAct s else s) s)

/-- R386: the causes the vector side raises (DEDUCED, notes/assumptions/43.md). -/
def vectorCause (n : Nat) : Bool :=
  [0x01, 0x03, 0x05, 0x06, 0x07, 0x08, 0x09, 0x0A, 0x0B, 0x0C, 0x0D, 0x0F, 0x10, 0x11, 0x12, 0x13, 0x14, 0x15, 0x17].contains n

/-- R420: the MEMERR of a fault of a memory block that is found at an address: the block that the address reaches
(DEDUCED, notes/assumptions/43.md). -/
def faultMemerr (cause : Nat) (tval : Word) (s : State) : Option Word :=
  if cause = 0x08 ∨ (cause = 0x09 ∧ !tval.getLsbD 63) then
    match resolve (reqOf s .load .vector .neither) tval s with
    | .ok (t, _) => some (memerrOf (if cause = 0x08 then 1 else 2) 0 (t.rd / 256 * 256))
    | .error _ => none
  else none

/-- R381, R383: VECTOR_SIDE_FAULT: a fault found in the convoy at the head of the vector queue. -/
def execVectorSideFault (h : Nat) (cause : Fin 256) (tval : BitVec 64) (member : Fin 4) (s : State) : Out :=
  .next (asHart h (fun s =>
    match (if vectorCause cause.val then s.hart.vq else []) with
    | e :: rest =>
      vectorFault { cause := cause.val, tval := tval, vside := true, member := member.val, memerr := faultMemerr cause.val tval s } e
        (s.onHart fun h => { h with vq := rest })
    | [] => s) s)

end

end Sys2Proof.Machine
end

