-- ==== Sys2Proof/Machine/Dispatch.lean ====
section
/-!
DEFINITION. The meaning of every instruction and step of the opcode table: one arm per constructor of `Instr`.
-/
namespace Sys2Proof.Machine
open Sys2Proof noncomputable section

/-- The meaning of an instruction or of a step of the device: one call of its own definition. -/
def exec (i : Instr) (s : State) : Host.Outcome State Fault Refusal :=
  match i with
  | .add d a b => Sys2Proof.Machine.execAdd d a b s
  | .sub d a b => Sys2Proof.Machine.execSub d a b s
  | .and d a b => Sys2Proof.Machine.execAnd d a b s
  | .or d a b => Sys2Proof.Machine.execOr d a b s
  | .xor d a b => Sys2Proof.Machine.execXor d a b s
  | .sll d a b => Sys2Proof.Machine.execSll d a b s
  | .srl d a b => Sys2Proof.Machine.execSrl d a b s
  | .sra d a b => Sys2Proof.Machine.execSra d a b s
  | .slt d a b => Sys2Proof.Machine.execSlt d a b s
  | .sltu d a b => Sys2Proof.Machine.execSltu d a b s
  | .min d a b => Sys2Proof.Machine.execMin d a b s
  | .max d a b => Sys2Proof.Machine.execMax d a b s
  | .minu d a b => Sys2Proof.Machine.execMinu d a b s
  | .maxu d a b => Sys2Proof.Machine.execMaxu d a b s
  | .mul d a b => Sys2Proof.Machine.execMul d a b s
  | .mulh d a b => Sys2Proof.Machine.execMulh d a b s
  | .mulhu d a b => Sys2Proof.Machine.execMulhu d a b s
  | .div d a b => Sys2Proof.Machine.execDiv d a b s
  | .divu d a b => Sys2Proof.Machine.execDivu d a b s
  | .rem d a b => Sys2Proof.Machine.execRem d a b s
  | .remu d a b => Sys2Proof.Machine.execRemu d a b s
  | .clz d a => Sys2Proof.Machine.execClz d a s
  | .popc d a => Sys2Proof.Machine.execPopc d a s
  | .ctz d a => Sys2Proof.Machine.execCtz d a s
  | .addi d a k => Sys2Proof.Machine.execAddi d a k s
  | .andi d a k => Sys2Proof.Machine.execAndi d a k s
  | .ori d a k => Sys2Proof.Machine.execOri d a k s
  | .xori d a k => Sys2Proof.Machine.execXori d a k s
  | .slti d a k => Sys2Proof.Machine.execSlti d a k s
  | .sltiu d a k => Sys2Proof.Machine.execSltiu d a k s
  | .slli d a h => Sys2Proof.Machine.execSlli d a h s
  | .srli d a h => Sys2Proof.Machine.execSrli d a h s
  | .srai d a h => Sys2Proof.Machine.execSrai d a h s
  | .lui d k => Sys2Proof.Machine.execLui d k s
  | .auipc d k => Sys2Proof.Machine.execAuipc d k s
  | .ldb d a o => Sys2Proof.Machine.execLdb d a o s
  | .ldh d a o => Sys2Proof.Machine.execLdh d a o s
  | .ldw d a o => Sys2Proof.Machine.execLdw d a o s
  | .ldd d a o => Sys2Proof.Machine.execLdd d a o s
  | .ldbu d a o => Sys2Proof.Machine.execLdbu d a o s
  | .ldhu d a o => Sys2Proof.Machine.execLdhu d a o s
  | .ldwu d a o => Sys2Proof.Machine.execLdwu d a o s
  | .stb r a o => Sys2Proof.Machine.execStb r a o s
  | .sth r a o => Sys2Proof.Machine.execSth r a o s
  | .stw r a o => Sys2Proof.Machine.execStw r a o s
  | .std r a o => Sys2Proof.Machine.execStd r a o s
  | .beq a b o => Sys2Proof.Machine.execBeq a b o s
  | .bne a b o => Sys2Proof.Machine.execBne a b o s
  | .blt a b o => Sys2Proof.Machine.execBlt a b o s
  | .bge a b o => Sys2Proof.Machine.execBge a b o s
  | .bltu a b o => Sys2Proof.Machine.execBltu a b o s
  | .bgeu a b o => Sys2Proof.Machine.execBgeu a b o s
  | .jal d k => Sys2Proof.Machine.execJal d k s
  | .jalr d a k => Sys2Proof.Machine.execJalr d a k s
  | .amoswap d a b x _q _l _s => Sys2Proof.Machine.execAmoswap d a b x _q _l _s s
  | .amoadd d a b x _q _l _s => Sys2Proof.Machine.execAmoadd d a b x _q _l _s s
  | .amoand d a b x _q _l _s => Sys2Proof.Machine.execAmoand d a b x _q _l _s s
  | .amoor d a b x _q _l _s => Sys2Proof.Machine.execAmoor d a b x _q _l _s s
  | .amoxor d a b x _q _l _s => Sys2Proof.Machine.execAmoxor d a b x _q _l _s s
  | .amomin d a b x _q _l _s => Sys2Proof.Machine.execAmomin d a b x _q _l _s s
  | .amomax d a b x _q _l _s => Sys2Proof.Machine.execAmomax d a b x _q _l _s s
  | .amominu d a b x _q _l _s => Sys2Proof.Machine.execAmominu d a b x _q _l _s s
  | .amomaxu d a b x _q _l _s => Sys2Proof.Machine.execAmomaxu d a b x _q _l _s s
  | .amocas d a b x _q _l _s => Sys2Proof.Machine.execAmocas d a b x _q _l _s s
  | .loop k a ix => Sys2Proof.Machine.execLoop k a ix s
  | .ecall => Sys2Proof.Machine.execEcall s
  | .ebreak => Sys2Proof.Machine.execEbreak s
  | .tret => Sys2Proof.Machine.execTret s
  | .park => Sys2Proof.Machine.execPark s
  | .wsw a => Sys2Proof.Machine.execWsw a s
  | .mvlc k a => Sys2Proof.Machine.execMvlc k a s
  | .fenceSv _s => Sys2Proof.Machine.execFenceSv _s s
  | .fenceVs _s => Sys2Proof.Machine.execFenceVs _s s
  | .fenceVv _s => Sys2Proof.Machine.execFenceVv _s s
  | .fenceAll _s => Sys2Proof.Machine.execFenceAll _s s
  | .csrr d c => Sys2Proof.Machine.execCsrr d c s
  | .csrw d a c => Sys2Proof.Machine.execCsrw d a c s
  | .csrs d a c => Sys2Proof.Machine.execCsrs d a c s
  | .csrc d a c => Sys2Proof.Machine.execCsrc d a c s
  | .tlbinvAll keepg => Sys2Proof.Machine.execTlbinvAll keepg s
  | .tlbinvPage vpn => Sys2Proof.Machine.execTlbinvPage vpn s
  | .preqWrite h => Sys2Proof.Machine.execPreqWrite h s
  | .victqWrite v => Sys2Proof.Machine.execVictqWrite v s
  | .ggroupWrite gid => Sys2Proof.Machine.execGgroupWrite gid s
  | .setvl d a v => Sys2Proof.Machine.execSetvl d a v s
  | .laneGroupGrant h => Sys2Proof.Machine.execLaneGroupGrant h s
  | .laneGroupScrubbed c g => Sys2Proof.Machine.execLaneGroupScrubbed c g s
  | .vbany m o => Sys2Proof.Machine.execVbany m o s
  | .vbnone m o => Sys2Proof.Machine.execVbnone m o s
  | .vbranchResolve h => Sys2Proof.Machine.execVbranchResolve h s
  | .vadd e d a b p s1 => Sys2Proof.Machine.execVadd e d a b p s1 s
  | .vsub e d a b p s1 => Sys2Proof.Machine.execVsub e d a b p s1 s
  | .vrsub e d a b p s1 => Sys2Proof.Machine.execVrsub e d a b p s1 s
  | .vmul e d a b p s1 => Sys2Proof.Machine.execVmul e d a b p s1 s
  | .vmulh e d a b p s1 => Sys2Proof.Machine.execVmulh e d a b p s1 s
  | .vmulhu e d a b p s1 => Sys2Proof.Machine.execVmulhu e d a b p s1 s
  | .vand e d a b p s1 => Sys2Proof.Machine.execVand e d a b p s1 s
  | .vor e d a b p s1 => Sys2Proof.Machine.execVor e d a b p s1 s
  | .vxor e d a b p s1 => Sys2Proof.Machine.execVxor e d a b p s1 s
  | .vsll e d a b p s1 => Sys2Proof.Machine.execVsll e d a b p s1 s
  | .vsrl e d a b p s1 => Sys2Proof.Machine.execVsrl e d a b p s1 s
  | .vsra e d a b p s1 => Sys2Proof.Machine.execVsra e d a b p s1 s
  | .vmin e d a b p s1 => Sys2Proof.Machine.execVmin e d a b p s1 s
  | .vmax e d a b p s1 => Sys2Proof.Machine.execVmax e d a b p s1 s
  | .vminu e d a b p s1 => Sys2Proof.Machine.execVminu e d a b p s1 s
  | .vmaxu e d a b p s1 => Sys2Proof.Machine.execVmaxu e d a b p s1 s
  | .vsadd e d a b p s1 => Sys2Proof.Machine.execVsadd e d a b p s1 s
  | .vssub e d a b p s1 => Sys2Proof.Machine.execVssub e d a b p s1 s
  | .vsaddu e d a b p s1 => Sys2Proof.Machine.execVsaddu e d a b p s1 s
  | .vssubu e d a b p s1 => Sys2Proof.Machine.execVssubu e d a b p s1 s
  | .vmerge e d a b p s1 => Sys2Proof.Machine.execVmerge e d a b p s1 s
  | .vmv e d b p s1 => Sys2Proof.Machine.execVmv e d b p s1 s
  | .vid e d p => Sys2Proof.Machine.execVid e d p s
  | .vcmpeq e d a b p s1 => Sys2Proof.Machine.execVcmpeq e d a b p s1 s
  | .vcmpne e d a b p s1 => Sys2Proof.Machine.execVcmpne e d a b p s1 s
  | .vcmplt e d a b p s1 => Sys2Proof.Machine.execVcmplt e d a b p s1 s
  | .vcmpltu e d a b p s1 => Sys2Proof.Machine.execVcmpltu e d a b p s1 s
  | .vcmple e d a b p s1 => Sys2Proof.Machine.execVcmple e d a b p s1 s
  | .vcmpleu e d a b p s1 => Sys2Proof.Machine.execVcmpleu e d a b p s1 s
  | .vfadd e d a b p s1 => Sys2Proof.Machine.execVfadd e d a b p s1 s
  | .vfsub e d a b p s1 => Sys2Proof.Machine.execVfsub e d a b p s1 s
  | .vfmul e d a b p s1 => Sys2Proof.Machine.execVfmul e d a b p s1 s
  | .vfma e d a b p s1 => Sys2Proof.Machine.execVfma e d a b p s1 s
  | .vfmin e d a b p s1 => Sys2Proof.Machine.execVfmin e d a b p s1 s
  | .vfmax e d a b p s1 => Sys2Proof.Machine.execVfmax e d a b p s1 s
  | .vfcmpeq e d a b p s1 => Sys2Proof.Machine.execVfcmpeq e d a b p s1 s
  | .vfcmplt e d a b p s1 => Sys2Proof.Machine.execVfcmplt e d a b p s1 s
  | .vfcmple e d a b p s1 => Sys2Proof.Machine.execVfcmple e d a b p s1 s
  | .vfcvtif e d a p => Sys2Proof.Machine.execVfcvtif e d a p s
  | .vfcvtfi e d a p => Sys2Proof.Machine.execVfcvtfi e d a p s
  | .vslideup e d a b p => Sys2Proof.Machine.execVslideup e d a b p s
  | .vslidedn e d a b p => Sys2Proof.Machine.execVslidedn e d a b p s
  | .vshuf e d a b p => Sys2Proof.Machine.execVshuf e d a b p s
  | .vcompress e d a b p => Sys2Proof.Machine.execVcompress e d a b p s
  | .vexpand e d a b p => Sys2Proof.Machine.execVexpand e d a b p s
  | .vredsum e d a b p => Sys2Proof.Machine.execVredsum e d a b p s
  | .vredmax e d a b p => Sys2Proof.Machine.execVredmax e d a b p s
  | .vredmin e d a b p => Sys2Proof.Machine.execVredmin e d a b p s
  | .vredand e d a b p => Sys2Proof.Machine.execVredand e d a b p s
  | .vredor e d a b p => Sys2Proof.Machine.execVredor e d a b p s
  | .vmfirst e d a p => Sys2Proof.Machine.execVmfirst e d a p s
  | .vmpopc e d a p => Sys2Proof.Machine.execVmpopc e d a p s
  | .vmand e d a b p => Sys2Proof.Machine.execVmand e d a b p s
  | .vmor e d a b p => Sys2Proof.Machine.execVmor e d a b p s
  | .vmxor e d a b p => Sys2Proof.Machine.execVmxor e d a b p s
  | .vmnot e d a p => Sys2Proof.Machine.execVmnot e d a p s
  | .vmvxs e d a b => Sys2Proof.Machine.execVmvxs e d a b s
  | .vsplat e d a p => Sys2Proof.Machine.execVsplat e d a p s
  | .vnarrow e d a b p => Sys2Proof.Machine.execVnarrow e d a b p s
  | .vwiden e d a b p => Sys2Proof.Machine.execVwiden e d a b p s
  | .vscale e d a p => Sys2Proof.Machine.execVscale e d a p s
  | .vmadd e d a b p q => Sys2Proof.Machine.execVmadd e d a b p q s
  | .vmsub e d a b p q => Sys2Proof.Machine.execVmsub e d a b p q s
  | .vmmul e d a b p q => Sys2Proof.Machine.execVmmul e d a b p q s
  | .vmmac e d a b p q => Sys2Proof.Machine.execVmmac e d a b p q s
  | .vmneg e d a p q => Sys2Proof.Machine.execVmneg e d a p q s
  | .vmred e d a p q => Sys2Proof.Machine.execVmred e d a p q s
  | .vbfly e d a b p q => Sys2Proof.Machine.execVbfly e d a b p q s
  | .vibfly e d a b p q => Sys2Proof.Machine.execVibfly e d a b p q s
  | .vnegrot e d a b p q => Sys2Proof.Machine.execVnegrot e d a b p q s
  | .vauto e d a b p q => Sys2Proof.Machine.execVauto e d a b p q s
  | .vdecomp e d a b p q => Sys2Proof.Machine.execVdecomp e d a b p q s
  | .vmswitch e d a b p q => Sys2Proof.Machine.execVmswitch e d a b p q s
  | .vld e d a p o => Sys2Proof.Machine.execVld e d a p o s
  | .vlds e d a b p o => Sys2Proof.Machine.execVlds e d a b p o s
  | .vldx e d a b p o => Sys2Proof.Machine.execVldx e d a b p o s
  | .vldff e d a p o => Sys2Proof.Machine.execVldff e d a p o s
  | .vldb e d a b p o => Sys2Proof.Machine.execVldb e d a b p o s
  | .vst e d a p o => Sys2Proof.Machine.execVst e d a p o s
  | .vsts e d a b p o => Sys2Proof.Machine.execVsts e d a b p o s
  | .vstx e d a b p o => Sys2Proof.Machine.execVstx e d a b p o s
  | .vstb e d a b p o => Sys2Proof.Machine.execVstb e d a b p o s
  | .vspill d a => Sys2Proof.Machine.execVspill d a s
  | .vfill d a => Sys2Proof.Machine.execVfill d a s
  | .vamoadd d a b p q l s1 => Sys2Proof.Machine.execVamoadd d a b p q l s1 s
  | .vamoand d a b p q l s1 => Sys2Proof.Machine.execVamoand d a b p q l s1 s
  | .vamoor d a b p q l s1 => Sys2Proof.Machine.execVamoor d a b p q l s1 s
  | .vamoxor d a b p q l s1 => Sys2Proof.Machine.execVamoxor d a b p q l s1 s
  | .vamomin d a b p q l s1 => Sys2Proof.Machine.execVamomin d a b p q l s1 s
  | .vamomax d a b p q l s1 => Sys2Proof.Machine.execVamomax d a b p q l s1 s
  | .vamominu d a b p q l s1 => Sys2Proof.Machine.execVamominu d a b p q l s1 s
  | .vamoswap d a b p q l s1 => Sys2Proof.Machine.execVamoswap d a b p q l s1 s
  | .vamooadd d a b p q l s1 => Sys2Proof.Machine.execVamooadd d a b p q l s1 s
  | .vamooand d a b p q l s1 => Sys2Proof.Machine.execVamooand d a b p q l s1 s
  | .vamooor d a b p q l s1 => Sys2Proof.Machine.execVamooor d a b p q l s1 s
  | .vamooxor d a b p q l s1 => Sys2Proof.Machine.execVamooxor d a b p q l s1 s
  | .vamoomin d a b p q l s1 => Sys2Proof.Machine.execVamoomin d a b p q l s1 s
  | .vamoomax d a b p q l s1 => Sys2Proof.Machine.execVamoomax d a b p q l s1 s
  | .vamoominu d a b p q l s1 => Sys2Proof.Machine.execVamoominu d a b p q l s1 s
  | .vamooswap d a b p q l s1 => Sys2Proof.Machine.execVamooswap d a b p q l s1 s
  | .vwaiteq d a b p s1 => Sys2Proof.Machine.execVwaiteq d a b p s1 s
  | .vwaitne d a b p s1 => Sys2Proof.Machine.execVwaitne d a b p s1 s
  | .vwaitlt d a b p s1 => Sys2Proof.Machine.execVwaitlt d a b p s1 s
  | .vwaitltu d a b p s1 => Sys2Proof.Machine.execVwaitltu d a b p s1 s
  | .vwaitge d a b p s1 => Sys2Proof.Machine.execVwaitge d a b p s1 s
  | .vwaitgeu d a b p s1 => Sys2Proof.Machine.execVwaitgeu d a b p s1 s
  | .vwaitComplete h => Sys2Proof.Machine.execVwaitComplete h s
  | .mmode a => Sys2Proof.Machine.execMmode a s
  | .matrixClaimGrant h => Sys2Proof.Machine.execMatrixClaimGrant h s
  | .mzero t => Sys2Proof.Machine.execMzero t s
  | .msave t a => Sys2Proof.Machine.execMsave t a s
  | .mrstr t a => Sys2Proof.Machine.execMrstr t a s
  | .mopa t k a j b r l => Sys2Proof.Machine.execMopa t k a j b r l s
  | .mops t k a j b r l => Sys2Proof.Machine.execMops t k a j b r l s
  | .mdrain e d t b => Sys2Proof.Machine.execMdrain e d t b s
  | .mdrainc e d t b => Sys2Proof.Machine.execMdrainc e d t b s
  | .mfill t a b => Sys2Proof.Machine.execMfill t a b s
  | .pcfgBase p a => Sys2Proof.Machine.execPcfgBase p a s
  | .pcfgDim p a b => Sys2Proof.Machine.execPcfgDim p a b s
  | .pclr p => Sys2Proof.Machine.execPclr p s
  | .cload d x => Sys2Proof.Machine.execCload d x s
  | .cstore a x => Sys2Proof.Machine.execCstore a x s
  | .cadd d a b => Sys2Proof.Machine.execCadd d a b s
  | .csub d a b => Sys2Proof.Machine.execCsub d a b s
  | .cneg d a => Sys2Proof.Machine.execCneg d a s
  | .cmulp d a x => Sys2Proof.Machine.execCmulp d a x s
  | .caddp d a x => Sys2Proof.Machine.execCaddp d a x s
  | .cmacc d a x => Sys2Proof.Machine.execCmacc d a x s
  | .cmodsw d a => Sys2Proof.Machine.execCmodsw d a s
  | .ckeysw d a => Sys2Proof.Machine.execCkeysw d a s
  | .cbudget a x => Sys2Proof.Machine.execCbudget a x s
  | .chdrLo a x => Sys2Proof.Machine.execChdrLo a x s
  | .chdrHi a x => Sys2Proof.Machine.execChdrHi a x s
  | .cinv d => Sys2Proof.Machine.execCinv d s
  | .cmov d a => Sys2Proof.Machine.execCmov d a s
  | .cimport d x => Sys2Proof.Machine.execCimport d x s
  | .cref d a t => Sys2Proof.Machine.execCref d a t s
  | .crgo => Sys2Proof.Machine.execCrgo s
  | .crwait => Sys2Proof.Machine.execCrwait s
  | .passFormingEnd c n => Sys2Proof.Machine.execPassFormingEnd c n s
  | .halyardSubscribe c n => Sys2Proof.Machine.execHalyardSubscribe c n s
  | .halyardElementIssue d n => Sys2Proof.Machine.execHalyardElementIssue d n s
  | .keyElementArrival c n => Sys2Proof.Machine.execKeyElementArrival c n s
  | .keyPassEnd c n => Sys2Proof.Machine.execKeyPassEnd c n s
  | .kbind k a => Sys2Proof.Machine.execKbind k a s
  | .kunbind k => Sys2Proof.Machine.execKunbind k s
  | .tload t a k => Sys2Proof.Machine.execTload t a k s
  | .tclr t => Sys2Proof.Machine.execTclr t s
  | .qmset j a => Sys2Proof.Machine.execQmset j a s
  | .sopen k a => Sys2Proof.Machine.execSopen k a s
  | .srun k => Sys2Proof.Machine.execSrun k s
  | .swait k => Sys2Proof.Machine.execSwait k s
  | .ssave k a => Sys2Proof.Machine.execSsave k a s
  | .streamElementComplete h k => Sys2Proof.Machine.execStreamElementComplete h k s
  | .cpy d a b => Sys2Proof.Machine.execCpy d a b s
  | .cpy2d d a b => Sys2Proof.Machine.execCpy2d d a b s
  | .puts d a b => Sys2Proof.Machine.execPuts d a b s
  | .cpyb d a b => Sys2Proof.Machine.execCpyb d a b s
  | .copyComplete h n => Sys2Proof.Machine.execCopyComplete h n s
  | .putsSignal h n => Sys2Proof.Machine.execPutsSignal h n s
  | .cpybDeposit h n => Sys2Proof.Machine.execCpybDeposit h n s
  | .engineFault h => Sys2Proof.Machine.execEngineFault h s
  | .binit a b => Sys2Proof.Machine.execBinit a b s
  | .barv a => Sys2Proof.Machine.execBarv a s
  | .bard a => Sys2Proof.Machine.execBard a s
  | .bexp a b => Sys2Proof.Machine.execBexp a b s
  | .bwait a b => Sys2Proof.Machine.execBwait a b s
  | .btest d a => Sys2Proof.Machine.execBtest d a s
  | .bwaitComplete h => Sys2Proof.Machine.execBwaitComplete h s
  | .sbind d a => Sys2Proof.Machine.execSbind d a s
  | .sunbind d => Sys2Proof.Machine.execSunbind d s
  | .streamRegisterFetch h v => Sys2Proof.Machine.execStreamRegisterFetch h v s
  | .galloc d a b => Sys2Proof.Machine.execGalloc d a b s
  | .gfree a b => Sys2Proof.Machine.execGfree a b s
  | .reef a => Sys2Proof.Machine.execReef a s
  | .wqry a b => Sys2Proof.Machine.execWqry a b s
  | .wpush a b => Sys2Proof.Machine.execWpush a b s
  | .wdone => Sys2Proof.Machine.execWdone s
  | .farm d a b => Sys2Proof.Machine.execFarm d a b s
  | .fstrip d a => Sys2Proof.Machine.execFstrip d a s
  | .wqryAnswer part pool => Sys2Proof.Machine.execWqryAnswer part pool s
  | .apxb r l => Sys2Proof.Machine.execApxb r l s
  | .apxe r => Sys2Proof.Machine.execApxe r s
  | .apxinv r => Sys2Proof.Machine.execApxinv r s
  | .fsave a => Sys2Proof.Machine.execFsave a s
  | .frstr a => Sys2Proof.Machine.execFrstr a s
  | .pfx p d c => Sys2Proof.Machine.execPfx p d c s
  | .pfxn p d c => Sys2Proof.Machine.execPfxn p d c s
  | .vectorConvoyStart h => Sys2Proof.Machine.execVectorConvoyStart h s
  | .replyWrite h => Sys2Proof.Machine.execReplyWrite h s
  | .vectorSideFault h cause tval member => Sys2Proof.Machine.execVectorSideFault h cause tval member s
  | .preemption h => Sys2Proof.Machine.execPreemption h s
  | .clockGroupEvent h => Sys2Proof.Machine.execClockGroupEvent h s
  | .linkEvent h => Sys2Proof.Machine.execLinkEvent h s
  | .parkWake h => Sys2Proof.Machine.execParkWake h s
  | .parkTimeout h => Sys2Proof.Machine.execParkTimeout h s
  | .postLaunchRecord ep part q records => Sys2Proof.Machine.execPostLaunchRecord ep part q records s
  | .takeLaunchRecord part q => Sys2Proof.Machine.execTakeLaunchRecord part q s
  | .dependenceSatisfied part q => Sys2Proof.Machine.execDependenceSatisfied part q s
  | .shadowSlotFill c k part => Sys2Proof.Machine.execShadowSlotFill c k part s
  | .bindHart part => Sys2Proof.Machine.execBindHart part s
  | .hartRetirement h => Sys2Proof.Machine.execHartRetirement h s
  | .doneaddrResend addr => Sys2Proof.Machine.execDoneaddrResend addr s
  | .tokenBucketRefill c => Sys2Proof.Machine.execTokenBucketRefill c s
  | .governorPeriod part => Sys2Proof.Machine.execGovernorPeriod part s
  | .partitionBlockWrite ep part off data => Sys2Proof.Machine.execPartitionBlockWrite ep part off data s
  | .lockedLoadRedirect h => Sys2Proof.Machine.execLockedLoadRedirect h s
  | .replicaLockTimeout h => Sys2Proof.Machine.execReplicaLockTimeout h s
  | .remoteTimeout h => Sys2Proof.Machine.execRemoteTimeout h s
  | .memoryLinkDown m => Sys2Proof.Machine.execMemoryLinkDown m s
  | .laneRetirement c lane => Sys2Proof.Machine.execLaneRetirement c lane s
  | .grottoSwitchLost pod plane => Sys2Proof.Machine.execGrottoSwitchLost pod plane s
  | .grottoSwitchReturn pod plane => Sys2Proof.Machine.execGrottoSwitchReturn pod plane s
  | .mirrorResyncComplete pod plane => Sys2Proof.Machine.execMirrorResyncComplete pod plane s
  | .grottoUnitZero pod u => Sys2Proof.Machine.execGrottoUnitZero pod u s
  | .flitReceive port flit => Sys2Proof.Machine.execFlitReceive port flit s
  | .flitRetryRequest port seq => Sys2Proof.Machine.execFlitRetryRequest port seq s
  | .portRekey port => Sys2Proof.Machine.execPortRekey port s
  | .keySwitchoverRequest port => Sys2Proof.Machine.execKeySwitchoverRequest port s
  | .linkKeyInstall port recv slot key salt => Sys2Proof.Machine.execLinkKeyInstall port recv slot key salt s
  | .keyCounterExhausted port => Sys2Proof.Machine.execKeyCounterExhausted port s
  | .portUp port => Sys2Proof.Machine.execPortUp port s
  | .timeBeacon t => Sys2Proof.Machine.execTimeBeacon t s
  | .ownLimitChange d mhz => Sys2Proof.Machine.execOwnLimitChange d mhz s
  | .reefNotice d m v t => Sys2Proof.Machine.execReefNotice d m v t s
  | .reefNoticeEffective d => Sys2Proof.Machine.execReefNoticeEffective d s
  | .shakeoutProposal d m => Sys2Proof.Machine.execShakeoutProposal d m s
  | .shakeoutAnswer d m v => Sys2Proof.Machine.execShakeoutAnswer d m v s
  | .shakeoutCommit d t values => Sys2Proof.Machine.execShakeoutCommit d t values s
  | .shakeoutCommitEffective d => Sys2Proof.Machine.execShakeoutCommitEffective d s
  | .heartbeatSend d => Sys2Proof.Machine.execHeartbeatSend d s
  | .heartbeat d m limit => Sys2Proof.Machine.execHeartbeat d m limit s
  | .joinRequest d m limit => Sys2Proof.Machine.execJoinRequest d m limit s
  | .joinAnswer d c members notices shake => Sys2Proof.Machine.execJoinAnswer d c members notices shake s
  | .joinTimeout d => Sys2Proof.Machine.execJoinTimeout d s
  | .leaveMessage d m => Sys2Proof.Machine.execLeaveMessage d m s
  | .memberSilence d m => Sys2Proof.Machine.execMemberSilence d m s
  | .memberEviction d m => Sys2Proof.Machine.execMemberEviction d m s
  | .attest slot => Sys2Proof.Machine.execAttest slot s
  | .ctxopen slot => Sys2Proof.Machine.execCtxopen slot s
  | .ctxshare slot => Sys2Proof.Machine.execCtxshare slot s
  | .ctxend slot => Sys2Proof.Machine.execCtxend slot s
  | .contextErase ctx => Sys2Proof.Machine.execContextErase ctx s
  | .wbind slot => Sys2Proof.Machine.execWbind slot s
  | .ctxexport slot => Sys2Proof.Machine.execCtxexport slot s
  | .ctxaccept slot => Sys2Proof.Machine.execCtxaccept slot s
  | .migrationConfirmation ctx signature => Sys2Proof.Machine.execMigrationConfirmation ctx signature s
  | .confirmationResend ctx => Sys2Proof.Machine.execConfirmationResend ctx s
  | .fwstage slot => Sys2Proof.Machine.execFwstage slot s
  | .fwact slot => Sys2Proof.Machine.execFwact slot s
  | .fwActivationComplete success => Sys2Proof.Machine.execFwActivationComplete success s
  | .deviceReset => Sys2Proof.Machine.execDeviceReset s
  | .solitaryLimitEffective d => Sys2Proof.Machine.execSolitaryLimitEffective d s
  | .pageMigration h va dest stores => Sys2Proof.Machine.execPageMigration h va dest stores s
  | .remoteEndpointAccess ep kind off data => Sys2Proof.Machine.execRemoteEndpointAccess ep kind off data s

end
end Sys2Proof.Machine
end

