-- ==== Sys2Proof/Machine/Step.lean ====
section
/-!
DEFINITION. One step of the machine: an event that is due, or one turn of one hart (02_execution.md R31, R37, R57,
13_scheduling.md R308, R309, 20_faults_execution.md R382, R443); and the state in which a given word is the next
instruction.
-/
namespace Sys2Proof.Machine

noncomputable section

/-- R175: a pending event or pre-emption request sets the wake latch of its hart while IE is 1. -/
def latchPending (s : State) : State :=
  let f : Hart → Hart := fun h =>
    { h with latch := h.latch || (h.bound && h.ie && (h.preq || (eventFor s h.id).isSome)) }
  { s with hart := f s.hart, harts := s.harts.map f }

/-- R312, R322: TIME moves on and never decreases, and with it the number of the step; static energy is charged (R311), wake
latches are set (R175) and the links carry flits (R318). How far TIME moves, nothing in the model says
(DESIGN CHOICE, notes/assumptions/6.md). -/
def clockTick (s : State) : State :=
  let t := chargeStatic s
  linkTick (latchPending { t with
    tick := s.tick + 1
    dev := { t.dev with time := laterTime s.dev.time (Config.timeElapse s.tick) } })

/-- R312: the cycles of the core in focus move on (DESIGN CHOICE, notes/assumptions/6.md). R37: whether the scalar side of its
hart runs ahead in this turn is open (DESIGN CHOICE, notes/assumptions/58.md), and so is whether it then puts off the accesses
that it issues (DESIGN CHOICE, notes/assumptions/72.md); in the first step it does not. -/
def coreTick (s : State) : State :=
  let ahead := decide (1 < s.tick) && Config.runAhead s.tick
  (s.onCore fun c => { c with cycle := c.cycle + Config.cycleElapse s.tick }).onHart fun h =>
    { h with ahead := ahead, late := ahead && Config.putsOff s.tick }

/-! ### Turns (R57, R308) -/

/-- R57: a hart that may have a turn: bound, not retiring and not found waiting since the round before. -/
def runnable (h : Hart) : Bool := h.bound && !h.retiring && !h.yield

/-- R308: the runnable harts, each once: core by core from the one in focus, and on a core from its round-robin pointer. -/
def roundOf (s : State) : List Nat :=
  let ids := ((s.hart :: s.harts).filter runnable).map (·.id)
  let cs := (s.core.id :: ids.map coreOf).eraseDups
  cs.flatMap fun c =>
    ((List.range 4).map fun k => 4 * c + ((coreAt c s).rr + k) % 4).filter ids.contains

/-- A hart that waited is tried again. -/
def tryAgain (s : State) : State :=
  let f : Hart → Hart := fun h => { h with yield := false }
  { s with hart := f s.hart, harts := s.harts.map f }

/-- The hart named next in the round comes into focus; none where nothing of the kind is bound. -/
def nextTurn (s : State) : Option State :=
  match s.turns with
  | t :: ts => (focus t { s with turns := ts }).filter fun u => u.hart.bound && !u.hart.retiring
  | [] => none

/-- A hart comes into focus: the next of the round, or the first of a new round. -/
def pick (s : State) : Option State :=
  match nextTurn s with
  | some u => some u
  | none =>
    match roundOf s with
    | t :: ts => focus t { s with turns := ts }
    | [] =>
      match roundOf (tryAgain s) with
      | t :: ts => focus t { tryAgain s with turns := ts }
      | [] => none

/-! ### Energy of what acts by itself (R311) -/

/-- R311: the energy of a Halyard pass, to the harts of its cores by the accumulators each holds in it. -/
def chargePass (p : HalyardPass) (s : State) : State :=
  p.subscribers.foldl (fun s cn =>
    ((coreAt cn.1 s).accs.filter fun a => a.pass == some cn.2).foldl (fun s a =>
      asHart a.hart (fun s => addEnergy s.hart.part s.hart.launch.queue (Config.passEnergy s.tick) s) s) s) s

/-- R311: what an event does is charged to the hart it is done for. -/
def chargeEvent (e : Instr) (s : State) : State :=
  match e with
  | .copyComplete h _ => asHart h chargeWork s
  | .putsSignal h _ => asHart h chargeWork s
  | .cpybDeposit h _ => asHart h chargeWork s
  | .streamElementComplete h _ => asHart h chargeWork s
  | .streamRegisterFetch h _ => asHart h chargeWork s
  | .keyElementArrival c n => (servingPass c n s).elim s fun p => chargePass p s
  | .keyPassEnd c n => (servingPass c n s).elim s fun p => chargePass p s
  | .halyardElementIssue d n => ((dieAt d s).passes.find? (·.id == n)).elim s fun p => chargePass p s
  | _ => s

/-! ### Issue (R308, R309, R443) -/

/-- R308, R309: the slot that a hart used: the pointer moves past it and a token is taken. A hart that waits used none. A
bucket set to 0xFFFF never empties. -/
def charge (s : State) : State :=
  if s.hart.yield then s
  else (chargeWork s).onCore fun c =>
    { c with rr := (s.hart.id + 1) % 4, tokens := if c.tokens = 0xFFFF then c.tokens else c.tokens - 1 }

/-- R308: a hart that has used no slot yet goes on with its turn: before a PFX's successor, and after what its vector side
did. -/
def keepTurn (s : State) : State := { s with turns := s.hart.id :: s.turns }

/-- What a next state becomes. -/
def mapNext (f : State → State) : Out → Out
  | .next t => .next (f t)
  | .fault r => .fault r
  | .refused r => .refused r

/-- R163: a load, a store or an AMO that releases nothing, of the S agent. -/
def plainAccess (i : Instr) : Bool :=
  match i with
  | .ldb .. | .ldh .. | .ldw .. | .ldd .. | .ldbu .. | .ldhu .. | .ldwu .. | .stb .. | .sth .. | .stw .. | .std .. => true
  | .amoswap _ _ _ _ _ l _ => !l
  | .amoadd _ _ _ _ _ l _ => !l
  | .amoand _ _ _ _ _ l _ => !l
  | .amoor _ _ _ _ _ l _ => !l
  | .amoxor _ _ _ _ _ l _ => !l
  | .amomin _ _ _ _ _ l _ => !l
  | .amomax _ _ _ _ _ l _ => !l
  | .amominu _ _ _ _ _ l _ => !l
  | .amomaxu _ _ _ _ _ l _ => !l
  | .amocas _ _ _ _ _ l _ => !l
  | _ => false

/-- R163, R295, R298: a convoy that may pass the accesses of the S agent that are not performed yet: instructions of the vector
queue that release nothing, and those of the scalar side that touch registers alone or make a plain access. -/
def passesBuffered (i : Instr) : Bool :=
  registersOnly i || plainAccess i || ((opOf i).isSome && !releases i)

/-- R295: the state in which a convoy is issued: the accesses put off are performed, unless it may pass them. -/
def bufferedBefore (is : List Instr) (s : State) : State := if is.all passesBuffered then s else performBuffered s

/-- The convoy at the pc is issued: a PFX that heads it alone, a single member by its meaning, or several together. -/
def issue (s : State) : Out :=
  match frameConvoy s with
  | .wait u => .next (wait u)
  | .trap t u => .next (raise t u)
  | .convoy ms n pfx u =>
    let v := bufferedBefore (ms.map (·.i)) (echoGuard (convoyPc u.hart) (ms.map (·.i)) u)
    match pfx, ms with
    | some p, _ => mapNext keepTurn (exec p v)
    | none, [m] => mapNext charge (exec m.i v)
    | none, ms => .next (charge (issueConvoy ms n v))

/-- R382: the asynchronous cause that the hart takes at this boundary: the lowest code first. -/
def asyncDue (s : State) : Option Instr :=
  if s.hart.parked then none
  else if preemptNow s then some (.preemption s.hart.id)
  else if !s.hart.ie then none
  else (eventFor s s.hart.id).map fun e => if e.2.1 then .linkEvent s.hart.id else .clockGroupEvent s.hart.id

/-- R47, R57: the hart waits at a SETVL for lane groups and is not ready. -/
def setvlWaits (h : Hart) : Bool :=
  h.groupWait && match h.vq with
    | { members := [(_, .setvl ..)], .. } :: _ => true
    | _ => false

/-- The scalar side of the hart in focus has its turn: an engine fault that is due (R418), an asynchronous cause (R382), or
the convoy at the pc where the hart is ready (R57) and the core's bucket holds a token (R309). -/
def scalarTurn (s : State) : Out :=
  if engineDue s then .next (engineFaultAct s)
  else
    match asyncDue s with
    | some e => exec e s
    | none => if queueHolds s.hart || setvlWaits s.hart || s.core.tokens = 0 then .next (wait s) else issue s

/-- R380: a trap is due to the hart that stops the convoy at the head of its vector queue where that has got to. -/
def stopDue (s : State) : Bool := engineDue s || (asyncDue s).isSome

/-- The head of the vector queue tried, up to a place at which it is stopped. -/
def vectorUpTo (stop : Option Nat) (s : State) : State × Bool :=
  let (t, b) := vectorTry (s.onHart fun h => { h with stopAt := stop })
  (t.onHart fun h => { h with stopAt := none }, b)

/-- The vector side has come further into its convoy. -/
def goesOn (s t : State) : Bool := decide (s.hart.vstart < t.hart.vstart) || decide (s.hart.mstart < t.hart.mstart)

/-- R31, R380: the head of the vector queue tried; a trap that is due may stop it at an element, a step or a row, and the scalar
side may have its turn while it is under way (DESIGN CHOICE, notes/assumptions/58.md). -/
def vectorTurn (s : State) : State × Bool :=
  if stopDue s then vectorUpTo (some (Config.stopPoint s.tick)) s
  else if Config.pauses s.tick && goesOn s (vectorUpTo (some (Config.stopPoint s.tick)) s).1 then
    vectorUpTo (some (Config.stopPoint s.tick)) s
  else vectorUpTo none s

/-- The vector side before the scalar side: the convoy at the head of the vector queue (R31), or the scalar side. -/
def vectorFirst (s : State) : Out :=
  match vectorTurn s with
  | (t, true) => .next (keepTurn (chargeWork t))
  | (t, false) => scalarTurn t

/-- R295: a hart that waits has performed its accesses. -/
def bufferedAtWait (t : State) : State := if t.hart.yield then performBuffered t else t

/-- R37: the scalar side before the vector side: where it waits, the vector side is tried. -/
def scalarFirst (s : State) : Out :=
  match scalarTurn s with
  | .next t => if t.hart.id == s.hart.id && t.hart.yield then vectorFirst s else .next t
  | o => o

/-- The turn of the hart in focus: a reply that is ready (R38), the convoy at the head of its vector queue (R31), or
its scalar side. Accesses that were put off are performed when the scalar side waits (R295). -/
def turnAs (s : State) : Out :=
  mapNext bufferedAtWait
    (if s.hart.replies.head?.any (·.vals.isSome) then .next (keepTurn (replyAct s))
    else if s.hart.vq.isEmpty || s.defer != 0 then scalarTurn s
    else if s.hart.ahead then scalarFirst s
    else vectorFirst s)

/-- R381: in a turn of the hart in focus a fault of its vector side has been found. -/
def faultFound (s t : State) : Bool :=
  let c := (trapRegs t.hart.priv t.hart).tcause
  t.hart.id == s.hart.id && s.hart.held.isNone && t.hart.held.isSome && c.getLsbD 15 && !c.getLsbD 14

/-- R381, R442: a fault of the vector side is found when the scalar side waits, or has issued three convoys since the vector side
met it (DEDUCED, notes/assumptions/76.md). -/
def tooSoon (s : State) (o : Out) : Bool :=
  match o with
  | .next t => !s.hart.ahead && decide (s.hart.lag < 3) && faultFound s t
  | _ => false

/-- R442: the scalar side has the turn in which a fault would be found too soon. -/
def runsOn (s : State) : State := s.onHart fun h => { h with ahead := true, lag := h.lag + 1 }

/-- The turn of the hart in focus; accesses that were put off are performed at the latest where the scalar side does not run ahead
(R295), and a fault of the vector side is found in time (R442). -/
def turn (s : State) : Out :=
  let s := if s.hart.ahead then s else performBuffered s
  if tooSoon s (turnAs s) then turnAs (runsOn s)
  else if s.hart.lag = 0 || s.hart.ahead then turnAs s
  else mapNext (fun t => t.onHart fun h => { h with lag := 0 }) (turnAs s)

/-- A hart has its turn; with none bound the device idles until an event is due. -/
def hartStep (s : State) : Out :=
  match pick s with
  | some u => turn (coreTick { u with defer := u.defer - 1 })
  | none => .next { s with defer := 0 }

/-- What acts next where no timer has come due: the oldest event of the agenda, or a hart in its turn. -/
def actNext (s : State) : Out :=
  match s.agenda with
  | e :: es => if s.defer = 0 then exec e (chargeEvent e { s with agenda := es }) else hartStep s
  | [] => hartStep s

/-- What acts next: the first timer whose TIME has come goes before all else. -/
def act (s : State) : Out :=
  match rung s with
  | some (e, t) => exec e (chargeEvent e t)
  | none => actNext s

/-- One step: time passes, and an event or a hart acts (DESIGN CHOICE, notes/assumptions/1.md). -/
def step (s : State) : Host.Outcome State Fault Refusal := act (clockTick s)

/-! ### A word as the next instruction -/

/-- A vector convoy's last word that names only V register `k`: VMV Vk, Vk with E = 1. -/
def closer (k : Fin 32) : Nat := (encode (.vmv true k k 0 false)).getD 0

/-- A V register that an instruction with E = 0 leaves alone. -/
def freeReg (i : Instr) : Fin 32 :=
  let used := match i with
    | .pfx _ d _ => [d]
    | .pfxn _ d _ => [d]
    | i => match opOf i with
      | some o => o.vsrc ++ o.vdst
      | none => []
  ((List.finRange 32).find? fun k => !used.contains k).getD 0

/-- R27, R34: the words placed: the word itself, and for a word with E = 0 the one that ends its convoy. -/
def placedWords (w : Nat) : List Nat :=
  match decodeWord w with
  | .ok i => if bitAt w 31 then [w] else [w, closer (freeReg i)]
  | .error _ => [w]

/-- A page-table pointer to the table at a main-memory key (R114). -/
def pointerTo (key : Nat) : List Byte := leBytes 8 (1 + key / 4096 * 2 ^ 16)

/-- A 4 KiB leaf that U may execute from (R114, R115). -/
def codeLeaf (key : Nat) : List Byte := leBytes 8 (1 + 8 + 16 + key / 4096 * 2 ^ 16)

/-- The five tables at 0x10000 to 0x14FFF that map the page of an address to the code page at 0x15000. -/
def mapCode (va : Word) (s : State) : State :=
  let base := gaOf s.dev.devid 0
  let slot : Nat → Nat → Nat := fun l t => base + t + 8 * (va.toNat / 2 ^ (12 + 9 * (l - 1)) % 512)
  poke (slot 1 0x14000) (codeLeaf (base + 0x15000))
    (poke (slot 2 0x13000) (pointerTo (base + 0x14000))
      (poke (slot 3 0x12000) (pointerTo (base + 0x13000))
        (poke (slot 4 0x11000) (pointerTo (base + 0x12000))
          (poke (slot 5 0x10000) (pointerTo (base + 0x11000))
            (s.onHart fun h => { h with ptbase := Word.ofNat ((base + 0x10000) / 4096 * 2 ^ 16) })))))

/-- A word placed at a virtual address from which the hart in focus fetches. -/
def placeWord (va : Word) (w : Nat) (s : State) : State :=
  match resolve (reqOf s .fetch .scalar .neither) va s with
  | .ok (t, _) => poke t.rd (leBytes 4 w) s
  | .error _ => s

/-- Words placed one after another. -/
def placeWords : Word → List Nat → State → State
  | _, [], s => s
  | va, w :: ws, s => placeWords (va + 4) ws (placeWord va w s)

/-- The hart in focus about to issue from its pc, with nothing of it or of the device under way. -/
def readied (s : State) : State :=
  { s with
    hart := { s.hart with bound := true, retiring := false, yield := false, lend := none, vq := [], replies := [], preq := false
                          parked := false, held := none, groupWait := false, engFaults := [], ahead := false, lag := 0, late := false, sbuf := [] }
    core := { s.core with tokens := 0xFFFF, rr := s.hart.id % 4, icache := [] }
    die := { s.die with events := [] }
    dies := s.dies.map fun d => { d with events := [] }
    dev := { s.dev with timers := [] }
    agenda := [], defer := 0, turns := [s.hart.id] }

/-- The state in which the hart in focus fetches a word next (DESIGN CHOICE, notes/assumptions/2.md). -/
def State.withFetchWord (s : State) (nbits w : Nat) : State :=
  let r := readied s
  let m := match resolve (reqOf r .fetch .scalar .neither) r.hart.pc r with
    | .ok _ => r
    | .error _ => mapCode r.hart.pc r
  placeWords r.hart.pc (placedWords (w % 2 ^ nbits)) m

end

end Sys2Proof.Machine
end

