-- ==== Sys2Proof/Safety.lean ====
section
/-!
DEFINITION. The words that claims about the machine use: what it is for an instruction to complete, what a state must
hold for an instruction to run at once, what two states share, and which runs are safe. Nothing here is a rule of the
spec; each word cites the rules it abbreviates.
-/
namespace Sys2Proof.Machine

/-! ### Safe states and runs -/

/-- A safe state: memory is in its canonical form, so that equal memories are equal lists. -/
def State.Safe (s : State) : Prop := Memory.wf s.mem = true

/-- A safe run: `n` steps, none of which ends in a fault or a refusal, and memory stays in canonical form. -/
def SafeRun : Nat → State → Prop
  | 0, s => s.Safe
  | n + 1, s => s.Safe ∧ ∃ t, step s = .next t ∧ SafeRun n t

/-! ### Completing -/

/-- The instruction answers a next state, of which `P` holds. -/
def Completes (i : Instr) (s : State) (P : State → Prop) : Prop := ∃ t, exec i s = .next t ∧ P t

/-- R38: none of these registers awaits a reply of the vector side. -/
def Settled (s : State) (rs : List (Fin 32)) : Prop := ∀ r ∈ rs, pendingX s r = false

/-- R157, R43: the instruction writes `v` to X`d` (nothing where `d` is 0), completes its one-word convoy, and changes
nothing else. -/
def Yields (i : Instr) (s : State) (d : Fin 32) (v : Word) : Prop := exec i s = .next (retire (wx d v s))

/-! ### What two states share -/

/-- Every byte of memory reads the same. -/
def SameMem (s t : State) : Prop := ∀ a, Memory.read t.mem a = Memory.read s.mem a

/-- Every byte of memory outside `n` bytes from a key reads the same. -/
def SameMemBut (key n : Nat) (s t : State) : Prop :=
  ∀ a, (a < key ∨ key + n ≤ a) → Memory.read t.mem a = Memory.read s.mem a

/-- Every X register but those listed reads the same. -/
def SameXBut (ds : List (Fin 32)) (s t : State) : Prop := ∀ r, r ∉ ds → rx r t = rx r s

/-- The status, control and special registers of the hart, its trap registers (R377), V and M registers, ciphertext
registers, key slots, streams and queues are unchanged: what differs is at most X, the pc, the loop counters, the lent
state (R36), the wake latch (R175) and the accesses that waited (R423, R424). -/
def SameHart (h k : Hart) : Prop :=
  { k with x := h.x, pc := h.pc, loops := h.loops, lend := h.lend, latch := h.latch, yield := h.yield, waits := h.waits } = h

/-- The core, the die, the device and the other harts are unchanged. -/
def SameRest (s t : State) : Prop :=
  t.core = s.core ∧ t.die = s.die ∧ t.harts = s.harts ∧ t.cores = s.cores ∧ t.dies = s.dies ∧ t.dev = s.dev

/-! ### Memory accesses -/

/-- R415: an access to `n` bytes passes all six checks in `s`: it goes to the target `t` and leaves the state `u`, which differs from
`s` at most in the marks of page tables (R115, R123, R124), cached translations (R118), stale marks and repairs of copies
(R421), and the packets of an access to another endpoint (R318). -/
def Passes (k : AccKind) (a : Agent) (u : Use) (n : Nat) (va : Word) (s : State) (t : Target) (s' : State) : Prop :=
  reach { reqOf s k a u with bytes := n } va s = .ok (t, s')

/-- The target holds its bytes as they are: no end-to-end encryption (R346). -/
def Target.plain (t : Target) : Prop := t.e2e = []

/-- The `n` bytes of a plain target as a number; key material reads as zero (R97). -/
def Target.value (t : Target) (n : Nat) (s : State) : Nat := if inKeyStore t.rd then 0 else peek t.rd n s

/-- R302: the key lies in a partition block of this device, whose fields take a write by R303. -/
def inPartBlock (s : State) (key : Nat) : Prop := epOf key = s.dev.devid ∧ within (offOf key) windowOff (96 * 0x1000) = true

/-- The `n` low bytes of `x` have been stored at every copy of a plain target (R133, R162): every byte of memory outside
the stored bytes reads as before, every stored byte reads as stored where the copies are apart, and the hart's own
registers are unchanged. Partition blocks, whose fields take a write by R303, are left out on both sides. -/
def Stored (t : Target) (n x : Nat) (s s' : State) : Prop :=
  (∀ a, (∀ k ∈ t.wr, a < k ∨ k + n ≤ a) → ¬inPartBlock s a → Memory.read s'.mem a = Memory.read s.mem a)
  ∧ (s.Safe → s'.Safe)
  ∧ (s.Safe → t.wr.Pairwise (fun j k => j + n ≤ k ∨ k + n ≤ j) → (∀ k ∈ t.wr, ¬inPartBlock s k) →
      ∀ k ∈ t.wr, ∀ j < n, Memory.read s'.mem (k + j) = BitVec.ofNat 8 (x / 256 ^ j))
  ∧ SameXBut [] s s' ∧ SameHart s.hart s'.hart ∧ s'.hart.pc = s.hart.pc

/-! ### Quiet states and vector results -/

/-- Nothing of the hart in focus is under way that could hold a vector instruction up (R37, R38, R384), and it would find
no recorded failure (R397, R408), no pending refresh (R109) and no bound stream register (R272), and no trap is due that
stops it part way (R380); the scalar side does not run ahead (R37) and has put no access off (R295), and VL is within the largest VLMAX (R46). -/
def Quiet (s : State) : Prop :=
  s.hart.held = none ∧ s.hart.replies = [] ∧ s.hart.vq = [] ∧ s.defer = 0 ∧ s.hart.binds = [] ∧ s.hart.vbad = []
    ∧ s.hart.mbad = [] ∧ (∀ d : Fin 16, hdrKind s.hart.chdr[d] ≠ 2 ∧ s.hart.crerr[d] = 0) ∧ s.hart.vl ≤ 2 ^ 17
    ∧ s.hart.stopAt = none ∧ s.hart.ahead = false ∧ s.hart.releasedOnce = false
    ∧ s.hart.sbuf = []

/-- A quiet state whose next instruction is lent nothing, as every solo instruction's is (R35). -/
def Alone (s : State) : Prop := Quiet s ∧ s.hart.lend = none

/-- Memory serves every access in the core-local window of a hart of this device at once: no block fails (R419), no link
is down (R422), no line is locked (R423). R10, R12: 96 cores of four harts; R3, R97: devices have endpoint ids below 1024. -/
def CalmPlaces (s : State) : Prop :=
  s.dev.bad = [] ∧ s.dev.linksDown = [] ∧ s.dev.locks = [] ∧ s.hart.id < 384 ∧ s.dev.devid < 1024

/-- As `CalmPlaces`, with no transfer, query or stream of the hart under way (R296, R370). -/
def CalmMemory (s : State) : Prop :=
  CalmPlaces s ∧ s.hart.xfers = [] ∧ s.hart.queries = [] ∧ ∀ k : Fin 4, s.hart.streams[k].state ≠ .running

/-- The key at which the scratchpad of the hart's core holds the byte with this window address (R119). -/
def scratchAt (s : State) (va : Word) : Nat := scratchKey s (coreOf s.hart.id) (va.toNat - 0xFF00000000000000)

/-- The `n` bytes from a virtual address lie in the scratchpad window (R119). -/
def inScratch (va : Word) (n : Nat) : Prop :=
  0xFF00000000000000 ≤ va.toNat ∧ va.toNat + n ≤ 0xFF00000000100000

/-- The elements an instruction with predicate `p` computes (R33, R35): active, from VSTART up, below VL. -/
def computes (h : Hart) (p : Fin 8) (i : Nat) : Bool := active h p h.lend i && decide (h.vstart ≤ i)

/-- R43, R33: the hart has completed the convoy at hand, whose remaining word is at the pc, and VSTART is 0. -/
def Retired (s t : State) : Prop :=
  t.hart.pc = (s.hart.loops.test s.hart.pc).1.getD (s.hart.pc + 4) ∧ t.hart.loops = (s.hart.loops.test s.hart.pc).2
    ∧ t.hart.lend = none ∧ t.hart.vstart = 0

/-- R185: `d`, and the register a PFX lends for a copy (R36), hold `f i` at width `w` in the elements selected; every
other element, every other V register and every mask is unchanged. -/
def ElementsWritten (w : Nat) (sel : Nat → Bool) (d : Fin 32) (f : Nat → Nat) (s t : State) : Prop :=
  (∀ (r : Fin 32) (i : Nat), elemAt t.hart r w i =
    if (r = d ∨ lentCopy s.hart.lend = some r) ∧ sel i = true then f i % 2 ^ w else elemAt s.hart r w i)
  ∧ t.hart.m = s.hart.m

/-- R180, R186: mask `d` holds `f i` in the elements computed; every other mask bit and every V register is unchanged. -/
def MaskWritten (p : Fin 8) (d : Fin 8) (f : Nat → Bool) (s t : State) : Prop :=
  (∀ (r : Fin 8) (i : Nat), (t.hart.m[r]).testBit i =
    if r = d ∧ computes s.hart p i = true then f i else (s.hart.m[r]).testBit i)
  ∧ t.hart.v = s.hart.v

/-- R90: the ciphertext registers whose payload registers are among `ds` have KIND 0; every other header is unchanged. -/
def HeadersCleared (ds : List (Fin 32)) (s t : State) : Prop :=
  ∀ c : Fin 16, t.hart.chdr[c] = if ∃ r ∈ ds, r.val = c.val + 16 then s.hart.chdr[c] &&& ~~~3#128 else s.hart.chdr[c]

/-- What every vector instruction leaves of the hart: nothing but V registers, masks, the headers of the payload
registers among `ds`, the X registers among `xs`, VSTART and what completing its convoy changes differs. -/
def VectorHart (ds : List (Fin 32)) (xs : List (Fin 32)) (s t : State) : Prop :=
  Retired s t ∧ SameXBut xs s t ∧ HeadersCleared ds s t
  ∧ SameHart s.hart { t.hart with v := s.hart.v, m := s.hart.m, chdr := s.hart.chdr, vstart := s.hart.vstart }

/-- A vector instruction that makes no access: the hart as in `VectorHart`, memory and everything else unchanged. -/
def VectorOnly (ds : List (Fin 32)) (xs : List (Fin 32)) (s t : State) : Prop :=
  VectorHart ds xs s t ∧ t.mem = s.mem ∧ SameRest s t

/-- R37, R43: an instruction of the vector queue that keeps its own progress has completed: pc, loops and lent state as
after every completion, every X register but those listed and, once `f` has undone what the instruction writes, every
register of the hart as before. -/
def Done (xs : List (Fin 32)) (f : Hart → Hart) (s t : State) : Prop :=
  t.hart.pc = (s.hart.loops.test s.hart.pc).1.getD (s.hart.pc + 4) ∧ t.hart.loops = (s.hart.loops.test s.hart.pc).2
    ∧ t.hart.lend = none ∧ SameXBut xs s t ∧ SameHart s.hart (f t.hart)

/-- R267: the barrier at a key: EXPECT, PEND, BYTES, PHASE, and its reserved bytes zero. -/
def BarrierIs (s : State) (key expect pend bytes phase : Nat) : Prop :=
  peek key 4 s = expect ∧ peek (key + 4) 4 s = pend ∧ peek (key + 8) 4 s = bytes ∧ peek (key + 12) 4 s = phase
    ∧ peek (key + 16) 48 s = 0

/-- R269: as `BarrierIs`, after the completion test of a barrier whose EXPECT was `expect0` before. -/
def BarrierTested (s : State) (key expect0 expect pend bytes phase : Nat) : Prop :=
  if expect0 ≠ 0 ∧ pend = 0 ∧ bytes = 0 then BarrierIs s key expect expect bytes ((phase + 1) % 2 ^ 32)
  else BarrierIs s key expect pend bytes phase

/-- R104: digit `u` of the residue `c` modulo `qq` in base 2^beta, of `ell`: balanced digits of y, whose top one takes what
remains. What is left above u digits is y, moved up by half a base in each of them, over the base to the power u. -/
def gadgetDigit (qq c beta ell u : Nat) : Int :=
  let base : Int := 2 ^ beta
  let x : Int := if c ≤ qq / 2 then c else (c : Int) - qq
  let y : Int := if qq ≤ 2 ^ (beta * ell) then x else (x * 2 ^ (beta * ell) + (qq / 2 : Nat)) / (qq : Int)
  let above : Nat → Int := fun k => (y + base / 2 * ((List.range k).map fun j => base ^ j).sum) / base ^ k
  if u + 1 = ell then above u else above u - base * above (u + 1)

end Sys2Proof.Machine
end

