-- ==== Sys2Proof/Certificates/Slice0/Obligations.lean ====
section
/-!
DEFINITION. What is claimed of the machine, one proposition per claim, each formalising rules of the spec. Nothing is proved
here.
-/
open Sys2Proof Sys2Proof.Machine

/-- ADD, SUB, AND, OR, XOR, the shifts, the comparisons, MIN, MAX, the products, quotients and remainders, CLZ, POPC and
CTZ each complete with the result of R158 in Xd, the quotients and remainders with the corner values of R62,
whatever the operands are, once no register named awaits a reply; nothing else but the completion of the convoy
happens. (R158, R62) -/
def Obligations.ScalarRegisterResults : Prop :=
  ∀ (s : State) (d a b : Fin 32), Settled s [d, a, b] →
    let A := rx a s
    let B := rx b s
    let sh := B.toNat % 64
    Yields (.add d a b) s d (Word.ofNat (A.toNat + B.toNat))
    ∧ Yields (.sub d a b) s d (Word.ofInt (A.toInt - B.toInt))
    ∧ Yields (.and d a b) s d (A &&& B)
    ∧ Yields (.or d a b) s d (A ||| B)
    ∧ Yields (.xor d a b) s d (A ^^^ B)
    ∧ Yields (.sll d a b) s d (Word.ofNat (A.toNat * 2 ^ sh))
    ∧ Yields (.srl d a b) s d (Word.ofNat (A.toNat / 2 ^ sh))
    ∧ Yields (.sra d a b) s d (Word.ofInt (A.toInt / 2 ^ sh))
    ∧ Yields (.slt d a b) s d (if A.toInt < B.toInt then 1 else 0)
    ∧ Yields (.sltu d a b) s d (if A.toNat < B.toNat then 1 else 0)
    ∧ Yields (.min d a b) s d (Word.ofInt (min A.toInt B.toInt))
    ∧ Yields (.max d a b) s d (Word.ofInt (max A.toInt B.toInt))
    ∧ Yields (.minu d a b) s d (Word.ofNat (min A.toNat B.toNat))
    ∧ Yields (.maxu d a b) s d (Word.ofNat (max A.toNat B.toNat))
    ∧ Yields (.mul d a b) s d (Word.ofNat (A.toNat * B.toNat))
    ∧ Yields (.mulh d a b) s d (Word.ofInt (A.toInt * B.toInt / 2 ^ 64))
    ∧ Yields (.mulhu d a b) s d (Word.ofNat (A.toNat * B.toNat / 2 ^ 64))
    ∧ Yields (.div d a b) s d (if B = 0 then 0xFFFFFFFFFFFFFFFF else Word.ofInt (A.toInt.tdiv B.toInt))
    ∧ Yields (.divu d a b) s d (if B = 0 then 0xFFFFFFFFFFFFFFFF else Word.ofNat (A.toNat / B.toNat))
    ∧ Yields (.rem d a b) s d (if B = 0 then A else Word.ofInt (A.toInt.tmod B.toInt))
    ∧ Yields (.remu d a b) s d (if B = 0 then A else Word.ofNat (A.toNat % B.toNat))
    ∧ (∃ n, n ≤ 64 ∧ Yields (.clz d a) s d (Word.ofNat n) ∧ (∀ k < n, A.getLsbD (63 - k) = false)
        ∧ (n < 64 → A.getLsbD (63 - n) = true))
    ∧ Yields (.popc d a) s d (Word.ofNat ((List.range 64).countP fun k => A.getLsbD k))
    ∧ (∃ n, n ≤ 64 ∧ Yields (.ctz d a) s d (Word.ofNat n) ∧ (∀ k < n, A.getLsbD k = false) ∧ (n < 64 → A.getLsbD n = true))

/-- ADDI, ANDI, ORI, XORI, SLTI, SLTIU and the immediate shifts complete with the result of R159 in Xd, the immediate
sign-extended for ADDI, SLTI and SLTIU and zero-extended for ANDI, ORI and XORI; LUI and AUIPC complete with the
results of R160. (R159, R160) -/
def Obligations.ScalarImmediateResults : Prop :=
  ∀ (s : State) (d a : Fin 32) (i : Fin 32768) (h : Fin 64) (u : Fin 1048576), Settled s [d, a] →
    let A := rx a s
    let I : Int := if i.val < 16384 then i.val else (i.val : Int) - 32768
    let U : Int := if u.val < 524288 then u.val * 4096 else (u.val : Int) * 4096 - 2 ^ 32
    Yields (.addi d a i) s d (Word.ofInt (A.toNat + I))
    ∧ Yields (.andi d a i) s d (A &&& Word.ofNat i.val)
    ∧ Yields (.ori d a i) s d (A ||| Word.ofNat i.val)
    ∧ Yields (.xori d a i) s d (A ^^^ Word.ofNat i.val)
    ∧ Yields (.slti d a i) s d (if A.toInt < I then 1 else 0)
    ∧ Yields (.sltiu d a i) s d (if A.toNat < (Word.ofInt I).toNat then 1 else 0)
    ∧ Yields (.slli d a h) s d (Word.ofNat (A.toNat * 2 ^ h.val))
    ∧ Yields (.srli d a h) s d (Word.ofNat (A.toNat / 2 ^ h.val))
    ∧ Yields (.srai d a h) s d (Word.ofInt (A.toInt / 2 ^ h.val))
    ∧ Yields (.lui d u) s d (Word.ofInt U)
    ∧ Yields (.auipc d u) s d (Word.ofInt (s.hart.pc.toNat + U))

/-- When a convoy whose last word is at the address L completes: with no live loop ending at L the hart continues at L +
4 and no loop changes; with exactly one live loop ending there, a counter of 0 makes it dead and the hart continues
at L + 4, and any other counter is decremented and the hart continues at the start address; with both live loops
ending there, the one whose LOOP executed later is tested first and the other only if the first exits. No X
register, no memory and no other register changes. (02_execution.md R43) -/
def Obligations.CompletionMakesTheBackEdgeTest : Prop :=
  ∀ (s : State) (n : Nat),
    let L := s.hart.pc + BitVec.ofNat 64 (4 * (n - 1))
    let t := advance n s
    let l := s.hart.loops
    let ends : HwLoop → Bool := fun k => k.live && k.last == L
    let goes : HwLoop → HwLoop → Prop := fun k k' => k' = { k with count := k.count - 1 } ∧ t.hart.pc = k.start
    let exits : HwLoop → HwLoop → Prop := fun k k' => k' = { k with live := false, count := 0 }
    (ends l.lc0 = false → ends l.lc1 = false → t.hart.pc = L + 4 ∧ t.hart.loops = l)
    ∧ (ends l.lc0 = true → ends l.lc1 = false → t.hart.loops.lc1 = l.lc1 ∧
        if l.lc0.count = 0 then exits l.lc0 t.hart.loops.lc0 ∧ t.hart.pc = L + 4 else goes l.lc0 t.hart.loops.lc0)
    ∧ (ends l.lc0 = false → ends l.lc1 = true → t.hart.loops.lc0 = l.lc0 ∧
        if l.lc1.count = 0 then exits l.lc1 t.hart.loops.lc1 ∧ t.hart.pc = L + 4 else goes l.lc1 t.hart.loops.lc1)
    ∧ (ends l.lc0 = true → ends l.lc1 = true → l.zeroLater = true →
        if l.lc0.count ≠ 0 then goes l.lc0 t.hart.loops.lc0 ∧ t.hart.loops.lc1 = l.lc1
        else exits l.lc0 t.hart.loops.lc0 ∧
          if l.lc1.count ≠ 0 then goes l.lc1 t.hart.loops.lc1 else exits l.lc1 t.hart.loops.lc1 ∧ t.hart.pc = L + 4)
    ∧ (ends l.lc0 = true → ends l.lc1 = true → l.zeroLater = false →
        if l.lc1.count ≠ 0 then goes l.lc1 t.hart.loops.lc1 ∧ t.hart.loops.lc0 = l.lc0
        else exits l.lc1 t.hart.loops.lc1 ∧
          if l.lc0.count ≠ 0 then goes l.lc0 t.hart.loops.lc0 else exits l.lc0 t.hart.loops.lc0 ∧ t.hart.pc = L + 4)
    ∧ t.hart.loops.zeroLater = l.zeroLater
    ∧ SameXBut [] s t ∧ t.mem = s.mem ∧ SameHart s.hart t.hart ∧ SameRest s t

/-- Every register-register and immediate arithmetic instruction, LUI, AUIPC, load, store, branch, JAL, JALR, AMO, LOOP
and MVLC, of which one register read or written awaits a reply of the vector side, does not complete: the next state
differs from the one before in the mark alone by which the model lets another hart come into focus, so the
instruction is issued again. (02_execution.md R38, 07_isa_scalar.md R157) -/
def Obligations.PendingRegisterMakesScalarWait : Prop :=
  ∀ (s : State) (r d a b : Fin 32) (i : Fin 32768) (o : Fin 4096) (u : Fin 1048576) (h : Fin 64) (x q l : Bool) (sc : Fin 8)
    (k : Fin 2), pendingX s r = true →
    (r = d ∨ r = a ∨ r = b → ∀ j ∈
      [Instr.add d a b, .sub d a b, .and d a b, .or d a b, .xor d a b, .sll d a b, .srl d a b, .sra d a b, .slt d a b,
       .sltu d a b, .min d a b, .max d a b, .minu d a b, .maxu d a b, .mul d a b, .mulh d a b, .mulhu d a b, .div d a b,
       .divu d a b, .rem d a b, .remu d a b, .amoswap d a b x q l sc, .amoadd d a b x q l sc, .amoand d a b x q l sc,
       .amoor d a b x q l sc, .amoxor d a b x q l sc, .amomin d a b x q l sc, .amomax d a b x q l sc,
       .amominu d a b x q l sc, .amomaxu d a b x q l sc, .amocas d a b x q l sc], exec j s = .next (wait s))
    ∧ (r = d ∨ r = a → ∀ j ∈
      [Instr.clz d a, .popc d a, .ctz d a, .addi d a i, .andi d a i, .ori d a i, .xori d a i, .slti d a i, .sltiu d a i,
       .slli d a h, .srli d a h, .srai d a h, .ldb d a o, .ldh d a o, .ldw d a o, .ldd d a o, .ldbu d a o, .ldhu d a o,
       .ldwu d a o, .stb d a o, .sth d a o, .stw d a o, .std d a o, .beq d a i, .bne d a i, .blt d a i, .bge d a i,
       .bltu d a i, .bgeu d a i, .jalr d a i], exec j s = .next (wait s))
    ∧ (∀ j ∈ [Instr.lui r u, .auipc r u, .jal r u, .loop k r i, .mvlc k r], exec j s = .next (wait s))
    ∧ wait s = { s with hart := { s.hart with yield := true } }

/-- BEQ, BNE, BLT, BGE, BLTU and BGEU compare their operands as R164 says. Where the condition holds the hart continues
at the address of the branch word plus four times the sign-extended offset, and the back-edge test is not made;
otherwise the convoy completes. Nothing else changes. A branch to its own word is a legal spin. (R164) -/
def Obligations.BranchesTakeTheirTarget : Prop :=
  ∀ (s : State) (a b : Fin 32) (o : Fin 32768), Settled s [a, b] →
    let A := rx a s
    let B := rx b s
    let O : Int := if o.val < 16384 then o.val else (o.val : Int) - 32768
    let goes : Instr → Prop → Prop := fun i taken =>
      (taken → exec i s = .next (jump (Word.ofInt (s.hart.pc.toNat + 4 * O)) s)) ∧ (¬taken → exec i s = .next (retire s))
    goes (.beq a b o) (A = B) ∧ goes (.bne a b o) (A ≠ B) ∧ goes (.blt a b o) (A.toInt < B.toInt)
    ∧ goes (.bge a b o) (B.toInt ≤ A.toInt) ∧ goes (.bltu a b o) (A.toNat < B.toNat)
    ∧ goes (.bgeu a b o) (B.toNat ≤ A.toNat)
    ∧ ∀ T, (jump T s).hart.pc = T ∧ (jump T s).hart.loops = s.hart.loops ∧ SameXBut [] s (jump T s) ∧ (jump T s).mem = s.mem
        ∧ SameHart s.hart (jump T s).hart ∧ SameRest s (jump T s)

/-- JAL writes the address of its own word plus 4 to Xd and continues at the target of R140. JALR computes its target
from the value of Xa before the write, with bits [1:0] cleared, writes the address of its own word plus 4 to Xd and
continues there; with d = a the jump uses the old value. With d = 0 nothing is written. (R165) -/
def Obligations.JumpsLinkAndContinue : Prop :=
  ∀ (s : State) (d a : Fin 32) (u : Fin 1048576) (i : Fin 32768),
    let U : Int := if u.val < 524288 then u.val else (u.val : Int) - 1048576
    let I : Int := if i.val < 16384 then i.val else (i.val : Int) - 32768
    (Settled s [d] → exec (.jal d u) s = .next (jump (Word.ofInt (s.hart.pc.toNat + 4 * U)) (wx d (s.hart.pc + 4) s)))
    ∧ (Settled s [d, a] → ∃ t, exec (.jalr d a i) s = .next t
        ∧ t = jump t.hart.pc (wx d (s.hart.pc + 4) s)
        ∧ t.hart.pc = Word.ofNat ((Word.ofInt ((rx a s).toNat + I)).toNat / 4 * 4))

/-- With c the low 24 bits of Xa: LOOP with c = 0 leaves the counter dead, reading 0, and continues after the end
address, unless the other loop is live and ends at the LOOP word itself, whose back-edge test (R43) then decides;
with c not 0 the loop is live with counter c - 1, its start the word after LOOP and its end imm15 words later, in
place of any loop that was live on the counter, and it is the later of the two loops. MVLC writes the low 24 bits of
Xa to the counter of a live loop before the test of its own convoy, and does nothing else to a dead one.
(02_execution.md R42, 02_execution.md R44, 07_isa_scalar.md R168, 07_isa_scalar.md R169) -/
def Obligations.HardwareLoopsStartAndChange : Prop :=
  ∀ (s : State) (k : Fin 2) (a : Fin 32) (i : Fin 32768), Settled s [a] →
    let c := (rx a s).toNat % 2 ^ 24
    let stop := s.hart.pc + BitVec.ofNat 64 (4 * i.val)
    let l := s.hart.loops.get k
    let dead := (s.hart.loops.put k {}).test s.hart.pc
    (c = 0 → Completes (.loop k a i) s fun t =>
      t.hart.pc = dead.1.getD (stop + 4) ∧ t.hart.loops = dead.2 ∧ SameXBut [] s t ∧ t.mem = s.mem
        ∧ SameHart s.hart t.hart ∧ SameRest s t)
    ∧ (c ≠ 0 → ∃ u, exec (.loop k a i) s = .next (retire u)
        ∧ u = (s.onHart fun h => { h with loops := u.hart.loops })
        ∧ u.hart.loops.get k = { live := true, count := c - 1, start := s.hart.pc + 4, last := stop }
        ∧ u.hart.loops.get (1 - k) = s.hart.loops.get (1 - k) ∧ (u.hart.loops.zeroLater = true ↔ k = 0))
    ∧ (l.live = true → ∃ u, exec (.mvlc k a) s = .next (retire u)
        ∧ u = (s.onHart fun h => { h with loops := s.hart.loops.put k { l with count := c } }))
    ∧ (l.live = false → exec (.mvlc k a) s = .next (retire s))

/-- LDB, LDH, LDW, LDD and the unsigned loads form their address as Xa plus the sign-extended 12-bit offset. Where the
address is aligned to the access size and the access passes the six checks of R415 to a plain target, the load
completes: Xd becomes the little-endian value of the 1, 2, 4 or 8 bytes there, sign-extended or zero-extended, and
beyond the marks that the checks leave nothing else but the completion happens. Nothing is stored. Accesses put off
before that it must stay behind (R163) are performed first. In a turn in which the scalar side puts its accesses off
(R295; that it does is the model's choice, log entry 72) the load completes too, its value comes later, and it is
then that of the same bytes at that time. (07_isa_scalar.md R161, 07_isa_scalar.md R163, 05_memory.md R112,
23_faults_memory.md R415, 12_ordering.md R295) -/
def Obligations.ScalarLoadsReadTheirBytes : Prop :=
  ∀ (s u : State) (t : Target) (d a : Fin 32) (o : Fin 4096), Settled s [d, a] → t.plain →
    let va := Word.ofInt ((rx a s).toNat + if o.val < 2048 then (o.val : Int) else (o.val : Int) - 4096)
    let r := reqOf s .load .scalar .clears
    let runs : Instr → Nat → Bool → (Nat → Word) → Prop := fun i n signed ext =>
      let late : SAccess := { req := r, target := t, va := va, act := .load n signed d }
      va.toNat % n = 0 →
        (s.hart.late = false → Passes .load .scalar .clears n va (inOrder r va n s) t u →
          exec i s = .next (retire (wx d (ext (t.value n u)) u)))
        ∧ (s.hart.late = true → Passes .load .scalar .clears n va s t u →
          exec i s = .next (retire (u.onHart fun h => { h with sbuf := h.sbuf ++ [late] })))
        ∧ (u.hart.sbuf = [] → performBuffered (u.onHart fun h => { h with sbuf := [late] }) = wx d (ext (t.value n u)) u)
    runs (.ldb d a o) 1 true (fun x => Word.ofInt (sextN 8 x)) ∧ runs (.ldh d a o) 2 true (fun x => Word.ofInt (sextN 16 x))
    ∧ runs (.ldw d a o) 4 true (fun x => Word.ofInt (sextN 32 x)) ∧ runs (.ldd d a o) 8 false Word.ofNat
    ∧ runs (.ldbu d a o) 1 false Word.ofNat ∧ runs (.ldhu d a o) 2 false Word.ofNat ∧ runs (.ldwu d a o) 4 false Word.ofNat

/-- STB, STH, STW and STD form their address as R161 says. Where it is aligned to the access size and the access passes
the six checks of R415 to a plain target, the store completes: the low 1, 2, 4 or 8 bytes of Xs stand at every copy
of the target, every other byte of memory reads as before, and no X register and no other register of the hart
changes. STx X0 writes zeros. Accesses put off before that it must stay behind (R163) are performed first. In a turn
in which the scalar side puts its accesses off the store completes too, and its bytes are put off (R295; that they
are, is the model's choice, log entry 72); once performed, a store that was put off and still has its place has
written exactly those bytes. (07_isa_scalar.md R162, 07_isa_scalar.md R163, 05_memory.md R112, 23_faults_memory.md
R415, 12_ordering.md R295) -/
def Obligations.ScalarStoresWriteTheirBytes : Prop :=
  ∀ (s u : State) (t : Target) (r a : Fin 32) (o : Fin 4096), Settled s [r, a] → t.plain →
    let va := Word.ofInt ((rx a s).toNat + if o.val < 2048 then (o.val : Int) else (o.val : Int) - 4096)
    let q := reqOf s .store .scalar .clears
    let runs : Instr → Nat → Prop := fun i n =>
      let late : SAccess := { req := q, target := t, va := va, act := .store (leBytes n (rx r s).toNat) }
      va.toNat % n = 0 →
        (s.hart.late = false → Passes .store .scalar .clears n va (inOrder q va n s) t u →
          ∃ v, exec i s = .next (retire v) ∧ Stored t n (rx r s).toNat u v)
        ∧ (s.hart.late = true → Passes .store .scalar .clears n va s t u →
          exec i s = .next (retire (u.onHart fun h => { h with sbuf := h.sbuf ++ [late] })))
        ∧ (u.hart.sbuf = [] → hasPlace u late = true →
            Stored t n (rx r s).toNat u (performBuffered (u.onHart fun h => { h with sbuf := [late] })))
    runs (.stb r a o) 1 ∧ runs (.sth r a o) 2 ∧ runs (.stw r a o) 4 ∧ runs (.std r a o) 8

/-- Each AMO reads the word, or with .D the doubleword, at the address in Xa. Where the address is aligned to that size
and the access passes the six checks of R415 to a plain target, the AMO completes: Xd becomes the old value
(sign-extended from 32 bits without .D) and exactly those bytes hold the new value of R166; AMOCAS compares with Xd
as it was. With d = 0 the old value is discarded and the update still happens. Accesses put off before that it must
stay behind (R163) are performed first. In a turn in which the scalar side puts its accesses off (R295; log entry
72) an AMO without AQ and RL completes too and is put off; once performed, where it still has its place, it has done
exactly that to the value then there. The scope changes nothing of this. (07_isa_scalar.md R166, 07_isa_scalar.md
R157, 07_isa_scalar.md R163, 05_memory.md R135, 12_ordering.md R295) -/
def Obligations.ScalarAtomicsReadAndWrite : Prop :=
  ∀ (s u : State) (t : Target) (d a b : Fin 32) (x q l : Bool) (sc : Fin 8), Settled s [d, a, b] →
    let n := if x then 8 else 4
    let w := 8 * n
    let home := { t with rd := t.wr.headD t.rd }
    let old := home.value n u
    let B := (rx b s).toNat % 2 ^ w
    let X := (rx d s).toNat % 2 ^ w
    let r := reqOf s .atomic .scalar .clears
    let got := if x then Word.ofNat old else Word.ofInt (sextN 32 old)
    t.plain → (rx a s).toNat % n = 0 →
    let runs : Instr → RmwKind → Nat → Prop := fun i k new =>
      let late : SAccess := { req := r, target := t, va := rx a s, act := .rmw { kind := k, n := n, b := B, e := X } d }
      ((s.hart.late = false ∨ q = true ∨ l = true) → Passes .atomic .scalar .clears n (rx a s) (inOrder r (rx a s) n s) t u →
        ∃ v, exec i s = .next (retire (wx d got v)) ∧ Stored t n new u v)
      ∧ (s.hart.late = true → q = false → l = false → Passes .atomic .scalar .clears n (rx a s) s t u →
        exec i s = .next (retire (u.onHart fun h => { h with sbuf := h.sbuf ++ [late] })))
      ∧ (u.hart.sbuf = [] → hasPlace u late = true → t.wr.headD t.rd = t.rd →
        ∃ v, performBuffered (u.onHart fun h => { h with sbuf := [late] }) = wx d got v ∧ Stored t n new u v)
    runs (.amoswap d a b x q l sc) .swap B ∧ runs (.amoadd d a b x q l sc) .add ((old + B) % 2 ^ w)
    ∧ runs (.amoand d a b x q l sc) .and (old &&& B) ∧ runs (.amoor d a b x q l sc) .or (old ||| B)
    ∧ runs (.amoxor d a b x q l sc) .xor (old ^^^ B)
    ∧ runs (.amomin d a b x q l sc) .min (if sextN w old < sextN w B then old else B)
    ∧ runs (.amomax d a b x q l sc) .max (if sextN w B < sextN w old then old else B)
    ∧ runs (.amominu d a b x q l sc) .minu (min old B) ∧ runs (.amomaxu d a b x q l sc) .maxu (max old B)
    ∧ runs (.amocas d a b x q l sc) .cas (if old = X then B else old)

/-- A scalar load, store or AMO whose address is not a multiple of its access size has no effect but the precise trap of
cause 0x03 with TVAL the virtual address, whatever translation, permission and memory would say; nothing is
translated. (23_faults_memory.md R415, 05_memory.md R112, 20_faults_execution.md R386) -/
def Obligations.MisalignedScalarAccessTraps : Prop :=
  ∀ (s : State) (d a b : Fin 32) (o : Fin 4096) (x q l : Bool) (sc : Fin 8), Settled s [d, a, b] →
    let va := Word.ofInt ((rx a s).toNat + if o.val < 2048 then (o.val : Int) else (o.val : Int) - 4096)
    let traps : Instr → Nat → Word → Prop := fun i n v => v.toNat % n ≠ 0 → exec i s = .next (raise { cause := 3, tval := v } s)
    traps (.ldh d a o) 2 va ∧ traps (.ldhu d a o) 2 va ∧ traps (.ldw d a o) 4 va ∧ traps (.ldwu d a o) 4 va
    ∧ traps (.ldd d a o) 8 va ∧ traps (.sth d a o) 2 va ∧ traps (.stw d a o) 4 va ∧ traps (.std d a o) 8 va
    ∧ ∀ i ∈ [Instr.amoswap d a b x q l sc, .amoadd d a b x q l sc, .amoand d a b x q l sc, .amoor d a b x q l sc,
             .amoxor d a b x q l sc, .amomin d a b x q l sc, .amomax d a b x q l sc, .amominu d a b x q l sc,
             .amomaxu d a b x q l sc, .amocas d a b x q l sc], traps i (if x then 8 else 4) (rx a s)

/-- A scalar access, vector gather or scatter, VAMO, VWAIT, or engine access without the streaming hint, to a translated
address whose walk finds a leaf of an unreplicated page, and which passes its checks, sets ACC in the entry of the
span with the low bits of its index 0, and DIRTY too for a store or atomic; outside the eight bytes of that entry it
leaves the bytes of memory as they are, where no block fails and no memory link is down (else a mirrored line may be
repaired, R421). (05_memory.md R115, 05_memory.md R114, 05_memory.md R123) -/
def Obligations.TranslatedAccessSetsItsMarks : Prop :=
  ∀ (s u : State) (r : Req) (va : Word) (l : Leaf) (t : Target),
    s.Safe → r.use ≠ .sweep → canonical va.toNat = true → inWindow va.toNat = false → inAperture va.toNat = false →
    findLeaf s r va = .ok (l, true) → bitAt l.pte 12 = false → reach r va s = .ok (t, u) →
    u.Safe ∧ (s.dev.bad = [] → s.dev.linksDown = [] → SameMemBut l.first 8 s u) ∧ bitAt (peek l.first 8 u) 6 = true
    ∧ (r.kind = .store ∨ r.kind = .atomic → bitAt (peek l.first 8 u) 7 = true)

/-- An address in the core-local window is never translated and leaves no mark. Its first 1 MiB is the scratchpad of the
hart's core, for every agent and privilege; the following 64 KiB are that core's scalar data memory for the scalar
agent and the engines, and are refused with cause 0x07 for a vector access or matrix port read; the rest of the
window is refused so for every agent. A non-canonical address fails with the translation cause of its kind: 0x04 for
a fetch, 0x05 for a load or VWAIT, 0x06 for a store or atomic. A translated address whose leaf (with a well-formed
descriptor where the page is replicated) lacks a permission R114 asks for (RD for a load, WAIT or atomic, WR for a
store or atomic, EX for a fetch, USR at U) fails with cause 0x07. Each names the virtual address. (That a fetch is
served in the window, too, is log entry 45.) (05_memory.md R119, 05_memory.md R111, 05_memory.md R114, 05_memory.md
R120, 23_faults_memory.md R416, 20_faults_execution.md R386) -/
def Obligations.AddressesReachTheirRegions : Prop :=
  ∀ (s : State) (r : Req) (va : Word),
    let fails : Nat → Prop := fun c => resolve r va s = .error (.trap { cause := c, tval := va } 0)
    (0xFF00000000000000 ≤ va.toNat → va.toNat ≤ 0xFF000000FFFFFFFF →
      let off := va.toNat - 0xFF00000000000000
      let goes : Nat → Prop := fun key => resolve r va s = .ok ({ rd := key, wr := [key], attr := 0, e2e := [] }, s)
      (off < 0x100000 → goes (s.dev.devid * 2 ^ 44 + 0xD0000000000 + r.hart / 4 * 0x100000 + off))
      ∧ (0x100000 ≤ off → off < 0x110000 → r.agent = .scalar ∨ r.agent = .engine →
          goes (2 ^ 56 + r.hart / 4 * 0x10000 + (off - 0x100000)))
      ∧ (0x100000 ≤ off → off < 0x110000 → r.agent = .vector ∨ r.agent = .port → fails 7)
      ∧ (0x110000 ≤ off → fails 7))
    ∧ ((∃ i, 56 < i ∧ i < 64 ∧ va.getLsbD i ≠ va.getLsbD 56) →
      fails (match r.kind with | .fetch => 4 | .load | .wait => 5 | .store | .atomic => 6))
    ∧ (∀ (l : Leaf) (b : Bool), canonical va.toNat = true → inWindow va.toNat = false → inAperture va.toNat = false →
        findLeaf s r va = .ok (l, b) → (bitAt l.pte 12 = true → descStop s r va (gapn l.pte) = none) →
        (r.priv = .u ∧ bitAt l.pte 4 = false)
          ∨ ((r.kind = .load ∨ r.kind = .wait ∨ r.kind = .atomic) ∧ bitAt l.pte 1 = false)
          ∨ ((r.kind = .store ∨ r.kind = .atomic) ∧ bitAt l.pte 2 = false) ∨ (r.kind = .fetch ∧ bitAt l.pte 3 = false) →
        fails 7)

/-- A trap raised at U goes to S; one raised at S goes to S, but ECALL at S and every trap raised at M go to M. Entry
writes TCAUSE, TVAL and TPC of the target (TCAUSE with the old world, privilege and IE, VSIDE, ENGINE, MEMBER and
the cause), sets PRIV to the target and IE to 0, leaves the world and every X register as they are, and continues at
the address in the target's TVEC. The other privilege's trap registers, TVEC and TSCRATCH, memory (but for the stale
mark of a replica that failed on the way, R421), V registers, masks, the grant and the ciphertext registers do not
change. (20_faults_execution.md R378, 20_faults_execution.md R377, 20_faults_execution.md R380) -/
def Obligations.TrapEntryWritesItsRegisters : Prop :=
  ∀ (s : State) (tr : Trap) (tpc : Word) (front : List QEntry), tr.cause < 256 →
    let t := takeTrap tr tpc front s
    let p : Priv := if s.hart.priv = .m ∨ (tr.cause = 0x19 ∧ s.hart.priv = .s) then .m else .s
    let other : Priv := if p = .m then .s else .m
    let old := trapRegs p s.hart
    let r := trapRegs p t.hart
    let f := fun hi lo => bitsOf r.tcause.toNat hi lo
    t.hart.priv = p ∧ t.hart.ie = false ∧ t.hart.pc = old.tvec ∧ t.hart.world = s.hart.world
    ∧ f 7 0 = tr.cause ∧ f 13 12 = tr.member % 4 ∧ (f 14 14 = 1 ↔ tr.engine = true) ∧ (f 15 15 = 1 ↔ tr.vside = true)
    ∧ (f 17 17 = 1 ↔ s.hart.ie = true) ∧ f 19 18 = s.hart.priv.code ∧ f 31 24 = s.hart.world.val
    ∧ f 11 8 = 0 ∧ f 16 16 = 0 ∧ f 23 20 = 0 ∧ f 63 32 = 0
    ∧ r.tval = tr.tval ∧ r.tpc.toNat = tpc.toNat / 4 * 4 ∧ r.tvec = old.tvec ∧ r.tscratch = old.tscratch
    ∧ trapRegs other t.hart = trapRegs other s.hart
    ∧ t.hart.x = s.hart.x ∧ (tr.stale = none → t.mem = s.mem) ∧ (∀ x, tr.stale = some x → t.mem = (markStale x.1 x.2 s).mem)
    ∧ t.hart.v = s.hart.v ∧ t.hart.m = s.hart.m ∧ t.hart.groups = s.hart.groups
    ∧ t.hart.lanes = s.hart.lanes ∧ t.hart.chdr = s.hart.chdr ∧ t.core.matrix = s.core.matrix

/-- With no held context, a trap moves the queued vector convoys (headed by the one that was running, whose pc is VPC),
the pending replies, the loop state, the lent state and the delegated-handler state into one, and leaves the hart
with none of them: its X registers are not pending (but for one that an access put off still brings, log entry 72)
and its streams are stopped. VL, VTYPE, VSTART, ECARRY and MSTART keep their values. With a held context present
that context stands as it is, a FSAVE or FRSTR that the handler has queued stays queued (log entry 48), and the loop
state in force is lost. (20_faults_execution.md R380, 20_faults_execution.md R290) -/
def Obligations.TrapEntryMakesTheHeldContext : Prop :=
  ∀ (s : State) (tr : Trap) (tpc : Word) (front : List QEntry),
    let t := takeTrap tr tpc front s
    t.hart.replies = [] ∧ t.hart.loops = {} ∧ t.hart.lend = none ∧ (∀ r, pendingX t r = true → ∃ x ∈ s.hart.sbuf, x.act.dest = some r)
    ∧ t.hart.vl = s.hart.vl ∧ t.hart.vtype = s.hart.vtype ∧ t.hart.vstart = s.hart.vstart ∧ t.hart.ecarry = s.hart.ecarry
    ∧ t.hart.mstart = s.hart.mstart
    ∧ (∀ c, s.hart.held = some c → t.hart.held = some c ∧ (front = [] → t.hart.vq = s.hart.vq))
    ∧ (s.hart.held = none → t.hart.vq = [] ∧ ∃ c, t.hart.held = some c ∧ c.queue = front ++ s.hart.vq ∧ c.replies = s.hart.replies
        ∧ c.loops = s.hart.loops ∧ c.lend = s.hart.lend ∧ c.inDeleg = s.hart.inDeleg ∧ t.hart.inDeleg = false
        ∧ (∀ q qs, front ++ s.hart.vq = q :: qs → c.vpc = q.pc)
        ∧ (∀ k : Fin 4, s.hart.streams[k].state = .running → k ∈ c.running ∧ t.hart.streams[k].state = .opened))

/-- At U inside a delegated handler TRET continues at UTPC, leaves the handler and changes nothing else. At U otherwise,
with no refresh of the hart pending, no failure recorded and the vector queue empty, it continues at EXITV at
privilege S in the same world with every lane group released, the X registers, IE and the S-level trap registers as
they are. At S or M, when the recorded world is the current one, no FSAVE or FRSTR is queued (for one it waits, log
entry 48) and no restored frame waits for its grant, it sets IE to PIE and PRIV to PPRIV, resumes the held context
if one exists, and continues at TPC; X registers and memory do not change. (That a recorded privilege of 2, to which
R377 gives no meaning, returns to M is the model's choice, log entry 49.) (07_isa_scalar.md R174,
20_faults_execution.md R379, 20_faults_execution.md R383) -/
def Obligations.TretReturnsOrEndsTheTask : Prop :=
  ∀ (s : State),
    let h := s.hart
    let r := trapRegs h.priv h
    (h.priv = .u → h.inDeleg = true → Completes .tret s fun t =>
      t.hart.pc.toNat = h.utpc.toNat / 4 * 4 ∧ t.hart.inDeleg = false ∧ hstat t.hart = hstat h ∧ t.hart.x = h.x
      ∧ t.hart.vq = h.vq ∧ t.hart.sTrap = h.sTrap ∧ t.mem = s.mem)
    ∧ (h.priv = .u → h.inDeleg = false → (∀ a ∈ s.core.accs, a.hart ≠ h.id) → (∀ d : Fin 16, h.crerr[d] = 0) → h.vq = [] →
      Completes .tret s fun t =>
        t.hart.pc.toNat = h.exitv.toNat / 4 * 4 ∧ t.hart.priv = .s ∧ t.hart.world = h.world ∧ t.hart.ie = h.ie
        ∧ t.hart.x = h.x ∧ t.hart.sTrap = h.sTrap ∧ t.hart.mTrap = h.mTrap ∧ t.hart.groups = 0 ∧ t.hart.lanes = 0
        ∧ t.hart.held = h.held ∧ t.core.matrix.owner ≠ some h.id ∧ t.mem = s.mem)
    ∧ (h.priv ≠ .u → framesQueued h = false → bitsOf r.tcause.toNat 31 24 = h.world.val → (∀ c, h.held = some c → c.regrant = none) →
      Completes .tret s fun t =>
        t.hart.pc = r.tpc ∧ t.hart.ie = r.tcause.getLsbD 17 ∧ t.hart.priv.code = (match bitsOf r.tcause.toNat 19 18 with
          | 0 => 0
          | 1 => 1
          | _ => 3)
        ∧ t.hart.world = h.world ∧ t.hart.x = h.x ∧ t.mem = s.mem ∧ t.hart.held = none
        ∧ (∀ c, h.held = some c → t.hart.vq = c.queue ∧ t.hart.replies = c.replies ∧ t.hart.loops = c.loops
            ∧ t.hart.lend = c.lend ∧ t.hart.inDeleg = c.inDeleg ∧ ∀ k ∈ c.running, t.hart.streams[k].state = .running))
    ∧ (h.priv ≠ .u → (∃ e ∈ h.vq, ∃ l a, (l, Instr.fsave a) ∈ e.members ∨ (l, Instr.frstr a) ∈ e.members) → exec .tret s = .next (wait s))

/-- At U each of WSW, REEF, FSAVE and FRSTR, and each CSR instruction that names a CSR from 0x001 to 0x007 or 0x0A0 to
0x0A6, has no effect but the precise trap of cause 0x02 with TVAL the instruction word. (20_faults_execution.md
R388, 20_faults_execution.md R386) -/
def Obligations.PrivilegedUsesTrapAtU : Prop :=
  ∀ (s : State) (d a : Fin 32) (c : Fin 4096), s.hart.priv = .u →
    let traps : Instr → Prop := fun i => exec i s = .next (raise { cause := 2, tval := Word.ofNat ((encode i).getD 0) } s)
    traps (.wsw a) ∧ traps (.reef a) ∧ traps (.fsave a) ∧ traps (.frstr a)
    ∧ ((1 ≤ c.val ∧ c.val ≤ 7) ∨ (0xA0 ≤ c.val ∧ c.val ≤ 0xA6) →
        traps (.csrr d c) ∧ traps (.csrw d a c) ∧ traps (.csrs d a c) ∧ traps (.csrc d a c))

/-- Where the CSR exists and the privilege may access it, no register named awaits a reply, and (for the vector CSRs) no
earlier vector convoy is queued, each CSR instruction completes: Xd becomes the CSR's old value; CSRW writes Xa,
CSRS the old value or Xa, CSRC the old value and not Xa; CSRR, and CSRS and CSRC with a = 0, write nothing. A CSR
number that does not exist raises cause 0x01 with reason 8. (07_isa_scalar.md R170, 06_encoding.md R154,
20_faults_execution.md R387) -/
def Obligations.CsrInstructionsReadAndWrite : Prop :=
  ∀ (s : State) (d a : Fin 32) (c : Fin 4096),
    let n := c.val
    let old := csrRead n s
    let A := rx a s
    (csrExists n = true → (csrSystem n = true → s.hart.priv ≠ .u) → (csrQueue n = true → s.hart.held = none → s.hart.vq = []) →
      (Settled s [d] → exec (.csrr d c) s = .next (retire (wx d old s)))
      ∧ (Settled s [d, a] → exec (.csrw d a c) s = .next (retire (wx d old (csrWrite n A s))))
      ∧ (Settled s [d, a] → exec (.csrs d a c) s = .next (retire (wx d old (if a = 0 then s else csrWrite n (old ||| A) s))))
      ∧ (Settled s [d, a] → exec (.csrc d a c) s = .next (retire (wx d old (if a = 0 then s else csrWrite n (old &&& ~~~A) s)))))
    ∧ (csrExists n = false → ∀ i ∈ [Instr.csrr d c, .csrw d a c, .csrs d a c, .csrc d a c],
        exec i s = .next (raise { cause := 1, tval := Word.ofNat ((encode i).getD 0 + 8 * 2 ^ 32) } s))

/-- At S or M: TVEC, TPC and EXITV keep bits [63:2]; TVAL and TSCRATCH keep all bits; TDELEG keeps bits 10 to 13, 19 and
26; UTVEC and UTPC keep bits [63:2], UTCAUSE [7:0], UTVAL all; VSTART keeps [17:0], ECARRY [31:0], MSTART [6:0],
APXCTL [7:0], APXERR and APXLR [31:0], APXRATE [15:0], CTHRESH [17:0] outside a constant-time world; PTBASE keeps
[59:0], EVHART bit 15 and [8:0]; HSTAT changes in IE alone. TCAUSE keeps its named fields (but a PPRIV of 2, or of 3
in S's copy, keeps the old PPRIV), VICTQ [59:12], ENGFLT [63:62] and [43:0], MEMERR all but [57:56]; LANEMAP keeps
all bits at M and changes at no other privilege; MVL is clamped to 1 to 128 (the model's reading, log entry 49)
while the hart holds the matrix claim and does not change otherwise; a field of CRERR is cleared by a 1 in it and
keeps its value otherwise. TVEC, TCAUSE, TVAL, TPC, TSCRATCH and MEMERR act on the copy of the current privilege
only. A write to a read-only CSR changes nothing. (06_encoding.md R154, 06_encoding.md R155, 06_encoding.md R156,
20_faults_execution.md R377, 02_execution.md R50, 03_numbers.md R79, 05_memory.md R124, 10_isa_matrix.md R239,
21_faults_cipher.md R407, 23_faults_memory.md R418, 23_faults_memory.md R420, 20_faults_execution.md R398) -/
def Obligations.CsrFieldsKeepTheirWidth : Prop :=
  ∀ (s : State) (x : Word), s.hart.priv ≠ .u →
    let back := fun n => csrRead n (csrWrite n x s)
    let other : Priv := if s.hart.priv = .m then .s else .m
    (∀ n ∈ [0x001, 0x004, 0x006, 0x008, 0x00B], back n = x &&& 0xFFFFFFFFFFFFFFFC)
    ∧ (∀ n ∈ [0x003, 0x005, 0x00A], back n = x) ∧ back 0x007 = x &&& 0x04083C00 ∧ back 0x009 = x &&& 0xFF
    ∧ back 0x012 = x &&& 0x3FFFF ∧ back 0x016 = x &&& 0xFFFFFFFF ∧ back 0x032 = x &&& 0x7F ∧ back 0x050 = x &&& 0xFF
    ∧ back 0x051 = x &&& 0xFFFFFFFF ∧ back 0x053 = x &&& 0xFFFFFFFF ∧ back 0x052 = x &&& 0xFFFF
    ∧ (s.hart.ct = false → back 0x015 = x &&& 0x3FFFF) ∧ back 0x0A0 = x &&& 0x0FFFFFFFFFFFFFFF ∧ back 0x0A4 = x &&& 0x81FF
    ∧ back 0x002 &&& 0xFF02F0FF = x &&& 0xFF02F0FF ∧ back 0x002 &&& 0xFFFFFFFF00F10F00 = csrRead 0x002 s &&& 0xFFFFFFFF00F10F00
    ∧ back 0x002 &&& 0xC0000 = (if bitsOf x.toNat 19 18 < 2 ∨ (bitsOf x.toNat 19 18 = 3 ∧ s.hart.priv = .m) then x else csrRead 0x002 s) &&& 0xC0000
    ∧ back 0x0A2 = x &&& 0x0FFFFFFFFFFFF000 ∧ back 0x0A5 = x &&& 0xC0000FFFFFFFFFFF ∧ back 0x0A6 = x &&& 0xFCFFFFFFFFFFFFFF
    ∧ (s.hart.priv = .m → back 0x017 = x) ∧ (s.hart.priv ≠ .m → csrWrite 0x017 x s = s)
    ∧ (s.core.matrix.owner = some s.hart.id → back 0x031 = Word.ofNat (max 1 (min 128 (x.toNat % 256))))
    ∧ (s.core.matrix.owner ≠ some s.hart.id → csrWrite 0x031 x s = s)
    ∧ (∀ d : Fin 16, bitsOf (back 0x04C).toNat (2 * d.val + 1) (2 * d.val) =
        if bitsOf x.toNat (2 * d.val + 1) (2 * d.val) = 0 then (s.hart.crerr[d]).val else 0) ∧ (back 0x04C).toNat < 2 ^ 32
    ∧ back 0x000 = ((hstat s.hart &&& ~~~8#64) ||| (x &&& 8#64))
    ∧ (∀ n ∈ [0x001, 0x002, 0x003, 0x004, 0x005, 0x0A6], trapRegs other (csrWrite n x s).hart = trapRegs other s.hart)
    ∧ (∀ n ∈ [0x010, 0x011, 0x013, 0x014, 0x018, 0x020, 0x021, 0x030, 0x040, 0x041, 0x042, 0x043, 0x048, 0x049, 0x04A, 0x04B,
              0x054, 0x060, 0x06F, 0x070, 0x072, 0x080, 0x081, 0x090, 0x091, 0x092, 0x093], csrWrite n x s = s)

/-- At S or M, with the vector queue empty and no refresh pending: WSW to the current world completes and changes
nothing else. WSW to another world that is world 0 or bound to an open context, with a place free in the shroud area
and no shroud of that world there, completes (X[a] is below 256): HSTAT.WORLD and CT are those of the new world; V,
M, ciphertext headers, key slots and modulus registers, VL, VSTART, ECARRY, MSTART and the loop counters read zero;
the shroud area holds a shroud of the outgoing world with their values; X registers, PRIV, IE, the trap registers
and memory do not change. The back-edge test is made in the outgoing world and the shroud stands in a place of its
own (both log entry 41). With bits [63:8] of X[a] not 0, which R176 forbids, WSW completes and switches nothing (R2,
log entry 20). (07_isa_scalar.md R176, 15_trust.md R344) -/
def Obligations.WorldSwitchSealsAndScrubs : Prop :=
  ∀ (s : State) (a : Fin 32), s.hart.priv ≠ .u → Settled s [a] → s.hart.vq = [] → (∀ x ∈ s.core.accs, x.hart ≠ s.hart.id) →
    let w := (rx a s).toNat
    -- a place of the shroud area that lies inside it and holds no shroud but the outgoing world's
    let free : Nat → Prop := fun p => p < 4 ∧ (4 * s.hart.id + p + 1) * 0x88100 ≤ s.dev.shroudArea
      ∧ ∀ k ∈ s.dev.shrouds, k.hart = s.hart.id → k.world ≠ s.hart.world.val → k.place ≠ p
    (w = s.hart.world.val → exec (.wsw a) s = .next (retire s))
    ∧ (256 ≤ w → exec (.wsw a) s = .next (retire s))
    ∧ (w < 256 → w ≠ s.hart.world.val → worldOk s w = true → (∃ p, free p) →
        (∀ k ∈ s.dev.shrouds, k.hart = s.hart.id → k.world ≠ w) →
        Completes (.wsw a) s fun t =>
          t.hart.world.val = w ∧ t.hart.ct = worldCt s w ∧ (∀ r : Fin 32, t.hart.v[r] = 0) ∧ (∀ r : Fin 8, t.hart.m[r] = 0)
          ∧ (∀ d : Fin 16, t.hart.chdr[d] = 0) ∧ (∀ j : Fin 4, t.hart.qm[j] = 0 ∧ t.hart.keys[j].bound = false)
          ∧ t.hart.vl = 0 ∧ t.hart.vstart = 0 ∧ t.hart.ecarry = 0 ∧ t.hart.mstart = 0 ∧ t.hart.loops = {}
          ∧ (∃ k ∈ t.dev.shrouds, k.hart = s.hart.id ∧ k.world = s.hart.world.val ∧ free k.place ∧ k.v = s.hart.v ∧ k.m = s.hart.m
              ∧ k.chdr = s.hart.chdr ∧ k.qm = s.hart.qm ∧ k.vl = s.hart.vl ∧ k.vstart = s.hart.vstart
              ∧ k.ecarry = s.hart.ecarry ∧ k.loops = (s.hart.loops.test s.hart.pc).2)
          ∧ t.hart.pc = (s.hart.loops.test s.hart.pc).1.getD (s.hart.pc + 4)
          ∧ t.hart.x = s.hart.x ∧ t.hart.priv = s.hart.priv ∧ t.hart.ie = s.hart.ie ∧ t.hart.sTrap = s.hart.sTrap
          ∧ t.hart.mTrap = s.hart.mTrap ∧ t.mem = s.mem)
    ∧ (w < 256 → w ≠ s.hart.world.val → worldOk s w = false → s.hart.switching = none →
        exec (.wsw a) s = .next (raise { cause := 0x0E, tval := Word.ofNat (w + 2 * 256) } s))

/-- TLBINV with ALL removes every cached translation, but with KEEPG those whose GLB is 1; with VPN it removes exactly
the translations whose page contains that address. PREQ sets the pending pre-emption of the hart it names exactly
where that hart is bound for the writer's partition, or is bound and the writer is at M, and of no other hart. VICTQ
sets the ring of the writer's die and restarts it at slot 0. A write of GGROUP with the group the die is in changes
nothing, and a write of another moves the die to that group. (05_memory.md R116, 20_faults_execution.md R393,
05_memory.md R124, 14_fabric.md R324) -/
def Obligations.SystemRegisterEvents : Prop :=
  ∀ (s : State) (keepg : Bool) (vpn : Nat) (n : Fin 512) (v : Word) (g : Fin 4096),
    Completes (.tlbinvAll keepg) s (fun t => ∀ e, e ∈ t.dev.tlb ↔ e ∈ s.dev.tlb ∧ keepg = true ∧ bitAt e.pte 5 = true)
    ∧ Completes (.tlbinvPage vpn) s (fun t => ∀ e, e ∈ t.dev.tlb ↔ e ∈ s.dev.tlb ∧ e.page % 2 ^ 57 / e.size ≠ vpn * 4096 / e.size)
    ∧ Completes (.preqWrite n) s (fun t => t.mem = s.mem ∧
        (∀ h ∈ t.hart :: t.harts, h.preq = true → (∃ k ∈ s.hart :: s.harts, k.id = h.id ∧ k.preq = true) ∨ h.id = n.val)
        ∧ ((∃ h ∈ s.hart :: s.harts, h.bound = true ∧ h.id = n.val ∧ (h.part = s.hart.part ∨ s.hart.priv = .m)) →
            ∀ h ∈ t.hart :: t.harts, h.id = n.val → h.preq = true)
        ∧ ((∀ h ∈ s.hart :: s.harts, h.id = n.val → h.bound = true → h.part ≠ s.hart.part ∧ s.hart.priv ≠ .m) → t = s))
    ∧ Completes (.victqWrite v) s (fun t => t.die.victq = v &&& 0x0FFFFFFFFFFFF000 ∧ t.die.victPos = 0 ∧ t.mem = s.mem
        ∧ t.hart = s.hart ∧ t.die.clock = s.die.clock)
    ∧ (g.val = s.die.clock.gid → exec (.ggroupWrite g) s = .next s)
    ∧ (g.val ≠ s.die.clock.gid → Completes (.ggroupWrite g) s fun t => t.die.clock.gid = g.val ∧ t.die.clock.members = []
        ∧ (t.die.clock.joining = if g.val = 0 then none else some g.val) ∧ t.hart = s.hart ∧ t.mem = s.mem)

/-- The pending pre-emption of a bound hart with IE 1 and no refresh pending is taken as cause 0x20 with TVAL 0 and TPC
the pc, and its request is cleared. The oldest event of a die whose EVHART is enabled and names the bound hart in
focus is, with IE 1, delivered as cause 0x21 for a clock group event and 0x22 for a link event with its record as
TVAL, bit 63 set where an event was dropped before, and leaves the queue. With IE 0 nothing happens.
(20_faults_execution.md R393, 20_faults_execution.md R394, 20_faults_execution.md R382) -/
def Obligations.AsynchronousCausesAreTaken : Prop :=
  ∀ (s : State),
    let h := s.hart
    (h.bound = true → h.ie = true → h.preq = true → (∀ a ∈ s.core.accs, a.hart ≠ h.id) →
      exec (.preemption h.id) s = .next (takeTrap { cause := 0x20, tval := 0 } h.pc [] (s.onHart fun h => { h with preq := false })))
    ∧ (h.ie = false → exec (.preemption h.id) s = .next s ∧ exec (.clockGroupEvent h.id) s = .next s
        ∧ exec (.linkEvent h.id) s = .next s)
    ∧ (∀ (link : Bool) (v : Word) (rest : List (Bool × Word)),
        h.bound = true → h.ie = true → s.die.id < 4 → (∀ d ≠ s.die.id, (dieAt d s).events = []) → s.die.evhart.getLsbD 15 = true → bitsOf s.die.evhart.toNat 8 0 = h.id →
        s.die.events = (link, v) :: rest →
        Completes (if link then .linkEvent h.id else .clockGroupEvent h.id) s fun t =>
          (∃ u, t = takeTrap { cause := if link then 0x22 else 0x21, tval := if s.die.dropped then v ||| (1#64 <<< 63) else v } h.pc [] u
            ∧ u = { s with die := u.die }) ∧ t.die.events = rest ∧ t.die.dropped = false)

/-- ECALL raises cause 0x18 at U and 0x19 at S and M. EBREAK raises cause 0x1A, which goes to the hart's own U handler
where TDELEG.EBRK is set at U outside a delegated handler with no held context; it then waits while vector convoys
are queued (R383: every earlier convoy has drained). Elsewhere it is taken as R380 takes a trap, and so is ECALL:
the queued vector convoys go into the held context, although R173 has them keep running (the model follows R380: log
entry 47). Both first complete, with the back-edge test; TPC is the address of the convoy that follows and TVAL the
address of the instruction. Delegated delivery writes UTCAUSE with the cause code alone, UTVAL and UTPC, sets the
delegated-handler state and continues at UTVEC; HSTAT, the trap registers of S and M, the queue, the replies, the
loops, X registers and memory do not change; what a PFX lent is gone. A precise trap is delivered so exactly when it
is raised at U outside a delegated handler and with no held context, TDELEG names it, it is delegable and no engine
or stream raised it. (07_isa_scalar.md R173, 20_faults_execution.md R380, 20_faults_execution.md R383,
06_encoding.md R156) -/
def Obligations.SoftwareTrapsAndDelegation : Prop :=
  (∀ (s : State),
      let t := retire s
      exec .ecall s = .next (takeTrap { cause := if s.hart.priv = .u then 0x18 else 0x19, tval := s.hart.pc } t.hart.pc [] t)
      ∧ (¬(s.hart.priv = .u ∧ s.hart.tdeleg.getLsbD 26 = true ∧ s.hart.inDeleg = false ∧ s.hart.held = none) →
          exec .ebreak s = .next (takeTrap { cause := 0x1A, tval := s.hart.pc } t.hart.pc [] t))
      ∧ (s.hart.priv = .u ∧ s.hart.tdeleg.getLsbD 26 = true ∧ s.hart.inDeleg = false ∧ s.hart.held = none → s.hart.vq = [] →
          Completes .ebreak s fun u =>
            u.hart.utcause = 0x1A ∧ u.hart.utval = s.hart.pc ∧ u.hart.utpc.toNat = t.hart.pc.toNat / 4 * 4
            ∧ u.hart.pc = s.hart.utvec ∧ u.hart.inDeleg = true)
      ∧ (s.hart.priv = .u ∧ s.hart.tdeleg.getLsbD 26 = true ∧ s.hart.inDeleg = false ∧ s.hart.held = none → s.hart.vq ≠ [] →
          exec .ebreak s = .next (wait s)))
  ∧ ∀ (s : State) (tr : Trap), tr.cause < 64 →
      let t := raise tr s
      (delegated s.hart tr = true ↔
        s.hart.priv = .u ∧ s.hart.inDeleg = false ∧ tr.engine = false ∧ s.hart.held = none
          ∧ s.hart.tdeleg.getLsbD tr.cause = true ∧ tr.cause ∈ [0x0A, 0x0B, 0x0C, 0x0D, 0x13, 0x1A])
      ∧ (delegated s.hart tr = false → t = takeTrap tr (convoyPc s.hart) [] (s.onHart dropLend))
      ∧ (delegated s.hart tr = true →
          t.hart.utcause = Word.ofNat tr.cause ∧ t.hart.utval = tr.tval ∧ t.hart.utpc.toNat = (convoyPc s.hart).toNat / 4 * 4
          ∧ t.hart.pc = s.hart.utvec ∧ t.hart.inDeleg = true ∧ hstat t.hart = hstat s.hart ∧ t.hart.sTrap = s.hart.sTrap
          ∧ t.hart.mTrap = s.hart.mTrap ∧ t.hart.vq = s.hart.vq ∧ t.hart.replies = s.hart.replies ∧ t.hart.held = none
          ∧ t.hart.loops = s.hart.loops ∧ t.hart.x = s.hart.x ∧ t.mem = s.mem)

/-- PARK with the wake latch set (or an interrupt or pre-emption pending while IE is 1) clears the latch and continues
at the following word. With the latch clear it waits: nothing of the hart changes but the marks that it is parked
and waits. The time-out of a parked hart sets the latch, and the wake of a parked hart whose latch is set clears it
and continues. FENCE.SV performs the accesses that were put off; alone it completes at once, behind queued convoys
it joins the queue, and with 16 of them, or behind a queued FSAVE or FRSTR, it waits. FENCE.VS, FENCE.VV and
FENCE.ALL complete when the vector queue is empty, every engine transfer the hart has issued is complete, every
query is answered and none of its streams runs; otherwise they wait. (That FENCE.VV holds up the scalar side, and
that queries count, is the model's choice, log entry 52.) No fence changes anything but the pc and the loop counters
by completing, whatever its scope. (07_isa_scalar.md R175, 07_isa_scalar.md R177, 07_isa_scalar.md R178) -/
def Obligations.ParkAndFencesWait : Prop :=
  (∀ (s : State),
      let h := s.hart
      let go := retire (s.onHart fun h => { h with latch := false, parked := false })
      let due' := h.latch = true ∨ (h.ie = true ∧ (h.preq = true ∨ (eventFor s h.id).isSome = true))
      (due' → exec .park s = .next go ∧ (h.parked = true → exec (.parkWake h.id) s = .next go))
      ∧ (¬due' → Completes .park s fun t => t.hart = { h with parked := true, yield := true } ∧ t.mem = s.mem)
      ∧ (h.parked = true → exec (.parkTimeout h.id) s = .next (s.onHart fun h => { h with latch := true })))
  ∧ ∀ (s : State) (sc : Fin 8),
      let done := s.hart.vq = [] ∧ s.hart.xfers = [] ∧ s.hart.queries = [] ∧ ∀ k : Fin 4, s.hart.streams[k].state ≠ .running
      let u := performBuffered s
      (Alone u → exec (.fenceSv sc) s = .next (retire (forget .vector u)))
      ∧ (u.hart.held = none → framesQueued u.hart = false → u.hart.lend = none → u.hart.replies.length ≤ 8 → u.hart.vq ≠ [] →
          (u.hart.vq.length < 16 → exec (.fenceSv sc) s = .next (retire (u.onHart fun h =>
            { h with vq := h.vq ++ [{ pc := h.pc, members := [(none, .fenceSv sc)], x := [] }] })))
          ∧ (16 ≤ u.hart.vq.length → exec (.fenceSv sc) s = .next (wait u)))
      ∧ (framesQueued u.hart = true → exec (.fenceSv sc) s = .next (wait u))
      ∧ (done → ∀ i ∈ [Instr.fenceVs sc, .fenceVv sc, .fenceAll sc], exec i s = .next (retire s))
      ∧ (¬done → ∀ i ∈ [Instr.fenceVs sc, .fenceVv sc, .fenceAll sc], exec i s = .next (wait s))

/-- In a quiet state each instruction of major 0x23, with a V or a broadcast X operand, completes: every active element
from VSTART up to VL of Vd, and of the register a PFX lends, becomes f(A, B) modulo 2^W; every other element, every
other V register, the masks, X registers, memory and the rest are unchanged; a payload register written loses the
KIND of its header; VSTART is 0. (08_isa_vector.md R185, 08_isa_vector.md R179, 08_isa_vector.md R181,
02_execution.md R33, 03_numbers.md R60) -/
def Obligations.VectorIntegerResults : Prop :=
  ∀ (s : State) (e sc : Bool) (d a b : Fin 32) (p : Fin 8), Quiet s →
    let w := elemW s.hart.vtype
    let A := fun i => elemAt s.hart a w i
    let B := fun i => if sc then (rx b s).toNat % 2 ^ w else elemAt s.hart b w i
    let S := sextN w
    let sat := fun x : Int => max (-((2 ^ (w - 1) : Nat) : Int)) (min (((2 ^ (w - 1) : Nat) : Int) - 1) x)
    let runs : Instr → (Nat → Nat) → Prop := fun i f =>
      Completes i s fun t => VectorOnly (d :: (lentCopy s.hart.lend).toList) [] s t
        ∧ ElementsWritten w (computes s.hart p) d f s t
    runs (.vadd e d a b p sc) (fun i => A i + B i)
    ∧ runs (.vsub e d a b p sc) (fun i => wrapN w ((A i : Int) - B i))
    ∧ runs (.vrsub e d a b p sc) (fun i => wrapN w ((B i : Int) - A i))
    ∧ runs (.vmul e d a b p sc) (fun i => A i * B i)
    ∧ runs (.vmulh e d a b p sc) (fun i => wrapN w (S (A i) * S (B i) / (2 ^ w : Nat)))
    ∧ runs (.vmulhu e d a b p sc) (fun i => A i * B i / 2 ^ w)
    ∧ runs (.vand e d a b p sc) (fun i => A i &&& B i) ∧ runs (.vor e d a b p sc) (fun i => A i ||| B i)
    ∧ runs (.vxor e d a b p sc) (fun i => A i ^^^ B i)
    ∧ runs (.vsll e d a b p sc) (fun i => A i * 2 ^ (B i % 64)) ∧ runs (.vsrl e d a b p sc) (fun i => A i / 2 ^ (B i % 64))
    ∧ runs (.vsra e d a b p sc) (fun i => wrapN w (S (A i) / (2 ^ (B i % 64) : Nat)))
    ∧ runs (.vmin e d a b p sc) (fun i => wrapN w (min (S (A i)) (S (B i))))
    ∧ runs (.vmax e d a b p sc) (fun i => wrapN w (max (S (A i)) (S (B i))))
    ∧ runs (.vminu e d a b p sc) (fun i => min (A i) (B i)) ∧ runs (.vmaxu e d a b p sc) (fun i => max (A i) (B i))
    ∧ runs (.vsadd e d a b p sc) (fun i => wrapN w (sat (S (A i) + S (B i))))
    ∧ runs (.vssub e d a b p sc) (fun i => wrapN w (sat (S (A i) - S (B i))))
    ∧ runs (.vsaddu e d a b p sc) (fun i => min (2 ^ w - 1) (A i + B i))
    ∧ runs (.vssubu e d a b p sc) (fun i => A i - B i)
    ∧ runs (.vmerge e d a b p sc) (fun i => if (s.hart.m[0]).testBit i then B i else A i)
    ∧ runs (.vmv e d b p sc) B ∧ runs (.vid e d p) (fun i => i)
    ∧ runs (.vsplat e d b p) (fun _ => (rx b s).toNat)

/-- In a quiet state the integer compares, and with SEW 32 and W 0 the FP32 compares, set bit i of Md for every active
element from VSTART up to VL to the condition of R186 or R187 on A and B, and VMAND, VMOR, VMXOR and VMNOT to the
bitwise result of R191; every other mask bit, the V registers, X registers, memory and the rest are unchanged.
(08_isa_vector.md R186, 08_isa_vector.md R187, 08_isa_vector.md R191, 08_isa_vector.md R180) -/
def Obligations.VectorComparesWriteMasks : Prop :=
  ∀ (s : State) (e sc : Bool) (a b : Fin 32) (d ma mb p : Fin 8), Quiet s →
    let w := elemW s.hart.vtype
    let A := fun i => elemAt s.hart a w i
    let B := fun i => if sc then (rx b s).toNat % 2 ^ w else elemAt s.hart b w i
    let S := sextN w
    let M := fun (r : Fin 8) i => (s.hart.m[r]).testBit i
    let runs : Instr → (Nat → Bool) → Prop := fun i f =>
      Completes i s fun t => VectorOnly (lentCopy s.hart.lend).toList [] s t ∧ MaskWritten p d f s t
    let F : Nat → F32 := fun i => BitVec.ofNat 32 (A i)
    let G : Nat → F32 := fun i => BitVec.ofNat 32 (B i)
    runs (.vcmpeq e d a b p sc) (fun i => decide (A i = B i)) ∧ runs (.vcmpne e d a b p sc) (fun i => decide (A i ≠ B i))
    ∧ runs (.vcmplt e d a b p sc) (fun i => decide (S (A i) < S (B i)))
    ∧ runs (.vcmpltu e d a b p sc) (fun i => decide (A i < B i))
    ∧ runs (.vcmple e d a b p sc) (fun i => decide (S (A i) ≤ S (B i)))
    ∧ runs (.vcmpleu e d a b p sc) (fun i => decide (A i ≤ B i))
    ∧ (bitsOf s.hart.vtype.toNat 6 0 = 2 →
        runs (.vfcmpeq e d a b p sc) (fun i => feq (F i) (G i)) ∧ runs (.vfcmplt e d a b p sc) (fun i => flt (F i) (G i))
        ∧ runs (.vfcmple e d a b p sc) (fun i => fle (F i) (G i)))
    ∧ runs (.vmand e d ma mb p) (fun i => M ma i && M mb i) ∧ runs (.vmor e d ma mb p) (fun i => M ma i || M mb i)
    ∧ runs (.vmxor e d ma mb p) (fun i => M ma i != M mb i) ∧ runs (.vmnot e d ma p) (fun i => !M ma i)

/-- In a quiet state with SEW 32 and W 0 each of VFADD, VFSUB, VFMUL, VFMA, VFMIN, VFMAX, VFCVTIF and VFCVTFI completes
and writes its FP32 result in every active element from VSTART up to VL of Vd, and of the register a PFX lends, and
changes no other element. Under another VTYPE each of them raises cause 0x01 on the vector side with reason 2.
(08_isa_vector.md R187, 03_numbers.md R67, 03_numbers.md R66, 20_faults_execution.md R387) -/
def Obligations.VectorFloatResults : Prop :=
  ∀ (s : State) (e sc : Bool) (d a b : Fin 32) (p : Fin 8), Quiet s →
    let at' : Fin 32 → Nat → F32 := fun r i => BitVec.ofNat 32 (elemAt s.hart r 32 i)
    let A := at' a
    let D := at' d
    let B : Nat → F32 := fun i => if sc then (rx b s).truncate 32 else at' b i
    let i32 : Int → Int := fun x => max (-2147483648) (min 2147483647 x)
    let ops : List (Instr × (Nat → F32)) :=
      [(.vfadd e d a b p sc, fun i => fadd (A i) (B i)), (.vfsub e d a b p sc, fun i => fsub (A i) (B i)),
       (.vfmul e d a b p sc, fun i => fmul (A i) (B i)), (.vfma e d a b p sc, fun i => ffma (A i) (B i) (D i)),
       (.vfmin e d a b p sc, fun i => fmin (A i) (B i)), (.vfmax e d a b p sc, fun i => fmax (A i) (B i)),
       (.vfcvtif e d a p, fun i => fOfInt (A i).toInt), (.vfcvtfi e d a p, fun i => BitVec.ofInt 32 (fToInt i32 (A i)))]
    (bitsOf s.hart.vtype.toNat 6 0 = 2 → ∀ o ∈ ops, Completes o.1 s fun t =>
      VectorOnly (d :: (lentCopy s.hart.lend).toList) [] s t
        ∧ ElementsWritten 32 (computes s.hart p) d (fun i => (o.2 i).toNat) s t)
    ∧ (bitsOf s.hart.vtype.toNat 6 0 ≠ 2 → ∀ o ∈ ops, Completes o.1 s fun t =>
        let r := trapRegs t.hart.priv t.hart
        bitsOf r.tcause.toNat 7 0 = 1 ∧ bitsOf r.tcause.toNat 15 15 = 1 ∧ bitsOf r.tval.toNat 39 32 = 2
          ∧ t.hart.v = s.hart.v ∧ t.hart.m = s.hart.m ∧ t.mem = s.mem)

/-- The sum, difference, product and x y + z of finite operands are the pattern nearest the exact result, an infinity
counting as 2^128, the even one of two as near, with the sign of the exact result; an exact zero is -0 only as a
product of unlike signs or a sum of two -0. A NaN operand, the sum of infinities of opposite sign and the product of
a zero and an infinity give the canonical NaN 0x7FC00000; an infinity and a finite number sum to the infinity; a
product with an infinity takes the sign of both; the sum of a finite number and its negative is +0 and that of two
-0 is -0; x times 1 and x plus 0 give x for x not a NaN (and not -0 in the sum); VFMIN and VFMAX with one NaN give
the other operand, with two the canonical NaN, and count -0 below +0; every comparison with a NaN is false and the
zeros are equal. (03_numbers.md R63, 03_numbers.md R64, 03_numbers.md R65) -/
def Obligations.FloatSpecialValues : Prop :=
  ∀ (x y z : F32),
    let nan : F32 := 0x7FC00000
    let inf : F32 := 0x7F800000
    let ninf : F32 := 0xFF800000
    let isNan : F32 → Prop := fun z => z.toNat % 2 ^ 31 > 0x7F800000
    let isInf : F32 → Prop := fun z => z.toNat % 2 ^ 31 = 0x7F800000
    let isZero : F32 → Prop := fun z => z.toNat % 2 ^ 31 = 0
    let sign : F32 → Bool := fun v => v.getLsbD 31
    -- the value of a pattern in units of 2^-149, an infinity counting as 2^128
    let val : F32 → Int := fun v =>
      let ex := bitsOf v.toNat 30 23
      let m : Nat := if ex = 0 then bitsOf v.toNat 22 0 else (bitsOf v.toNat 22 0 + 2 ^ 23) * 2 ^ (ex - 1)
      if sign v then -(m : Int) else m
    -- the exact result, in units of 2^-298, rounded to nearest, ties to even; `neg`: the sign of an exact zero
    let rounds : F32 → Int → Bool → Prop := fun r ex neg =>
      let far : F32 → Nat := fun v => (ex - val v * 2 ^ 149).natAbs
      ¬isNan r ∧ sign r = (if ex = 0 then neg else decide (ex < 0))
        ∧ ∀ v, ¬isNan v → far r ≤ far v ∧ (far r = far v → val v ≠ val r → r.getLsbD 0 = false)
    let finite : F32 → Prop := fun v => v.toNat % 2 ^ 31 < 0x7F800000
    (finite x → finite y →
      rounds (fadd x y) ((val x + val y) * 2 ^ 149) (sign x && sign y) ∧ rounds (fsub x y) ((val x - val y) * 2 ^ 149) (sign x && !sign y)
      ∧ rounds (fmul x y) (val x * val y) (sign x != sign y)
      ∧ (finite z → rounds (ffma x y z) (val x * val y + val z * 2 ^ 149) ((sign x != sign y) && sign z)))
    ∧ ffma x y 0x7FC00000 = nan ∧ (isNan x ∨ isNan y → ffma x y z = nan) ∧
    (isNan x ∨ isNan y → fadd x y = nan ∧ fsub x y = nan ∧ fmul x y = nan ∧ feq x y = false ∧ flt x y = false ∧ fle x y = false)
    ∧ fadd inf ninf = nan ∧ fsub inf inf = nan ∧ (isZero x → isInf y → fmul x y = nan ∧ fmul y x = nan)
    ∧ (¬isNan x → ¬isInf x → fadd x inf = inf ∧ fadd x ninf = ninf ∧ fsub x inf = ninf)
    ∧ (¬isNan x → ¬isZero x → fmul x inf = (if x.getLsbD 31 then ninf else inf))
    ∧ (¬isNan x → ¬isInf x → fsub x x = 0) ∧ fadd 0x80000000 0x80000000 = 0x80000000
    ∧ (¬isNan x → fmul x 0x3F800000 = x) ∧ (¬isNan x → x ≠ 0x80000000 → fadd x 0 = x)
    ∧ (isNan x → ¬isNan y → fmin x y = y ∧ fmin y x = y ∧ fmax x y = y ∧ fmax y x = y)
    ∧ (isNan x → isNan y → fmin x y = nan ∧ fmax x y = nan)
    ∧ fmin 0 0x80000000 = 0x80000000 ∧ fmin 0x80000000 0 = 0x80000000 ∧ fmax 0 0x80000000 = 0 ∧ fmax 0x80000000 0 = 0
    ∧ (isZero x → isZero y → feq x y = true ∧ flt x y = false ∧ fle x y = true)

/-- In a quiet state with VTYPE.W from 1 to 16, and a destination that is neither source: VNARROW processes the active
elements from VSTART up to VL that have an FP32 word, in order, each from the residual its predecessor left,
starting from ECARRY read as R78 says, writes the w-bit result in each, and leaves the last residual in ECARRY
(ECARRY is unchanged where VSTART is not below VL); VWIDEN writes each element's value under its scale code, rounded
to FP32; VSCALE writes the E8M0 code of R194 in the byte of every block that holds an active element below VL. No
other bit of a V register changes. (Where the lent copy is a source, that the sources are read as they stood is log
entry 53.) (03_numbers.md R78, 03_numbers.md R79, 08_isa_vector.md R193, 08_isa_vector.md R194, 08_isa_vector.md
R195, 08_isa_vector.md R196) -/
def Obligations.NarrowConversions : Prop :=
  ∀ (s : State) (e : Bool) (d a b : Fin 32) (p : Fin 8), Quiet s →
    1 ≤ narrowW s.hart.vtype → narrowW s.hart.vtype ≤ 16 →
    let h := s.hart
    let w := narrowW h.vtype
    let sgn := nsgn h.vtype
    let X : Nat → F32 := fun i => BitVec.ofNat 32 (elemAt h a 32 i)
    let code : Nat → Nat := fun i => elemAt h b 8 (i / 32)
    let on : Nat → Bool := fun i => computes h p i && decide (i < vlmaxr h)
    let ds := d :: (lentCopy h.lend).toList
    let same : State → State := fun t => t.onHart fun k => { k with ecarry := h.ecarry }
    let block : Nat → List F32 := fun k =>
      ((indices (32 * k) (min (32 * k + 32) h.vl)).filter fun i => active h p h.lend i && decide (i < vlmaxr h)).map fun i => fabs (X i)
    (d ≠ a → d ≠ b → Completes (.vnarrow e d a b p) s fun t => ∃ (res : Nat → F32) (y : Nat → Int),
      res h.vstart = residIn h.ecarry
      ∧ (∀ i, h.vstart ≤ i → i < h.vl → if on i then (y i, res (i + 1)) = narrowStep sgn w (X i) (code i) (res i) else res (i + 1) = res i)
      ∧ ElementsWritten w on d (fun i => wrapN w (y i)) s t
      ∧ t.hart.ecarry = (if h.vstart < h.vl then res h.vl else h.ecarry) ∧ VectorOnly ds [] s (same t))
    ∧ (d ≠ a → d ≠ b → Completes (.vwiden e d a b p) s fun t =>
        ElementsWritten 32 on d (fun i => (scaleInt (if sgn then sextN w (elemAt h a w i) else (elemAt h a w i : Int)) (code i)).toNat) s t
        ∧ VectorOnly ds [] s t)
    ∧ (d ≠ a → Completes (.vscale e d a p) s fun t =>
        ElementsWritten 8 (fun k => decide (h.vstart < h.vl) && decide (h.vstart / 32 ≤ k) && decide (32 * k < h.vl) && !(block k).isEmpty) d
          (fun k => if (block k).any F32.isNan then 0xFF
            else scaleCode ((block k).tail.foldl fmax ((block k).headD 0)) (if sgn then 2 ^ (w - 1) - 1 else 2 ^ w - 1)) s t
        ∧ VectorOnly ds [] s t)

/-- In a quiet state with VSTART below VL: VSLIDEUP, VSLIDEDN and VSHUF write every active element below VL as R188
says, VSLIDEUP only from element k up; VCOMPRESS writes positions 0 to c - 1 with the selected elements in order and
VEXPAND the selected positions with the elements of Va in order, c being the number selected; a reduction writes
element 0 of Vd with the fold of its operation over the active elements, from element 0 of Vb, whether or not
element 0 is active. The lent copy receives the same positions; nothing else of the V registers changes. With VSTART
not below VL none of them writes anything. (08_isa_vector.md R182, 08_isa_vector.md R188, 08_isa_vector.md R189,
08_isa_vector.md R190) -/
def Obligations.PermutationsAndReductions : Prop :=
  ∀ (s : State) (e : Bool) (d a b : Fin 32) (m p : Fin 8), Quiet s →
    let h := s.hart
    let w := elemW h.vtype
    let A := fun i => elemAt h a w i
    let B := fun i => elemAt h b w i
    let k := (rx b s).toNat
    let act := active h p h.lend
    let sel := (List.range h.vl).filter fun i => act i && (h.m[m]).testBit i
    let S := sextN w
    let runs : Instr → (Nat → Bool) → (Nat → Nat) → Prop := fun i on f =>
      Completes i s fun t => VectorOnly (d :: (lentCopy h.lend).toList) [] s t
        ∧ ElementsWritten w (fun j => on j && decide (h.vstart < h.vl)) d f s t
    let fold : (Nat → Nat → Nat) → Nat := fun f => ((List.range h.vl).filter act).foldl (fun acc i => f acc (A i)) (B 0)
    let first : Nat → Bool := fun j => j == 0
    runs (.vslideup e d a b p) (fun i => act i && decide (k ≤ i)) (fun i => A (i - k))
    ∧ runs (.vslidedn e d a b p) act (fun i => if i + k < h.vl then A (i + k) else 0)
    ∧ runs (.vshuf e d a b p) act (fun i => if B i < h.vl then A (B i) else 0)
    ∧ runs (.vcompress e d a m p) (fun j => decide (j < sel.length)) (fun j => A (sel.getD j 0))
    ∧ runs (.vexpand e d a m p) (fun j => sel.contains j) (fun j => A (sel.idxOf j))
    ∧ runs (.vredsum e d a b p) first (fun _ => fold (· + ·))
    ∧ runs (.vredmax e d a b p) first (fun _ => fold fun x y => wrapN w (max (S x) (S y)))
    ∧ runs (.vredmin e d a b p) first (fun _ => fold fun x y => wrapN w (min (S x) (S y)))
    ∧ runs (.vredand e d a b p) first (fun _ => fold (· &&& ·)) ∧ runs (.vredor e d a b p) first (fun _ => fold (· ||| ·))

/-- In a quiet state VMFIRST replies the least active element below VL whose mask bit is 1, or VL if there is none;
VMPOPC the number of such elements; VMVXS element X[b] of Va, extended from its width (zero-extended for an unsigned
narrow element), or 0 where X[b] is not below VL. The reply is made over elements 0 to VL - 1 whatever VSTART holds;
with d = 0 it is discarded; V registers, masks, memory and the other X registers are unchanged. (08_isa_vector.md
R191, 08_isa_vector.md R192, 02_execution.md R33, 02_execution.md R38) -/
def Obligations.VectorRepliesReachX : Prop :=
  ∀ (s : State) (e : Bool) (d a b : Fin 32) (m p : Fin 8), Quiet s →
    let h := s.hart
    let w := elemW h.vtype
    let j := (rx b s).toNat
    let on : Nat → Bool := fun i => active h p h.lend i && (h.m[m]).testBit i
    let replies : Instr → (Word → Prop) → Prop := fun i P => Completes i s fun t =>
      VectorOnly (lentCopy h.lend).toList [d] s t ∧ t.hart.v = h.v ∧ t.hart.m = h.m ∧ ∃ v, P v ∧ rx d t = if d = 0 then 0 else v
    replies (.vmfirst e d m p) (fun v => v.toNat ≤ h.vl ∧ (∀ i < v.toNat, on i = false) ∧ (v.toNat < h.vl → on v.toNat = true))
    ∧ replies (.vmpopc e d m p) (fun v => v = Word.ofNat ((List.range h.vl).countP on))
    ∧ replies (.vmvxs e d a b) (fun v => v = if j < h.vl then
        (if narrowW h.vtype ≠ 0 ∧ nsgn h.vtype = false then Word.ofNat (elemAt h a w j) else Word.ofInt (sextN w (elemAt h a w j))) else 0)

/-- In a quiet state with SEW 32 and W 0, q being the modulus register named, or 2^32 where it reads 0: VMADD, VMSUB,
VMMUL, VMMAC, VMNEG and VMRED write (A + B), (A - B), A B, (Vd + A B), -A and A modulo q in every active element
from VSTART up to VL; VDECOMP and VMSWITCH write the gadget digit and the rescaled residue that the control word
asks for; VBFLY and VIBFLY, with two registers, write u + w v and u - w v, and u + v and (u - v) w, modulo q;
VNEGROT and VAUTO, with a destination that is not the source, write in each whole block of N elements the
coefficient X^r and X -> X^g bring there, with its sign, modulo q (where the lent copy is Va, of Va as it stood: log
entry 71). No other element changes. (09_isa_cipher.md R205, 09_isa_cipher.md R206, 09_isa_cipher.md R208,
09_isa_cipher.md R210, 09_isa_cipher.md R211, 09_isa_cipher.md R207) -/
def Obligations.ModularResults : Prop :=
  ∀ (s : State) (e : Bool) (d a b : Fin 32) (p : Fin 8) (q : Fin 4), Quiet s → bitsOf s.hart.vtype.toNat 6 0 = 2 →
    (s.hart.qm[q] = 0 ∨ (2 ≤ s.hart.qm[q] ∧ s.hart.qm[q] < 2 ^ 32)) →
    let h := s.hart
    let Q := if h.qm[q] = 0 then 2 ^ 32 else h.qm[q]
    let A := fun i => elemAt h a 32 i
    let B := fun i => elemAt h b 32 i
    let D := fun i => elemAt h d 32 i
    let x := rx b s
    let N := 2 ^ bitsOf x.toNat 19 16
    let digit := bitsOf x.toNat 10 8
    let ell := bitsOf x.toNat 14 12 + 1
    let on := computes h p
    let ds := d :: (lentCopy h.lend).toList
    let md : Int → Nat := fun z => (z % (Q : Int)).toNat
    let runs : Instr → (Nat → Nat) → Prop := fun i f =>
      Completes i s fun t => VectorOnly ds [] s t ∧ ElementsWritten 32 on d f s t
    let fly : Instr → (Nat → Int) → (Nat → Int) → Prop := fun i f g => Completes i s fun t =>
      VectorOnly (d :: a :: (lentCopy h.lend).toList) [] s t ∧ t.hart.m = h.m ∧ ∀ (r : Fin 32) (i : Nat), elemAt t.hart r 32 i =
        if on i = true ∧ r = a then md (g i) else if on i = true ∧ (r = d ∨ lentCopy h.lend = some r) then md (f i) else elemAt h r 32 i
    let poly : Instr → (Nat → Nat → Prop) → Prop := fun i from' => Completes i s fun t =>
      VectorOnly ds [] s t ∧ ∃ src : Nat → Nat, (∀ j < N, src j < 2 * N ∧ from' j (src j)) ∧
        ElementsWritten 32 (fun i => on i && decide (i < N * (h.vl / N))) d (fun i =>
          let j := src (i % N)
          if j < N then A (N * (i / N) + j) % Q else md (-(A (N * (i / N) + (j - N)) : Int))) s t
    runs (.vmadd e d a b p q) (fun i => (A i + B i) % Q) ∧ runs (.vmsub e d a b p q) (fun i => md ((A i : Int) - B i))
    ∧ runs (.vmmul e d a b p q) (fun i => A i * B i % Q) ∧ runs (.vmmac e d a b p q) (fun i => (D i + A i * B i) % Q)
    ∧ runs (.vmneg e d a p q) (fun i => md (-(A i : Int))) ∧ runs (.vmred e d a p q) (fun i => A i % Q)
    ∧ runs (.vdecomp e d a b p q) (fun i =>
        if digit < ell then md (gadgetDigit Q (A i % Q) (max 1 (min 16 (bitsOf x.toNat 4 0))) ell digit) else 0)
    ∧ runs (.vmswitch e d a b p q) (fun i =>
        let m := bitsOf x.toNat 31 0
        if m < 2 then 0 else (m * (A i % Q) + Q / 2) / Q % m)
    ∧ (d ≠ a → lentCopy h.lend ≠ some a →
        fly (.vbfly e d a b p q) (fun i => D i + B i * A i) (fun i => D i - B i * A i)
        ∧ fly (.vibfly e d a b p q) (fun i => D i + A i) (fun i => ((D i : Int) - A i) * B i))
    ∧ (d ≠ a → poly (.vnegrot e d a b p q) fun j m => ∃ z : Int, (m : Int) = (j : Int) - (bitsOf x.toNat 13 0 : Nat) + z * (2 * N : Nat))
    ∧ (d ≠ a → poly (.vauto e d a b p q) fun j m =>
        ((bitsOf x.toNat 13 0 % (2 * N)) ||| 1) * m % (2 * N) = j % (2 * N))

/-- In a quiet state with no lent state, no retired lane, no group of the core held by another hart or being scrubbed
and no hart waiting for groups, SETVL completes: VTYPE is the image; the hart holds D = max(min(G, need), floor)
groups, need being the least number from 1 to 8 whose VLMAX reaches max(AVL, 1), or 8, and floor the least number
that holds the payload of every live ciphertext register; VL is min(AVL, VLMAX) over the lanes held, VSTART is 0 and
Xd becomes VL (discarded with d = 0). Words and mask bits below the kept capacity keep their values and the others
are zero. Memory and the other X registers are unchanged. (08_isa_vector.md R183, 02_execution.md R46,
02_execution.md R47, 02_execution.md R48) -/
def Obligations.SetvlSetsLengthAndReplies : Prop :=
  ∀ (s : State) (d a : Fin 32) (v : Fin 4096), Alone s → s.core.lanemap = 0 → s.core.scrubbing = 0 → s.hart.bound = true →
    coreOf s.hart.id = s.core.id → (∀ h ∈ s.harts, h.bound = true → coreOf h.id = s.core.id → h.groups = 0 ∧ h.groupWait = false) →
    s.hart.groupWait = false →
    let avl := (rx a s).toNat
    let ty := BitVec.ofNat 12 v.val
    let w := elemW ty
    let G := if v.val / 256 % 8 = 0 then 8 else v.val / 256 % 8
    let pw := livePwords s.hart
    let isLeast : Nat → (Nat → Prop) → Prop := fun n P => 1 ≤ n ∧ n ≤ 8 ∧ (P n ∨ n = 8) ∧ ∀ k, 1 ≤ k → k < n → ¬P k
    Completes (.setvl d a v) s fun t => ∃ need fl g : Nat,
      isLeast need (fun n => max avl 1 ≤ 8 * n * 2048 / w) ∧ (if pw = 0 then fl = 0 else isLeast fl (fun n => pw ≤ 64 * (8 * n)))
      ∧ g = max (min G need) fl ∧ popN 8 t.hart.groups.toNat = g ∧ laneCount t.hart.lanes = 8 * g
      ∧ t.hart.vtype = ty ∧ t.hart.vl = min avl (8 * g * 2048 / w) ∧ t.hart.vstart = 0
      ∧ rx d t = (if d = 0 then 0 else Word.ofNat t.hart.vl) ∧ SameXBut [d] s t ∧ t.mem = s.mem
      ∧ (t.hart.groups = s.hart.groups ∧ t.hart.lanes = s.hart.lanes ∧ t.hart.v = s.hart.v ∧ t.hart.m = s.hart.m
        ∨ (∀ r : Fin 32, t.hart.v[r] = s.hart.v[r] % 2 ^ (2048 * (8 * g))) ∧ (∀ r : Fin 8, t.hart.m[r] = s.hart.m[r] % 2 ^ (64 * (8 * g))))

/-- With no held context, no word of the mask below VL failing, fewer than 16 queued convoys, none of them an FSAVE or
FRSTR and none that writes the mask or can change VL: VBANY completes, continuing at its target where some bit of Ma
below VL is 1 and at the following word (with the back-edge test) where none is; VBNONE completes the other way
round; with VL = 0 VBANY is not taken and VBNONE is. VBRANCH_RESOLVE of a bound hart that has either at its pc
completes with the same decision. Nothing else changes. While 16 convoys are queued, or one of them writes the mask
or can change VL (a SETVL, a VLDFF member or a VFILL), each waits. (08_isa_vector.md R184, 02_execution.md R41,
02_execution.md R43) -/
def Obligations.MaskBranchesResolve : Prop :=
  ∀ (s : State) (m : Fin 8) (o : Fin 32768), s.hart.held = none → (∀ b ∈ s.hart.mbad, b.1 = m → s.hart.vl ≤ 32 * b.2) →
    let O : Int := if o.val < 16384 then o.val else (o.val : Int) - 32768
    let some' : Prop := ∃ i < s.hart.vl, (s.hart.m[m]).testBit i = true
    let goes : State → State := jump (Word.ofInt (s.hart.pc.toNat + 4 * O))
    (s.hart.vq.length < 16 → framesQueued s.hart = false → (∀ e ∈ s.hart.vq, holdsBranch m e = false) →
      (∃ t, exec (.vbany m o) s = .next t ∧ (some' → t = goes s) ∧ (¬some' → t = retire s))
      ∧ (∃ t, exec (.vbnone m o) s = .next t ∧ (some' → t = retire s) ∧ (¬some' → t = goes s))
      ∧ (∀ (want : Bool) (word n : Nat) (pfx : Option Instr) (u : State), s.hart.bound = true →
          frameConvoy s = .convoy [{ word := word, i := if want then .vbany m o else .vbnone m o, lend := none }] n pfx u → u.hart = s.hart →
          ∃ t, exec (.vbranchResolve s.hart.id) s = .next t ∧ ((some' ↔ want = true) → t = goes u) ∧ (¬(some' ↔ want = true) → t = retire u)))
    ∧ (16 ≤ s.hart.vq.length ∨ (∃ e ∈ s.hart.vq, holdsBranch m e = true) → exec (.vbany m o) s = .next (wait s) ∧ exec (.vbnone m o) s = .next (wait s))
    ∧ (∀ (q : QEntry) (l : Option Lend) (e sc : Bool) (d a b : Fin 32) (p : Fin 8) (v : Fin 4096),
        (∀ i ∈ [Instr.setvl d a v, .vldff e d a p sc, .vfill d a, .vcmpeq e m a b p sc, .vmnot e m p p],
          (l, i) ∈ q.members → holdsBranch m q = true))

/-- In a quiet state, memory serving the core-local window at once, with every computed element inside the scratchpad
window and aligned as its form asks: VLD and VLDFF load the elements of the unit-stride form (whole elements with W
0, else the bit stream of w-bit fields from bit 0 of the base), VLDB the bit stream that begins at bit X[b] mod 8,
VLDS element i at base + i X[b], VLDX at base plus offset i of Vb (word i under a narrow type), a narrow element of
the two being the low bits of an aligned halfword. VFILL takes VL and VTYPE from the header of its frame and Vd from
its data. Every other element and register, memory and the rest are unchanged. (08_isa_vector.md R197,
08_isa_vector.md R198, 08_isa_vector.md R200, 08_isa_vector.md R203, 03_numbers.md R69, 03_numbers.md R70,
05_memory.md R119, 05_memory.md R136) -/
def Obligations.VectorLoadsReadTheirElements : Prop :=
  ∀ (s : State) (e o : Bool) (d a b : Fin 32) (p : Fin 8), Quiet s → CalmMemory s →
    let h := s.hart
    let w := elemW h.vtype
    let W := narrowW h.vtype
    let base := rx a s
    let on := computes h p
    let read : Word → Nat → Nat := fun va n => peek (scratchAt s va) n s
    let byteOf : Nat → Nat → Nat → Word := fun from' w i => base + BitVec.ofNat 64 ((from' + i * w) / 8)
    let bytes : Nat → Nat → Nat → Nat := fun from' w i => ((from' + i * w) % 8 + w + 7) / 8
    let field : Nat → Nat → Nat → Nat := fun from' w i =>
      read (byteOf from' w i) (bytes from' w i) / 2 ^ ((from' + i * w) % 8) % 2 ^ w
    let inside : Nat → Prop := fun from' => ∀ i, on i = true → inScratch (byteOf from' w i) (bytes from' w i)
    let n := if W = 0 then w / 8 else 2
    let places : (Nat → Bool) → (Nat → Word) → Prop := fun sel at' =>
      ∀ i, sel i = true → inScratch (at' i) n ∧ (at' i).toNat % n = 0
    let gets : Instr → (Nat → Bool) → (Nat → Nat) → Prop := fun i sel f => Completes i s fun t =>
      VectorOnly (d :: (lentCopy h.lend).toList) [] s t ∧ ElementsWritten w sel d f s t
    let strided : Nat → Word := fun i => base + BitVec.ofNat 64 i * rx b s
    let indexed : Nat → Word := fun i => base + BitVec.ofNat 64 (elemAt h b (if W = 0 then w else 32) i)
    let onX : Nat → Bool := fun i => on i && (W == 0 || decide (i < vlmaxr h))
    let rvl := read base 8
    let rt := BitVec.ofNat 12 (read (base + 8) 8)
    let rw := elemW rt
    ((W = 0 → base.toNat % (w / 8) = 0) → inside 0 → gets (.vld e d a p o) on (field 0 w) ∧ gets (.vldff e d a p o) on (field 0 w))
    ∧ (inside ((rx b s).toNat % 8) → gets (.vldb e d a b p o) on (field ((rx b s).toNat % 8) w))
    ∧ (places on strided → gets (.vlds e d a b p o) on fun i => read (strided i) n)
    ∧ (places onX indexed → gets (.vldx e d a b p o) onX fun i => read (indexed i) n)
    ∧ (h.lend = none → h.vstart < h.vl → base.toNat % 64 = 0 → narrowW rt ≤ 16 → rvl ≤ laneCount h.lanes * 2048 / rw →
        inScratch base (64 + (rvl * rw + 7) / 8) → Completes (.vfill d a) s fun t =>
          t.hart.vl = rvl ∧ t.hart.vtype = rt
          ∧ VectorOnly [d] [] s (t.onHart fun k => { k with vl := h.vl, vtype := h.vtype })
          ∧ ElementsWritten rw (fun i => decide (h.vstart ≤ i) && decide (i < rvl)) d (fun i => field 512 rw i) s t)

/-- In a quiet state, memory serving the core-local window at once and in canonical form, with every computed element
inside the scratchpad window and aligned as its form asks: VST and VSTB write exactly the bits of the computed
elements in the bit stream that begins at bit 0, or bit X[b] mod 8, of the base; VSTS and VSTX write each computed
element at its own address (a narrow one as a halfword, extended by the sign rule), the highest element deciding
where two overlap; VSPILL writes VL, VTYPE and zeros to the header and the elements from VSTART on to the data, with
zeros in the rest of its last byte. Every other bit of memory, V registers, masks, X registers and the device are
unchanged. (08_isa_vector.md R197, 08_isa_vector.md R199, 08_isa_vector.md R203, 03_numbers.md R71, 05_memory.md
R119, 05_memory.md R136) -/
def Obligations.VectorStoresWriteTheirElements : Prop :=
  ∀ (s : State) (e o : Bool) (d a b : Fin 32) (p : Fin 8), Quiet s → CalmMemory s → s.Safe →
    let h := s.hart
    let w := elemW h.vtype
    let W := narrowW h.vtype
    let base := rx a s
    let on := computes h p
    let x : Nat → Nat := elemAt h d w
    let byteOf : Nat → Nat → Word := fun from' i => base + BitVec.ofNat 64 ((from' + i * w) / 8)
    let bytes : Nat → Nat → Nat := fun from' i => ((from' + i * w) % 8 + w + 7) / 8
    let inside : Nat → Prop := fun from' => ∀ i, on i = true → inScratch (byteOf from' i) (bytes from' i)
    let ends : Instr → (State → Prop) → Prop := fun i P => Completes i s fun t =>
      VectorHart (lentCopy h.lend).toList [] s t ∧ t.hart.v = h.v ∧ t.hart.m = h.m ∧ t.Safe ∧ t.dev = s.dev ∧ t.die = s.die ∧ P t
    let bit : State → Nat → Nat → Bool := fun t q j => (Memory.read t.mem (scratchAt s (base + BitVec.ofNat 64 q))).getLsbD j
    -- the bits of a stream that begins at bit `from'`, `new P` being what bit `P` from the base becomes
    let stream : (Nat → Option Bool) → State → Prop := fun new t =>
      (∀ q j, q < 2 ^ 21 → j < 8 → inScratch (base + BitVec.ofNat 64 q) 1 → bit t q j = (new (8 * q + j)).getD (bit s q j))
      ∧ ∀ key, (∀ q, q < 2 ^ 21 → inScratch (base + BitVec.ofNat 64 q) 1 → key ≠ scratchAt s (base + BitVec.ofNat 64 q)) →
          Memory.read t.mem key = Memory.read s.mem key
    let fields : Nat → Nat → Option Bool := fun from' P =>
      if from' ≤ P ∧ on ((P - from') / w) = true then some ((x ((P - from') / w)).testBit ((P - from') % w)) else none
    let n := if W = 0 then w / 8 else 2
    let val : Nat → Nat := fun i => if W ≠ 0 ∧ nsgn h.vtype = true then wrapN 16 (sextN w (x i)) else x i
    let each : (Nat → Bool) → (Nat → Word) → State → Prop := fun sel at' t =>
      (∀ key, (∀ i, sel i = true → key < scratchAt s (at' i) ∨ scratchAt s (at' i) + n ≤ key) →
        Memory.read t.mem key = Memory.read s.mem key)
      ∧ ∀ i, sel i = true → (∀ j, i < j → sel j = true → at' j ≠ at' i) → peek (scratchAt s (at' i)) n t = val i
    let places : (Nat → Bool) → (Nat → Word) → Prop := fun sel at' =>
      ∀ i, sel i = true → inScratch (at' i) n ∧ (at' i).toNat % n = 0
    let strided : Nat → Word := fun i => base + BitVec.ofNat 64 i * rx b s
    let indexed : Nat → Word := fun i => base + BitVec.ofNat 64 (elemAt h b (if W = 0 then w else 32) i)
    let onX : Nat → Bool := fun i => on i && (W == 0 || decide (i < vlmaxr h))
    ((W = 0 → base.toNat % (w / 8) = 0) → inside 0 → ends (.vst e d a p o) (stream (fields 0)))
    ∧ (inside ((rx b s).toNat % 8) → ends (.vstb e d a b p o) (stream (fields ((rx b s).toNat % 8))))
    ∧ (places on strided → ends (.vsts e d a b p o) (each on strided))
    ∧ (places onX indexed → ends (.vstx e d a b p o) (each onX indexed))
    ∧ (h.lend = none → h.vstart < h.vl → base.toNat % 64 = 0 → inScratch base (64 + (h.vl * w + 7) / 8) →
        ends (.vspill d a) (stream fun P =>
          let k := P - 512
          if P < 64 then some (h.vl.testBit P)
          else if P < 128 then some (h.vtype.toNat.testBit (P - 64))
          else if P < 512 then some false
          else if h.vstart * w ≤ k ∧ k < h.vl * w then some ((x (k / w)).testBit (k % w))
          else if h.vl * w ≤ k ∧ k < (h.vl * w + 7) / 8 * 8 then some false else none))

/-- In a quiet state with W 0 and SEW 32 or 64, every computed element's location X[a] + Vb[i] aligned and inside the
scratchpad: each element of a VAMOO, in ascending order, returns its location's value to Vd and the lent copy and
leaves op(old, Vd[i]) there, elements at one location each being applied once; a VAMO does the same where no two
elements share a location (elsewhere their order is free, log entry 8). Nothing else of memory changes. VWAIT
completes, with nothing changed, when the location of every active element compares as asked; where one does not,
the convoy stays queued. The event that completes a queued VWAIT, alone in the queue, does so on the same condition.
(11_isa_sync.md R257, 11_isa_sync.md R258, 11_isa_sync.md R260, 11_isa_sync.md R261, 05_memory.md R135) -/
def Obligations.VectorAtomicsReadAndWrite : Prop :=
  ∀ (s : State) (d a b : Fin 32) (p : Fin 8) (q l : Bool) (sc : Fin 4), Quiet s → CalmMemory s → s.Safe →
    narrowW s.hart.vtype = 0 → 2 ≤ s.hart.vtype.toNat % 4 →
    let h := s.hart
    let w := elemW h.vtype
    let n := w / 8
    let at' : Nat → Word := fun i => rx a s + BitVec.ofNat 64 (elemAt h b w i)
    let x : Nat → Nat := elemAt h d w
    let on := computes h p
    let S := sextN w
    let places : (Nat → Bool) → Prop := fun sel => ∀ i, sel i = true → inScratch (at' i) n ∧ (at' i).toNat % n = 0
    let does : (Nat → Word → Nat) → (Nat → Nat → Nat) → Prop := fun cell f =>
      (∀ va, cell 0 va = peek (scratchAt s va) n s)
      ∧ ∀ i va, cell (i + 1) va = if on i = true ∧ va = at' i then f (cell i va) (x i) % 2 ^ w else cell i va
    let runs : Instr → (Nat → Nat → Nat) → Prop := fun i f => Completes i s fun t => ∃ cell : Nat → Word → Nat,
      does cell f ∧ VectorHart (d :: (lentCopy h.lend).toList) [] s t ∧ ElementsWritten w on d (fun i => cell i (at' i)) s t
      ∧ t.Safe ∧ t.dev = s.dev ∧ (∀ i, on i = true → peek (scratchAt s (at' i)) n t = cell h.vl (at' i))
      ∧ ∀ key, (∀ i, on i = true → key < scratchAt s (at' i) ∨ scratchAt s (at' i) + n ≤ key) →
          Memory.read t.mem key = Memory.read s.mem key
    let apart := ∀ i j, on i = true → on j = true → i ≠ j → at' i ≠ at' j
    let act : Nat → Bool := fun i => active h p h.lend i
    let waits : Instr → (Nat → Nat → Bool) → Prop := fun i cmp =>
      let sat := ∀ j, act j = true → cmp (peek (scratchAt s (at' j)) n s) (x j) = true
      h.satisfied = [] → h.vstart < h.vl → places act →
        (sat → Completes i s fun t => VectorOnly (lentCopy h.lend).toList [] s t ∧ t.hart.v = h.v ∧ t.hart.m = h.m)
        ∧ (¬sat → Completes i s fun t => (∃ e, t.hart.vq = [e] ∧ e.members = [(h.lend, i)]) ∧ t.hart.v = h.v ∧ t.hart.m = h.m
            ∧ t.mem = s.mem ∧ t.hart.vstart = h.vstart)
        ∧ (∀ u : State, u = (s.onHart fun k => { k with vq := [{ pc := h.pc, members := [(none, i)], x := [(a.val, rx a s)] }] }) →
            h.lend = none → sat → Completes (.vwaitComplete h.id) u fun t =>
              t.hart.vq = [] ∧ t.hart.vstart = 0 ∧ t.hart.v = h.v ∧ t.hart.m = h.m ∧ t.hart.x = h.x ∧ t.hart.pc = h.pc ∧ t.mem = s.mem)
    (places on →
      runs (.vamooadd d a b p q l sc) (· + ·) ∧ runs (.vamooand d a b p q l sc) (· &&& ·)
      ∧ runs (.vamooor d a b p q l sc) (· ||| ·) ∧ runs (.vamooxor d a b p q l sc) (· ^^^ ·)
      ∧ runs (.vamoomin d a b p q l sc) (fun old x => if S old < S x then old else x)
      ∧ runs (.vamoomax d a b p q l sc) (fun old x => if S old > S x then old else x)
      ∧ runs (.vamoominu d a b p q l sc) (fun old x => if old < x then old else x)
      ∧ runs (.vamooswap d a b p q l sc) (fun _ x => x))
    ∧ (places on → apart →
      runs (.vamoadd d a b p q l sc) (· + ·) ∧ runs (.vamoand d a b p q l sc) (· &&& ·)
      ∧ runs (.vamoor d a b p q l sc) (· ||| ·) ∧ runs (.vamoxor d a b p q l sc) (· ^^^ ·)
      ∧ runs (.vamomin d a b p q l sc) (fun old x => if S old < S x then old else x)
      ∧ runs (.vamomax d a b p q l sc) (fun old x => if S old > S x then old else x)
      ∧ runs (.vamominu d a b p q l sc) (fun old x => if old < x then old else x)
      ∧ runs (.vamoswap d a b p q l sc) (fun _ x => x))
    ∧ waits (.vwaiteq d a b p sc) (fun v x => v == x) ∧ waits (.vwaitne d a b p sc) (fun v x => v != x)
    ∧ waits (.vwaitlt d a b p sc) (fun v x => decide (S v < S x)) ∧ waits (.vwaitltu d a b p sc) (fun v x => decide (v < x))
    ∧ waits (.vwaitge d a b p sc) (fun v x => decide (S x ≤ S v)) ∧ waits (.vwaitgeu d a b p sc) (fun v x => decide (x ≤ v))

/-- PFX and PFXN lend the predicate and copy destination they name to the following word and change nothing else but the
pc. VECTOR_CONVOY_START at a queue whose head is VSPLAT, captured with the value x, writes x in the active elements,
removes the head, and leaves the pc and X registers. REPLY_WRITE writes the values of the reply at the head of the
reply queue to its registers and sets the wake latch. LANE_GROUP_SCRUBBED makes a group grantable again.
LANE_GROUP_GRANT at a hart that waits for groups with SETVL at the head of its queue, every group now being free,
completes the SETVL. VECTOR_SIDE_FAULT of a cause that TDELEG delegates, with nothing queued behind the convoy at
the head, delivers it to the hart's U handler (log entry 47); otherwise it takes the trap of that convoy, with VSIDE
and, in TPC, the convoy that the scalar side has not issued (MEMERR: log entry 43). (02_execution.md R34,
02_execution.md R36, 02_execution.md R37, 02_execution.md R38, 02_execution.md R47, 02_execution.md R48,
20_faults_execution.md R381, 20_faults_execution.md R383) -/
def Obligations.PfxAndQueueEvents : Prop :=
  ∀ (s : State),
    let h := s.hart
    let id := h.id
    let idle := h.stopAt = none ∧ h.held = none ∧ h.binds = [] ∧ h.vbad = [] ∧ h.mbad = [] ∧ ∀ d : Fin 16, hdrKind h.chdr[d] ≠ 2 ∧ h.crerr[d] = 0
    (∀ (p : Fin 8) (d : Fin 32) (c : Bool) (neg : Bool),
      exec (if neg then .pfxn p d c else .pfx p d c) s = .next (s.onHart fun h =>
        { h with pc := h.pc + 4, lend := some { pm := p, neg := neg, dc := d, cen := c }, lendHeld := false }))
    ∧ (∀ (e : Bool) (d a : Fin 32) (p : Fin 8) (l : Option Lend) (pc x : Word) (rest : List QEntry), idle → h.vl ≤ 2 ^ 17 →
        h.vq = { pc := pc, members := [(l, .vsplat e d a p)], x := [(a.val, x)] } :: rest →
        Completes (.vectorConvoyStart id) s fun t =>
          t.hart.vq = rest ∧ t.hart.vstart = 0 ∧ t.hart.pc = h.pc ∧ t.hart.x = h.x ∧ t.mem = s.mem
          ∧ ElementsWritten (elemW h.vtype) (computes { h with lend := l } p) d (fun _ => x.toNat) (s.onHart fun k => { k with lend := l }) t)
    ∧ (∀ (r : Fin 32) (v : Word) (rest : List Reply), h.replies = { dests := [r], vals := some [v] } :: rest →
        Completes (.replyWrite id) s fun t =>
          t.hart.replies = rest ∧ t.hart.latch = true ∧ rx r t = (if r = 0 then 0 else v) ∧ SameXBut [r] s t ∧ t.hart.pc = h.pc
          ∧ t.hart.vq = h.vq ∧ t.mem = s.mem)
    ∧ (∀ g : Fin 8, s.core.scrubbing.getLsbD g = true →
        Completes (.laneGroupScrubbed s.core.id g) s fun t =>
          (∀ k : Fin 8, t.core.scrubbing.getLsbD k = (s.core.scrubbing.getLsbD k && k != g)) ∧ t.hart = h ∧ t.mem = s.mem
          ∧ ∀ k ∈ s.hart :: s.harts, k.bound = true → coreOf k.id = s.core.id → k.groupWait = true → .laneGroupGrant k.id ∈ t.agenda)
    ∧ (∀ (d a : Fin 32) (v : Fin 4096) (x : Word), idle → h.groupWait = true → h.bound = true → coreOf id = s.core.id → h.groups = 0 →
        h.lanes = 0 → livePwords h = 0 → (∀ k ∈ s.harts, k.bound = true → coreOf k.id = s.core.id → k.groups = 0 ∧ k.groupWait = false) →
        s.core.scrubbing = 0 → s.core.lanemap = 0 → h.replies = [{ dests := [d], vals := none }] →
        h.vq = [{ pc := h.pc, members := [(none, .setvl d a v)], x := [(a.val, x)] }] →
        Completes (.laneGroupGrant id) s fun t =>
          t.hart.vq = [] ∧ t.hart.groupWait = false ∧ t.hart.groups ≠ 0 ∧ t.hart.vtype = BitVec.ofNat 12 v.val
          ∧ t.hart.vl = min x.toNat (laneCount t.hart.lanes * 2048 / elemW t.hart.vtype) ∧ t.hart.vstart = 0
          ∧ t.hart.replies = [{ dests := [d], vals := some [Word.ofNat t.hart.vl] }] ∧ t.hart.x = h.x ∧ t.hart.pc = h.pc ∧ t.mem = s.mem)
    ∧ (∀ (c : Fin 256) (tval : BitVec 64) (mem : Fin 4) (q : QEntry) (rest : List QEntry), h.vq = q :: rest →
        c.val ∈ [0x01, 0x03, 0x05, 0x06, 0x07, 0x08, 0x09, 0x0A, 0x0B, 0x0C, 0x0D, 0x0F, 0x10, 0x11, 0x12, 0x13, 0x14, 0x15, 0x17] →
        let tr : Trap := { cause := c.val, tval := tval, vside := true, member := mem.val, memerr := faultMemerr c.val tval s }
        (delegated h tr = false ∨ rest ≠ [] → exec (.vectorSideFault id c tval mem) s = .next (takeTrap tr (convoyPc h) [q]
          (s.onHart fun k => { k with vq := rest, lend := none })))
        ∧ (delegated h tr = true → rest = [] → Completes (.vectorSideFault id c tval mem) s fun t =>
            t.hart.utcause = Word.ofNat c.val ∧ t.hart.utval = tval ∧ t.hart.utpc.toNat = q.pc.toNat / 4 * 4 ∧ t.hart.pc = h.utvec
            ∧ t.hart.inDeleg = true ∧ t.hart.vq = [] ∧ t.hart.held = none ∧ hstat t.hart = hstat h ∧ t.hart.sTrap = h.sTrap
            ∧ t.hart.mTrap = h.mTrap ∧ t.hart.x = h.x ∧ t.hart.v = h.v ∧ t.mem = s.mem))

/-- For a hart alone: MMODE with an accepted word takes an unclaimed unit no other hart of the core waits for, with zero
tiles and fresh ports, or reconfigures a unit the hart holds: a change of MODE discards both tiles but keeps the
marks of their failing rows (log entry 32), entering block-scaled mode discards partial sums and block positions.
MMODE of 0 releases the claim, scrubbing tiles and ports. MZERO zeroes a tile; PCFG.BASE sets a base and clears the
dimensions; PCFG.DIM sets one dimension and the position; PCLR clears a port. MATRIX_CLAIM_GRANT serves a hart whose
queue is headed by a waiting MMODE. Registers, memory and the rest are unchanged. (10_isa_matrix.md R237,
10_isa_matrix.md R238, 10_isa_matrix.md R240, 10_isa_matrix.md R245, 10_isa_matrix.md R246) -/
def Obligations.MatrixClaimAndPorts : Prop :=
  ∀ (s : State) (a b : Fin 32) (tl : Fin 2) (q : Fin 8), coreOf s.hart.id = s.core.id → s.hart.bound = true →
    (∀ k ∈ s.harts, k.bound = true → coreOf k.id = s.core.id → k.claimWait = false) →
    let h := s.hart
    let m := s.core.matrix
    let x := rx a s
    let X := x.toNat
    let wa := bitsOf X 12 8
    let wb := bitsOf X 17 13
    let mode := bitsOf X 19 18
    let good := bitsOf X 63 34 = 0 ∧ 1 ≤ wa ∧ wa ≤ 16 ∧ ((1 ≤ wb ∧ wb ≤ 16) ∨ (wb = 31 ∧ mode = 1)) ∧ mode ≠ 3 ∧ 1 ≤ bitsOf X 7 0 ∧ bitsOf X 7 0 ≤ 128
    let cfg : BitVec 64 := BitVec.ofNat 64 (X / 256 % 2 ^ 26 * 256)
    let unit : Instr → Matrix → Prop := fun i m' => Completes i s fun t =>
      Done [] (fun k => { k with claimWait := h.claimWait }) s t ∧ t.core = { s.core with matrix := m' } ∧ t.mem = s.mem
        ∧ t.harts = s.harts ∧ t.die = s.die ∧ t.dev = s.dev
    (Alone s → good → m.owner = none → unit (.mmode a) { owner := some h.id, cfg := cfg, mvl := bitsOf X 7 0 })
    ∧ (Alone s → m.owner = some h.id →
        (good → unit (.mmode a)
          (if mode ≠ mMode m then { m with cfg := cfg, mvl := bitsOf X 7 0, tile0 := { bad := m.tile0.bad }, tile1 := { bad := m.tile1.bad } }
           else if mode = 2 then { m with cfg := cfg, mvl := bitsOf X 7 0, tile0 := { m.tile0 with part := 0, pos := 0 }
                                          tile1 := { m.tile1 with part := 0, pos := 0 } }
           else { m with cfg := cfg, mvl := bitsOf X 7 0 }))
        ∧ (x = 0 → unit (.mmode a) {})
        ∧ unit (.mzero tl) (if tl = 0 then { m with tile0 := {} } else { m with tile1 := {} })
        ∧ unit (.pcfgBase q a) { m with ports := m.ports.set q { base := x } }
        ∧ unit (.pcfgDim q a b) { m with ports := m.ports.set q { (m.ports[q]) with
            counts := m.ports[q].counts.set (X % 4) (max 1 (bitsOf X 47 32))
            strides := m.ports[q].strides.set (X % 4) (Word.ofInt (sextN 32 (rx b s).toNat)), pos := 0 } }
        ∧ unit (.pclr q) { m with ports := m.ports.set q {} })
    ∧ (h.held = none → h.claimWait = true → m.owner = none → good → (∀ d : Fin 16, hdrKind h.chdr[d] ≠ 2 ∧ h.crerr[d] = 0) →
        h.vq = [{ pc := h.pc, members := [(none, .mmode a)], x := [(a.val, x)] }] →
        Completes (.matrixClaimGrant h.id) s fun t =>
          t.hart = { h with claimWait := false, vq := [], waits := h.waits.filter (·.who != .vector) } ∧ t.mem = s.mem
          ∧ t.core = { s.core with matrix := { owner := some h.id, cfg := cfg, mvl := bitsOf X 7 0 } })

/-- For a hart alone that holds the claim, MSTART 0 and no failing word: MOPA adds, and MOPS subtracts, over r + 1 steps
the products of the latched and the stepping vector (V registers from the one named, or port strips in the
scratchpad) in every cell below MVL, modulo 2^32 in integer mode and modulo q in modular mode (2^32 where the
modulus register reads 0, the model's choice: log entry 77); in block-scaled mode one step adds to the exact partial
sums, latching the scale codes at the first step and closing the block at the 32nd, for every cell below MVL and
every other that holds a sum. (That integer operands take their signs by R242 against R72, and which cells are
closed, is log entry 61.) MDRAIN reads the row X[b] names, MDRAINC clears what it read, MFILL writes it. A port that
steps moves on by as many strips as there are steps and one that is latched by one, wrapping after its last strip.
MSAVE writes MODE, the block position, the cells and, in block-scaled mode, the partial sums to its area, and MRSTR
reads them back (a POS byte above 31 modulo 32, the model's choice: log entry 66). Nothing else changes: the claim,
the configuration, the other tile and the other ports stay. (10_isa_matrix.md R242, 10_isa_matrix.md R243,
10_isa_matrix.md R244, 10_isa_matrix.md R247, 10_isa_matrix.md R248, 10_isa_matrix.md R249, 10_isa_matrix.md R250,
03_numbers.md R76, 03_numbers.md R77, 03_numbers.md R83) -/
def Obligations.MatrixProductsAndRows : Prop :=
  ∀ (s : State) (tl : Fin 2) (ka kb l neg e : Bool) (a b d : Fin 32) (r : Fin 16), Alone s → CalmMemory s →
    s.core.matrix.owner = some s.hart.id → s.hart.mstart = 0 → (s.core.matrix.tile tl).bad = [] → s.core.matrix.mvl ≤ 128 →
    let h := s.hart
    let m := s.core.matrix
    let T := m.tile tl
    let n := r.val + 1
    let mode := mMode m
    let same := ka && kb && a.val % 8 == b.val % 8
    let place : Fin 32 → Nat → Word := fun f k => (m.ports[Fin.ofNat 8 f.val]).addr ((m.ports[Fin.ofNat 8 f.val]).pos + k)
    let src : Bool → Fin 32 → Nat → Nat → Nat := fun port f w k =>
      if port then peek (scratchAt s (place f k)) (stripBytes m.mvl w) s else h.v[f + Fin.ofNat 32 k]
    let ks : Nat → Nat := fun k => if same then k + 1 else k
    let A : Nat → Nat := fun k => src ka a (mWa m) (if l then ks k else 0)
    let B : Nat → Nat := fun k => src kb b (mWb m) (if l then 0 else ks k)
    let prod : Nat → Nat → Nat → Int := fun i j k => (if neg then -1 else 1) * (aElem m (A k) i * bElem m (B k) j)
    let total : Nat → Nat → Int := fun i j => ((List.range n).map (prod i j)).sum
    let legal := (if l then ka = false → a.val + r.val ≤ 31 else kb = false → b.val + r.val ≤ 31)
      ∧ (ka = true → ∀ k < n + 2, inScratch (place a k) (stripBytes m.mvl (mWa m)))
      ∧ (kb = true → ∀ k < n + 2, inScratch (place b k) (stripBytes m.mvl (mWb m)))
    let mop : Instr := if neg then .mops tl ka a kb b r l else .mopa tl ka a kb b r l
    let inside : Nat → Nat → Bool := fun i j => decide (i < m.mvl) && decide (j < m.mvl)
    let tiles : (Tile → Prop) → State → Prop := fun P t =>
      P (t.core.matrix.tile tl) ∧ t.core.matrix.tile (1 - tl) = m.tile (1 - tl) ∧ t.core.matrix.cfg = m.cfg ∧ t.core.matrix.mvl = m.mvl
        ∧ t.core.matrix.owner = m.owner
    let moved : Fin 8 → Nat := fun k =>
      (if ka = true ∧ k.val = a.val % 8 then (if l then n else 1) else 0) + (if kb = true ∧ k.val = b.val % 8 then (if l then 1 else n) else 0)
    let stepped : State → Prop := fun t => ∀ k : Fin 8, t.core.matrix.ports[k] =
      if moved k = 0 then m.ports[k] else { m.ports[k] with pos := (m.ports[k].pos + moved k) % m.ports[k].counts.foldl (· * ·) 1 }
    let cells : (Nat → Nat → Nat) → Tile → Prop := fun f U => ∀ i j, i < 128 → j < 128 → U.cell i j = f i j
    let keeps : State → Prop := fun t => Done [] id s t ∧ t.mem = s.mem ∧ t.dev = s.dev ∧ t.die = s.die ∧ t.harts = s.harts
    let row := (rx b s).toNat % 128
    let base := rx a s
    let area : Nat := if mode = 2 then 0x30040 else 0x10040
    let at' : Nat → Nat := fun k => scratchAt s (base + BitVec.ofNat 64 k)
    (legal → mode = 0 → Completes mop s fun t => keeps t ∧ stepped t ∧
      tiles (cells fun i j => if inside i j then wrapN 32 (T.cell i j + total i j) else T.cell i j) t)
    ∧ (legal → mode = 1 → modulus h (mQsel m) ≤ 2 ^ 32 → Completes mop s fun t => keeps t ∧ stepped t ∧
      tiles (cells fun i j => if inside i j then modQ (T.cell i j + total i j) (modulus h (mQsel m)) else T.cell i j) t)
    ∧ (legal → mode = 2 → r = 0 → T.pos < 32 → Completes mop s fun t => keeps t ∧ stepped t ∧ tiles (fun U =>
        let sum : Nat → Nat → Int := fun i j => if inside i j then sextN 64 (wrapN 64 (T.sum i j + prod i j 0)) else T.sum i j
        let ea := if T.pos = 0 then h.v[mSca m] % 2 ^ 1024 else T.ea
        let eb := if T.pos = 0 then h.v[mScb m] % 2 ^ 1024 else T.eb
        if T.pos < 31 then U.pos = T.pos + 1 ∧ U.ea = ea ∧ U.eb = eb ∧ U.cells = T.cells ∧ ∀ i j, i < 128 → j < 128 → U.sum i j = sum i j
        else U.pos = 0 ∧ U.part = 0 ∧ cells (fun i j => if inside i j = true ∨ T.sum i j ≠ 0 then
          (closeCell (BitVec.ofNat 32 (T.cell i j)) (sum i j) (getField ea 8 i) (getField eb 8 j)).toNat else T.cell i j) U) t)
    ∧ (bitsOf h.vtype.toNat 6 0 = 2 →
        let el : Nat → Bool := fun j => decide (h.vstart ≤ j) && decide (j < h.vl)
        let val : Nat → Nat := fun j => if j < m.mvl then T.cell row j else 0
        Completes (.mdrain e d tl b) s (fun t => VectorOnly [d] [] s t ∧ ElementsWritten 32 el d val s t)
        ∧ Completes (.mdrainc e d tl b) s fun t => VectorHart [d] [] s t ∧ ElementsWritten 32 el d val s t ∧ t.mem = s.mem
            ∧ t.core.matrix.ports = m.ports ∧ tiles (cells fun i j => if i = row ∧ el j = true ∧ j < m.mvl then 0 else T.cell i j) t)
    ∧ (Completes (.mfill tl a b) s fun t => keeps t ∧ t.core.matrix.ports = m.ports ∧
        tiles (cells fun i j => if i = row ∧ j < m.mvl then elemAt h a 32 j else T.cell i j) t)
    ∧ (base.toNat % 64 = 0 → inScratch base area →
        (s.Safe → Completes (.msave tl a) s fun t => Done [] id s t ∧ t.core.matrix = m ∧ t.dev = s.dev ∧ SameMemBut (at' 0) area s t
          ∧ peek (at' 0) 1 t = mode ∧ peek (at' 1) 1 t = (if mode = 2 then T.pos % 256 else 0)
          ∧ (∀ i j, i < 128 → j < 128 → peek (at' (0x40 + 512 * i + 4 * j)) 4 t = T.cell i j)
          ∧ (mode = 2 → ∀ k < 16384, peek (at' (0x10040 + 8 * k)) 8 t = getField T.part 64 k))
        ∧ Completes (.mrstr tl a) s fun t => keeps t ∧ t.core.matrix.ports = m.ports ∧ tiles (fun U =>
            cells (fun i j => peek (at' (0x40 + 512 * i + 4 * j)) 4 s) U
            ∧ (if mode = 2 then (∀ k < 16384, getField U.part 64 k = peek (at' (0x10040 + 8 * k)) 8 s) ∧ U.pos = peek (at' 1) 1 s % 32
               else U.part = T.part ∧ U.pos = T.pos)) t)

/-- For a hart alone whose sources are valid, governed by one slot, of one PSID, KTAG and LEVEL, with the result's noise
within NVMAX and its payload within the grant: CADD, CSUB, CNEG, CMOV, CMULP, CMACC and CADDP write the words of
R216 modulo the prime of each word, CMODSW the coefficients rescaled past the last prime at the level below, CKEYSW
the words of the source's constant coefficient less every digit of R104 times its word of the key-switching key; the
header is valid, with the level, PSID and KTAG of the source, the noise of R216 to R218 and the current world,
LOADED, REF and IMP clear. Words above the payload, other registers, headers and memory are unchanged; VSTART is 0.
(09_isa_cipher.md R213, 09_isa_cipher.md R214, 09_isa_cipher.md R216, 09_isa_cipher.md R217, 09_isa_cipher.md R218,
04_ciphertexts.md R88, 04_ciphertexts.md R89, 04_ciphertexts.md R95, 04_ciphertexts.md R96, 04_ciphertexts.md R104) -/
def Obligations.CiphertextArithmetic : Prop :=
  ∀ (s : State) (d a b : Fin 16) (x : Fin 32) (k : Fin 4), Alone s →
    let h := s.hart
    let hd := h.chdr[a]
    let p := (h.keys[k]).set
    let l := hdrLevel hd
    let n := p.n
    let X := rx x s
    let W := X.toInt
    let NV : Fin 16 → Nat := fun c => hdrNv h.chdr[c]
    let word : Fin 16 → Nat → Nat → Nat := fun c j i => elemAt h (payReg c) 32 (j * (n + 1) + i)
    let agree : Fin 16 → Prop := fun c => hdrKind h.chdr[c] = 1 ∧ hdrKtag h.chdr[c] = hdrKtag hd ∧ hdrPsid h.chdr[c] = hdrPsid hd
      ∧ hdrLevel h.chdr[c] = l ∧ hdrPwords h.chdr[c] = (n + 1) * l
    let gives : Instr → Nat → Nat → (Nat → Nat → Nat) → Prop := fun i level nv f =>
      let pw := (n + 1) * level
      pw ≤ vlmaxr h → livePwords h ≤ vlmaxr h → fitsAll s pw = true → min nv (2 ^ 32 - 1) ≤ p.nvMax → Completes i s fun t =>
        ElementsWritten 32 (fun q => decide (q < pw)) (payReg d) (fun q => f (q / (n + 1)) (q % (n + 1))) s t
        ∧ (∀ c : Fin 16, c ≠ d → t.hart.chdr[c] = h.chdr[c])
        ∧ t.hart.chdr[d] = mkHdr 1 level (hdrPsid hd) 0 (hdrKtag hd) (min nv (2 ^ 32 - 1)) h.world.val pw
        ∧ t.hart.vstart = 0 ∧ Done [] (fun g => { g with v := h.v, chdr := h.chdr, vstart := h.vstart }) s t ∧ t.mem = s.mem ∧ SameRest s t
    let pj : Nat → Nat := p.prime
    let pay := payload h a ((n + 1) * l)
    let die := dieOfCore s.core.id
    governing h (hdrKtag hd) (hdrPsid hd) = some k → agree a →
    (agree b → gives (.cadd d a b) l (NV a + NV b) (fun j i => (word a j i + word b j i) % pj j)
      ∧ gives (.csub d a b) l (NV a + NV b) (fun j i => modQ ((word a j i : Int) - word b j i) (pj j)))
    ∧ gives (.cneg d a) l (NV a) (fun j i => modQ (-(word a j i : Int)) (pj j))
    ∧ gives (.cmov d a) l (NV a) (fun j i => word a j i % pj j)
    ∧ gives (.caddp d a x) l (NV a) (fun j i => (word a j i + if i = n then p.delta l * (X.toNat % 2 ^ p.logp) else 0) % pj j)
    ∧ (-32768 ≤ W → W < 32768 →
        gives (.cmulp d a x) l (W.natAbs ^ 2 * NV a) (fun j i => modQ (W * word a j i) (pj j))
        ∧ (agree d → gives (.cmacc d a x) l (NV d + W.natAbs ^ 2 * NV a) fun j i => modQ (word d j i + W * word a j i) (pj j)))
    ∧ (2 ≤ l → gives (.cmodsw d a) (l - 1) (ceilDiv (NV a) (p.dms.getD (l - 2) 1) + p.nvms.getD (l - 2) 0)
        fun j i => modQ (rescale p l (coeff p l i pay)) (pj j))
    ∧ (l = p.l → keyBad s (keyPlaces s die p.kskLoc 0 (4 * n * p.ellks * (n + 1) * p.l)) = false → gives (.ckeysw d a) l (NV a + p.nvKs) fun j i =>
        let dg : Nat → Nat → Int := fun jj u => gadgetDigit (p.q l) (crt (coeff p l jj pay)) p.betaks p.ellks u
        modQ ((if i = n then (word a j n : Int) else 0) - ((List.range n).map fun jj => ((List.range p.ellks).map fun u =>
          dg jj u * (keyWord s die p.kskLoc (((jj * p.ellks + u) * l + j) * (n + 1) + i) : Nat)).sum).sum) (pj j))

/-- For a hart alone, images lying in the scratchpad: CSTORE of a valid governed ciphertext writes its header, the
context id, the MAC of R92 and its payload, and changes no other byte; CLOAD of an image that passes its tests
writes the payload and a valid header with the LOADED mark, CIMPORT one with IMP, the top level and fresh noise.
CBUDGET replies NVMAX less the noise, CHDR.LO and CHDR.HI the halves of the header, CINV zeroes the header and
clears a recorded failure. VSTART is 0 after each; nothing else changes. (09_isa_cipher.md R219, 09_isa_cipher.md
R220, 09_isa_cipher.md R221, 09_isa_cipher.md R222, 09_isa_cipher.md R223, 09_isa_cipher.md R224, 04_ciphertexts.md
R92, 04_ciphertexts.md R93) -/
def Obligations.CiphertextImagesAndHeaders : Prop :=
  ∀ (s : State) (d : Fin 16) (x : Fin 32),
    let h := s.hart
    let va := rx x s
    let hd := h.chdr[d]
    let pw := hdrPwords hd
    let ends : (Hart → Hart) → State → Prop := fun f t => t.hart.vstart = 0 ∧ Done [] (fun g => f { g with vstart := h.vstart }) s t
    let bytes := Memory.reads s.mem (scratchAt s va)
    let head := bytes 64
    let ih := BitVec.ofNat 128 (fieldAt head 0 16)
    let pay := (bytes (64 + 4 * hdrPwords ih)).drop 64
    let loads : Instr → ParamSet → Nat → Nat → Nat → Prop := fun i p level nv flag =>
      (p.n + 1) * level = hdrPwords ih → hdrPwords ih ≤ vlmaxr h → livePwords h ≤ vlmaxr h → fitsAll s (hdrPwords ih) = true → nv ≤ p.nvMax →
      Completes i s fun t =>
        ElementsWritten 32 (fun q => decide (q < hdrPwords ih)) (payReg d) (fun q => fieldAt pay (4 * q) 4) s t
        ∧ t.hart.chdr = h.chdr.set d (mkHdr 1 level (hdrPsid ih) flag (hdrKtag ih) (min nv (2 ^ 32 - 1)) h.world.val (hdrPwords ih))
        ∧ ends (fun g => { g with v := h.v, chdr := h.chdr }) t ∧ t.mem = s.mem ∧ SameRest s t
    (Alone s → CalmMemory s → s.Safe → va.toNat % 64 = 0 → inScratch va (64 + 4 * pw) → hdrKind hd = 1 →
        (governing h (hdrKtag hd) (hdrPsid hd)).isSome = true → Completes (.cstore d x) s fun t =>
          Memory.reads t.mem (scratchAt s va) (64 + 4 * pw) = imageBytes s hd (payload h d pw)
          ∧ SameMemBut (scratchAt s va) (64 + 4 * pw) s t ∧ ends id t ∧ t.dev = s.dev)
    ∧ (Alone s → CalmMemory s → va.toNat % 64 = 0 → inScratch va (64 + 4 * hdrPwords ih) →
        (∀ p, imageTests s head pay = .ok p → loads (.cload d x) p (hdrLevel ih) (hdrNv ih) 4)
        ∧ (∀ p, importTests s head pay = .ok p → loads (.cimport d x) p p.l p.nvFresh 1))
    ∧ (Alone s → hdrKind hd = 1 → ∀ k, governing h (hdrKtag hd) (hdrPsid hd) = some k → Completes (.cbudget d x) s fun t =>
        rx x t = (if x = 0 then 0 else Word.ofNat ((h.keys[k]).set.nvMax - hdrNv hd)) ∧ t.hart.vstart = 0
        ∧ Done [x] (fun g => { g with vstart := h.vstart }) s t ∧ t.mem = s.mem ∧ SameRest s t)
    ∧ (Alone s → ∀ hi : Bool, Completes (if hi then .chdrHi d x else .chdrLo d x) s fun t =>
        rx x t = (if x = 0 then 0 else hd.extractLsb' (if hi then 64 else 0) 64) ∧ t.hart.vstart = 0
        ∧ Done [x] (fun g => { g with vstart := h.vstart }) s t ∧ t.mem = s.mem ∧ SameRest s t)
    ∧ (Alone (s.onHart fun g => { g with crerr := g.crerr.set d 0 }) → Completes (.cinv d) s fun t =>
        t.hart.chdr = h.chdr.set d 0 ∧ t.hart.crerr = h.crerr.set d 0
        ∧ ends (fun g => { g with chdr := h.chdr, crerr := h.crerr }) t ∧ t.mem = s.mem ∧ SameRest s t)

/-- For a hart alone, memory serving the core-local window at once: KBIND completes for a valid, usable entry of the
hart's partition (and no refresh pending under the slot) and binds the slot to a copy of it; KUNBIND completes and
empties the slot; TLOAD completes and sets a table register to the function values read and their test polynomial;
TCLR completes and clears one; QMSET completes and sets a modulus register to an odd value from 17 to 2^31 - 1. At S
or M, FSAVE in a handler completes, writes the 4096 bytes of the frame and leaves the vector side in its launch
state, V registers and the grant standing; FRSTR of a frame that carries its MAC (log entry 12 lays out its
implementation part), with at most 16 convoys and 8 replies, completes, makes its context the held one and takes VL,
VTYPE, VSTART, ECARRY and MSTART from it. (09_isa_cipher.md R231, 09_isa_cipher.md R232, 09_isa_cipher.md R233,
09_isa_cipher.md R234, 09_isa_cipher.md R235, 04_ciphertexts.md R98, 04_ciphertexts.md R101, 11_isa_sync.md R290,
11_isa_sync.md R291) -/
def Obligations.KeySlotsTablesAndFrames : Prop :=
  ∀ (s : State) (k t j : Fin 4) (a : Fin 32),
    let h := s.hart
    let x := rx a s
    let p := (h.keys[k]).set
    let leaves : State → Prop := fun u =>
      u.hart.vstart = 0 ∧ Done [] (fun q => { q with keys := h.keys, qm := h.qm, vstart := h.vstart }) s u
      ∧ u.mem = s.mem ∧ u.harts = s.harts ∧ u.die = s.die ∧ u.dev = s.dev
    let e := readEntry s (dieOfCore s.core.id) x.toNat
    let own : Prop := (s.core.tables[t]).valid = true → (s.core.tables[t]).world = h.world.val
    let f : Nat → Int := fun m => sextN 16 (fieldAt (Memory.reads s.mem (scratchAt s x) (2 ^ p.logp)) (2 * m) 2)
    let table : TableReg := { valid := true, ktag := p.ktag, psid := p.psid, level := p.l, world := h.world.val
                              values := (List.range (2 ^ p.logp / 2)).map f, poly := testPoly p f }
    let frame := Memory.reads s.mem (scratchAt s x) 4096
    (Alone s → CalmMemory s → slotPending s k = false → x.toNat < 256 → e.valid = 1 → e.part = h.part → e.usable = true →
      keyBad s [entryPlace s (dieOfCore s.core.id) x.toNat] = false →
      ∃ u, exec (.kbind k a) s = .next u ∧ leaves u ∧ u.hart.keys = h.keys.set k { bound := true, handle := x.toNat, set := e }
        ∧ u.hart.qm = h.qm ∧ u.core = s.core)
    ∧ (Alone s → slotPending s k = false →
        ∃ u, exec (.kunbind k) s = .next u ∧ leaves u ∧ u.hart.keys = h.keys.set k {} ∧ u.hart.qm = h.qm ∧ u.core = s.core)
    ∧ (Alone s → CalmMemory s → (h.keys[k]).bound = true → p.deg * p.l ≤ 8192 → own → x.toNat % 2 = 0 → inScratch x (2 ^ p.logp) →
        ∃ u, exec (.tload t a k) s = .next u ∧ leaves u ∧ u.hart.keys = h.keys ∧ u.hart.qm = h.qm
          ∧ u.core = { s.core with tables := s.core.tables.set t table })
    ∧ (Alone s → h.priv ≠ .u ∨ own →
        ∃ u, exec (.tclr t) s = .next u ∧ leaves u ∧ u.hart.keys = h.keys ∧ u.hart.qm = h.qm
          ∧ u.core = { s.core with tables := s.core.tables.set t {} })
    ∧ (Alone s → x.toNat < 2 ^ 31 → x.toNat % 2 = 1 → 17 ≤ x.toNat →
        ∃ u, exec (.qmset j a) s = .next u ∧ leaves u ∧ u.hart.keys = h.keys ∧ u.hart.qm = h.qm.set j x.toNat ∧ u.core = s.core)
    ∧ (∀ c : Held, Quiet (s.onHart fun g => { g with held := none }) → h.held = some c → h.lend = none → h.priv ≠ .u → refreshPending s = false →
        CalmMemory s → s.Safe → x.toNat % 64 = 0 → inScratch x 4096 → ∃ u, exec (.fsave a) s = .next u
          ∧ Memory.reads u.mem (scratchAt s x) 4096 = frameBytes s c ∧ SameMemBut (scratchAt s x) 4096 s u
          ∧ u.hart.held = none ∧ u.hart.vl = 0 ∧ u.hart.vtype = 2 ∧ u.hart.vstart = 0 ∧ u.hart.ecarry = 0 ∧ u.hart.mstart = 0
          ∧ u.hart.loops = {} ∧ (∀ i : Fin 16, u.hart.chdr[i] = 0) ∧ (∀ i : Fin 4, u.hart.qm[i] = 0 ∧ (u.hart.keys[i]).bound = false
            ∧ (u.hart.streams[i]).state = .empty) ∧ u.hart.v = h.v ∧ u.hart.m = h.m ∧ u.hart.groups = h.groups ∧ u.hart.lanes = h.lanes
          ∧ u.hart.x = h.x ∧ u.hart.priv = h.priv ∧ u.hart.sTrap = h.sTrap ∧ u.hart.mTrap = h.mTrap ∧ u.hart.pc = h.pc + 4)
    ∧ (Alone s → h.priv ≠ .u → refreshPending s = false → CalmMemory s → x.toNat % 64 = 0 → inScratch x 4096 →
        frameMac s ((frame.drop 256).take 0xEE0) = frame.drop 0xFE0 → fieldAt frame 0x26 1 ≤ 16 → fieldAt frame 0x27 1 ≤ 8 → ∃ u, exec (.frstr a) s = .next u
          ∧ (∃ c, u.hart.held = some c ∧ c.vpc.toNat = fieldAt frame 0 8 ∧ c.queue.length = fieldAt frame 0x26 1
            ∧ c.replies.length = fieldAt frame 0x27 1 ∧ c.loops.lc0.start.toNat = fieldAt frame 0x28 8
            ∧ c.loops.lc1.start.toNat = fieldAt frame 0x3C 8 ∧ (c.lend.isSome = true ↔ fieldAt frame 0x0D 1 % 2 = 1))
          ∧ u.hart.vstart = fieldAt frame 8 4 % 2 ^ 18 ∧ u.hart.mstart = fieldAt frame 0x0C 1 % 128 ∧ u.hart.vl = fieldAt frame 0x10 8 % 2 ^ 18
          ∧ u.hart.vtype.toNat = fieldAt frame 0x18 8 % 4096 ∧ u.hart.ecarry.toNat = fieldAt frame 0x20 4
          ∧ (∀ i : Fin 4, (u.hart.streams[i]).scb.prog = fieldAt frame (0x50 + 8 * i.val) 8)
          ∧ u.hart.x = h.x ∧ u.hart.v = h.v ∧ u.hart.m = h.m ∧ u.hart.vq = [] ∧ u.mem = s.mem)

/-- For a hart alone on its core: CREF of a valid source with a matching table in the current world makes the
destination pending and adds an accumulator with the rotation amounts of R103; CRGO starts every open batch of the
hart; CRWAIT completes when no refresh of the hart is pending and otherwise, nothing being delegated, stays queued.
PASS_FORMING_END closes a pass to newcomers. HALYARD_SUBSCRIBE opens a pass of the engine that reads the table
entry; HALYARD_ELEMENT_ISSUE, no hart having an access under way that could touch key material (R300), hands the
words of the next element, read once, to the subscriber; KEY_ELEMENT_ARRIVAL applies them to every accumulator of
the pass; KEY_PASS_END writes the extracted and switched payload and a valid header, sets the wake latch, and ends
the pass. (04_ciphertexts.md R103, 04_ciphertexts.md R105, 04_ciphertexts.md R106, 04_ciphertexts.md R107,
04_ciphertexts.md R108, 04_ciphertexts.md R109, 09_isa_cipher.md R226, 09_isa_cipher.md R227, 09_isa_cipher.md R228) -/
def Obligations.RefreshesRunTheirPasses : Prop :=
  ∀ (s : State) (d a : Fin 16) (tb k : Fin 4) (n : Nat),
    let h := s.hart
    let c := s.core.id
    let hd := h.chdr[a]
    let p := (h.keys[k]).set
    let pw := (p.n + 1) * p.l
    let T := s.core.tables[tb]
    let pend := mkHdr 2 p.l (hdrPsid hd) 2 (hdrKtag hd) p.nvBoot h.world.val pw
    let mine : State → List Acc := fun t => t.core.accs.filter (·.hart == h.id)
    let calm : Prop := ∀ k ∈ s.hart :: s.harts, k.xfers = [] ∧ k.queries = [] ∧ ∀ j : Fin 4, k.streams[j].state ≠ .running
    (Alone s → hdrKind hd = 1 → governing h (hdrKtag hd) (hdrPsid hd) = some k → T.valid = true → T.world = h.world.val → T.ktag = hdrKtag hd →
        T.psid = hdrPsid hd → fitsAll s pw = true → pw ≤ vlmaxr h → livePwords h ≤ vlmaxr h → p.nvBoot ≤ p.nvMax → p.nvBoot < 2 ^ 32 →
        hdrNv hd ≤ p.nvInmax → accRoom s p = true → (mine s).length < 15 → Completes (.cref d a tb) s fun t =>
          t.hart.chdr = h.chdr.set d pend ∧ t.hart.v = h.v ∧ t.hart.vstart = 0 ∧ t.mem = s.mem
          ∧ ∃ acc, t.core.accs = s.core.accs ++ [acc] ∧ acc.hart = h.id ∧ acc.creg = d ∧ acc.slot = k ∧ acc.set = p
            ∧ acc.rot = rotations p (hdrLevel hd) (payload h a (hdrPwords hd)) ∧ acc.pass = formingPass s (h.keys[k]).handle)
    ∧ (Alone s → Completes .crgo s fun t => (mine t).map (·.creg) = (mine s).map (·.creg) ∧ (∀ x ∈ mine t, x.pass.isSome = true)
        ∧ t.hart.vstart = 0 ∧ t.hart.v = h.v ∧ t.hart.chdr = h.chdr ∧ t.mem = s.mem)
    ∧ (Alone s → (mine s = [] → Completes .crwait s fun t => Done [] (fun g => { g with vstart := h.vstart }) s t ∧ t.hart.vstart = 0
          ∧ t.mem = s.mem ∧ SameRest s t)
        ∧ (mine s ≠ [] → h.tdeleg = 0 → Completes .crwait s fun t => (∃ e, t.hart.vq = [e] ∧ e.members = [(none, .crwait)])
          ∧ (∀ x ∈ mine t, x.pass.isSome = true) ∧ t.hart.v = h.v ∧ t.mem = s.mem))
    ∧ Completes (.passFormingEnd c n) s (fun t => t.core = { s.core with passes := s.core.passes.map fun q =>
        if q.id = n then { q with forming := false } else q } ∧ t.hart = h ∧ t.mem = s.mem)
    ∧ (∀ q : CorePass, corePass n s = some q → q.subscribed = false → dieOfCore c = s.die.id → s.die.passes = [] → calm →
        Completes (.halyardSubscribe c n) s fun t =>
          (∃ hp, t.die.passes = [hp] ∧ hp.handle = q.handle ∧ hp.open' = true ∧ hp.issued = 0 ∧ hp.subscribers = [(c, n)]
            ∧ hp.set = readEntry s s.die.id q.handle ∧ .halyardElementIssue s.die.id hp.id ∈ t.agenda)
          ∧ (∀ r, corePass n t = some r → r.subscribed = true) ∧ t.hart = h ∧ t.mem = s.mem)
    ∧ (∀ (hp : HalyardPass) (q : CorePass), dieOfCore c = s.die.id → s.die.passes = [hp] → hp.subscribers = [(c, n)] → hp.open' = true →
        hp.issued < max 1 hp.set.n → hp.entryBad = false → calm →
        keyBad s (elementPlaces s s.die.id hp.set hp.issued) = false → s.core.passes = [q] → q.id = n → q.buffered.length < 2 →
        Completes (.halyardElementIssue s.die.id hp.id) s fun t =>
          t.die.passes = [{ hp with issued := hp.issued + 1 }] ∧ t.core.passes = [{ q with buffered := q.buffered ++ [(hp.issued, elementWords s s.die.id hp.set hp.issued)] }]
          ∧ .keyElementArrival c n ∈ t.agenda ∧ t.hart = h ∧ t.mem = s.mem)
    ∧ (∀ (hp : HalyardPass) (q : CorePass) (i : Nat) (words : List Nat) (rest : List (Nat × List Nat)), dieOfCore c = s.die.id → s.die.passes = [hp] →
        hp.subscribers = [(c, n)] → s.core.passes = [q] → q.id = n → q.buffered = (i, words) :: rest →
        (∀ x ∈ s.core.accs, x.pass = some n ∧ x.bad = false ∧ x.set = hp.set ∧ i < x.set.n) → hp.set.valid = 1 →
        Completes (.keyElementArrival c n) s fun t =>
          t.core.passes = [{ q with buffered := rest, step := i + 1, forming := false }]
          ∧ t.core.accs = s.core.accs.map (fun x =>
              let r := stepPair hp.set words (x.rot.getD i 0) x.a x.b
              { x with a := r.1, b := r.2 })
          ∧ (i + 1 = max 1 hp.set.n → .keyPassEnd c n ∈ t.agenda) ∧ t.hart = h ∧ t.mem = s.mem)
    ∧ (∀ (hp : HalyardPass) (q : CorePass) (x : Acc), dieOfCore c = s.die.id → s.die.passes = [hp] → hp.subscribers = [(c, n)] →
        s.core.passes = [q] → q.id = n → max 1 hp.set.n ≤ q.step → s.core.accs = [x] → x.pass = some n → x.bad = false → x.hart = h.id →
        x.set = hp.set → h.binds = [] → coreOf h.id = c → calm → keyBad s (switchPlaces s hp.set) = false →
        Completes (.keyPassEnd c n) s fun t =>
          let ws := extract s hp.set (dieOfCore c) x.a x.b
          t.hart.chdr = h.chdr.set x.creg (mkHdr 1 hp.set.l x.psid 2 x.ktag hp.set.nvBoot x.world ((hp.set.n + 1) * hp.set.l))
          ∧ (∀ (r : Fin 32) (i : Nat), elemAt t.hart r 32 i = if r = payReg x.creg ∧ i < ws.length then ws.getD i 0 % 2 ^ 32 else elemAt h r 32 i)
          ∧ t.hart.latch = true ∧ t.hart.pc = h.pc ∧ t.hart.x = h.x ∧ t.core.accs = [] ∧ t.core.passes = [] ∧ t.die.passes = [] ∧ t.mem = s.mem)

/-- For a hart alone, objects in the scratchpad: SOPEN of an accepted block opens its slot; SRUN of an opened slot makes
it run, or done where nothing is left; SRUN of a running or done slot, and SWAIT of one that does not run, change
nothing; SSAVE writes the block and empties the slot. STREAM_ELEMENT_COMPLETE, no other stream and no key pass of
the core having work, of a transform stream writes the polynomial transformed as R252 says, of a PMAC stream one
coefficient (x y, plus the old value where it accumulates, modulo q), both at any byte address (log entry 66), and
moves the progress on, the slot being done at its end. SBIND adds the binding its descriptor gives (fields R271
gives no outcome for are taken as log entry 68 says), SUNBIND removes one, and STREAM_REGISTER_FETCH takes the next
strip, and none while a context is held. (10_isa_matrix.md R251, 10_isa_matrix.md R252, 10_isa_matrix.md R253,
10_isa_matrix.md R255, 11_isa_sync.md R271, 11_isa_sync.md R273, 02_execution.md R52) -/
def Obligations.StreamsAndStreamRegisters : Prop :=
  ∀ (s : State) (k : Fin 4) (a d : Fin 32),
    let h := s.hart
    let x := rx a s
    let sl := h.streams[k]
    let b := sl.scb
    let read := Memory.reads s.mem (scratchAt s x)
    let slot : Instr → StreamSlot → Prop := fun i v => Completes i s fun t =>
      Done [] (fun g => { g with streams := h.streams, xferCount := h.xferCount }) s t
      ∧ t.hart.streams = h.streams.set k v ∧ t.mem = s.mem ∧ SameRest s t
    let others : Prop := h.xfers = [] ∧ h.queries = [] ∧ (∀ j : Fin 4, j ≠ k → h.streams[j].state ≠ .running)
      ∧ coreOf h.id = s.core.id ∧ (∀ g ∈ s.harts, g.id ≠ h.id ∧ (coreOf g.id = s.core.id → ∀ j : Fin 4, g.streams[j].state ≠ .running))
      ∧ passWork s = false
    let at' : Word → Word → Nat → Word := fun base str c => base + BitVec.ofNat 64 c * str
    let moved : State → Prop := fun t => t.hart.streams = h.streams.set k
      { sl with scb := { b with prog := b.prog + 1 }, state := if b.endAt ≤ b.prog + 1 then .done else .running }
    let N := 2 ^ b.logn
    let f := fieldAt (read 64)
    let bound : Binding := { v := d, base := Word.ofNat (f 0 8), estride := Word.ofNat (f 8 8), count := f 0x10 8, strip := f 0x18 4,
                             sewc := f 0x1C 1 % 4, pos := 0, fetched := [] }
    (Alone s →
      (CalmMemory s → x.toNat % 64 = 0 → inScratch x 128 →
        (scbOk (read 128) = true → slot (.sopen k a) { sl with state := .opened, scb := scbOf (read 128), gov := none })
        ∧ (s.Safe → sl.state ≠ .empty → Completes (.ssave k a) s fun t => t.hart.streams = h.streams.set k {}
            ∧ Memory.reads t.mem (scratchAt s x) 128 = scbBytes b ∧ SameMemBut (scratchAt s x) 128 s t
            ∧ Done [] (fun g => { g with streams := h.streams }) s t))
      ∧ (sl.state = .opened → b.endAt ≤ b.prog → slot (.srun k) { sl with state := .done })
      ∧ (sl.state = .opened → b.prog < b.endAt → entriesHeld s < 32 →
          slot (.srun k) { sl with state := .running, order := h.xferCount, gov := none })
      ∧ (sl.state = .running ∨ sl.state = .done → slot (.srun k) sl) ∧ (sl.state ≠ .running → slot (.swait k) sl))
    ∧ (CalmPlaces s → s.Safe → others → sl.state = .running → 1 ≤ b.logn → b.logn ≤ 16 → b.q < 2 ^ 32 →
        (b.kind < 2 → inScratch (at' b.src0 b.str0 b.prog) (4 * N) → inScratch (at' b.dst b.strd b.prog) (4 * N) →
          Completes (.streamElementComplete h.id k) s fun t => moved t ∧
            let from' : Nat → Nat := fun j => peek (scratchAt s (at' b.src0 b.str0 b.prog) + 4 * j) 4 s % b.q
            let to' : Nat → Nat := fun j => peek (scratchAt s (at' b.dst b.strd b.prog) + 4 * j) 4 t
            let br : Nat → Nat := fun j => ((List.range b.logn).map fun i => j / 2 ^ i % 2 * 2 ^ (b.logn - 1 - i)).sum
            (b.kind = 0 → ∀ j < N, to' j = ((List.range N).map fun i => from' i * b.psi ^ ((2 * br j + 1) * i)).sum % b.q)
            ∧ (b.kind = 1 → ∀ ni pi : Nat, N * ni % b.q = 1 → b.psi * pi % b.q = 1 → ∀ j < N,
                to' j = ni * ((List.range N).map fun i => from' i * pi ^ ((2 * br i + 1) * j)).sum % b.q)
            ∧ SameMemBut (scratchAt s (at' b.dst b.strd b.prog)) (4 * N) s t ∧ t.hart.x = h.x ∧ t.hart.v = h.v ∧ t.hart.pc = h.pc)
        ∧ (b.kind = 2 → ∀ u v w : Word, u = at' b.src0 b.str0 (b.prog / N) + BitVec.ofNat 64 (4 * (b.prog % N)) →
            v = at' b.src1 b.str1 (b.prog / N) + BitVec.ofNat 64 (4 * (b.prog % N)) →
            w = at' b.dst b.strd (b.prog / N) + BitVec.ofNat 64 (4 * (b.prog % N)) → inScratch u 4 → inScratch v 4 → inScratch w 4 → 0 < b.q →
            Completes (.streamElementComplete h.id k) s fun t => moved t ∧
              peek (scratchAt s w) 4 t = ((if b.flags % 2 = 1 then peek (scratchAt s w) 4 s else 0)
                + peek (scratchAt s u) 4 s * peek (scratchAt s v) 4 s) % b.q
              ∧ SameMemBut (scratchAt s w) 4 s t ∧ t.hart.x = h.x ∧ t.hart.v = h.v ∧ t.hart.pc = h.pc))
    ∧ (Alone (s.onHart fun g => { g with binds := [] }) →
        (CalmMemory s → (h.binds.filter (·.v != d)).length < 4 → x.toNat % 64 = 0 → inScratch x 64 → Completes (.sbind d a) s fun t =>
          t.hart.binds = h.binds.filter (·.v != d) ++ [bound]
          ∧ HeadersCleared [d] s t ∧ Done [] (fun g => { g with binds := h.binds, chdr := h.chdr }) s t ∧ t.mem = s.mem ∧ SameRest s t)
        ∧ Completes (.sunbind d) s fun t => t.hart.binds = h.binds.filter (·.v != d)
            ∧ Done [] (fun g => { g with binds := h.binds }) s t ∧ t.mem = s.mem ∧ SameRest s t)
    ∧ (∀ bd : Binding, CalmMemory s → h.binds = [bd] → bd.v = d → bd.fetched.length < 8 → h.held = none →
        let n := 2 ^ bd.sewc
        let first := bd.pos + bd.strip * bd.fetched.length
        let va : Nat → Word := fun i => bd.base + BitVec.ofNat 64 (first + i) * bd.estride
        let live : Nat → Prop := fun i => bd.count = 0 ∨ first + i < bd.count
        (∀ i < bd.strip, live i → inScratch (va i) n ∧ (va i).toNat % n = 0) →
        Completes (.streamRegisterFetch h.id d) s fun t => (∃ strip : List Nat, t.hart.binds = [{ bd with fetched := bd.fetched ++ [strip] }]
            ∧ strip.length = bd.strip ∧ ∀ i < bd.strip, (live i → strip[i]? = some (peek (scratchAt s (va i)) n s)) ∧ (¬live i → strip[i]? = some 0))
          ∧ t.hart.v = h.v ∧ t.hart.pc = h.pc ∧ t.mem = s.mem)
    ∧ (h.held ≠ none → Completes (.streamRegisterFetch h.id d) s fun t => t = s)

/-- For a hart alone that holds fewer than 32 entries of the interlock table: CPY, CPY2D, PUTS and CPYB, with a legal
length and an aligned signal or barrier address, complete once the engine has accepted a transfer with their
operands. COPY_COMPLETE, source and destination being in the scratchpad and apart, copies every byte from its source
offset to its destination offset and no other, and ends a plain copy. PUTS_SIGNAL subtracts the amount from the
doubleword, and CPYB_DEPOSIT the landed bytes from the barrier's BYTES with the completion test (the whole length at
once, though R265 deposits piece by piece: log entry 60), and both end their transfer. ENGINE_FAULT takes the fault
of the oldest transfer or stream, when the hart holds no context and no engine fault awaits its return.
(11_isa_sync.md R262, 11_isa_sync.md R263, 11_isa_sync.md R265, 11_isa_sync.md R266, 11_isa_sync.md R269,
23_faults_memory.md R418) -/
def Obligations.CopiesAreAcceptedAndPerformed : Prop :=
  ∀ (s : State) (d a b : Fin 32),
    let h := s.hart
    let B := (rx b s).toNat
    let new : Xfer := { id := h.xferCount, kind := .cpy, dst := rx d s, src := rx a s, len := B, rows := 1, dstStride := 0, srcStride := 0
                        side := 0, dec := 0, priv := h.priv, ptbase := h.ptbase, world := h.world.val, landed := false }
    let accepts : Instr → Xfer → Prop := fun i x => Completes i s fun t =>
      t.hart.xfers = h.xfers ++ [x] ∧ t.hart.xferCount = h.xferCount + 1 ∧ .copyComplete h.id x.id ∈ t.agenda
      ∧ Done [] (fun g => { g with xfers := h.xfers, xferCount := h.xferCount }) s t ∧ t.mem = s.mem ∧ SameRest s t
    (Alone s → entriesHeld s < 32 →
      (B < 2 ^ 44 → accepts (.cpy d a b) new)
      ∧ (B % 2 ^ 32 * (B / 2 ^ 32) < 2 ^ 44 → accepts (.cpy2d d a b)
          { new with len := B % 2 ^ 32, rows := B / 2 ^ 32, dstStride := rx (d + 1) s, srcStride := rx (d + 2) s })
      ∧ (B < 2 ^ 44 → (rx (d + 1) s).toNat % 8 = 0 →
          accepts (.puts d a b) { new with kind := .puts, side := rx (d + 1) s, dec := rx (d + 2) s })
      ∧ (B < 2 ^ 44 → (rx (d + 1) s).toNat % 64 = 0 → accepts (.cpyb d a b) { new with kind := .cpyb, side := rx (d + 1) s }))
    ∧ (∀ x : Xfer, CalmPlaces s → s.Safe → (∀ k : Fin 4, h.streams[k].state ≠ .running) → h.queries = [] → h.xfers = [x] →
        let ends : State → Prop := fun t => t.hart.xfers = [] ∧ t.hart.x = h.x ∧ t.hart.v = h.v ∧ t.hart.pc = h.pc ∧ t.hart.held = h.held
        (x.landed = false → (∀ i < x.len * x.rows, inScratch (xferSrc x i) 1 ∧ inScratch (xferDst x i) 1) →
          (∀ i j, i < x.len * x.rows → j < x.len * x.rows → xferDst x i ≠ xferSrc x j ∧ (i ≠ j → xferDst x i ≠ xferDst x j)) →
          Completes (.copyComplete h.id x.id) s fun t =>
            (∀ i < x.len * x.rows, Memory.read t.mem (scratchAt s (xferDst x i)) = Memory.read s.mem (scratchAt s (xferSrc x i)))
            ∧ (∀ key, (∀ i < x.len * x.rows, key ≠ scratchAt s (xferDst x i)) → Memory.read t.mem key = Memory.read s.mem key)
            ∧ (x.kind = .cpy → ends t)
            ∧ (x.kind = .puts → t.hart.xfers = [{ x with landed := true, len := x.len * x.rows, rows := 1 }] ∧ .putsSignal h.id x.id ∈ t.agenda)
            ∧ (x.kind = .cpyb → 0 < x.len * x.rows →
                t.hart.xfers = [{ x with landed := true, len := x.len * x.rows, rows := 1 }] ∧ .cpybDeposit h.id x.id ∈ t.agenda))
        ∧ (x.landed = true → x.kind = .puts → x.side.toNat % 8 = 0 → inScratch x.side 8 → Completes (.putsSignal h.id x.id) s fun t =>
            ends t ∧ (peek (scratchAt s x.side) 8 t : Int) = ((peek (scratchAt s x.side) 8 s : Int) - x.dec.toNat) % 2 ^ 64
            ∧ SameMemBut (scratchAt s x.side) 8 s t)
        ∧ (x.landed = true → x.kind = .cpyb → x.side.toNat % 64 = 0 → inScratch x.side 64 →
            ∀ e p y ph : Nat, BarrierIs s (scratchAt s x.side) e p y ph → Completes (.cpybDeposit h.id x.id) s fun t =>
              ends t ∧ BarrierTested t (scratchAt s x.side) e e p ((((y : Int) - x.len) % 2 ^ 32).toNat) ph
              ∧ SameMemBut (scratchAt s x.side) 64 s t))
    ∧ (∀ (f : Nat × Trap) (fs : List (Nat × Trap)), h.engFaults = f :: fs → h.bound = true → h.held = none → h.engBusy = false →
        exec (.engineFault h.id) s = .next (takeTrap f.2 (convoyPc h) [] (s.onHart fun g => { g with engFaults := fs, lend := none })))

/-- For a hart alone, its barrier in the scratchpad with reserved bytes zero and a legal scope: BINIT sets EXPECT and
PEND to X[b] and BYTES and PHASE to 0; BARV takes an arrival, BARD an arrival and an expected one, BEXP adds to
BYTES, each followed by the completion test, which with EXPECT not 0 before, PEND 0 and BYTES 0 advances PHASE and
reloads PEND; BTEST replies PHASE and PEND; BWAIT completes when PHASE differs from its operand and otherwise,
nothing being delegated, stays queued, where BWAIT_COMPLETE completes it once it differs. Only the barrier's 64
bytes change. (11_isa_sync.md R267, 11_isa_sync.md R268, 11_isa_sync.md R269, 11_isa_sync.md R270) -/
def Obligations.BarriersCountAndComplete : Prop :=
  ∀ (s : State) (a b d : Fin 32) (e p y ph : Nat), Alone s → CalmMemory s → s.Safe →
    let h := s.hart
    let A := rx a s
    let B := (rx b s).toNat % 2 ^ 32
    let key := scratchAt s (A &&& ~~~63#64)
    let okScope := A.toNat % 64 < 7
    let waiting := s.onHart fun g => { g with vq := [{ pc := h.pc, members := [(none, .bwait a b)], x := [(a.val, A), (b.val, rx b s)] }] }
    let updates : Instr → (State → Prop) → Prop := fun i P => Completes i s fun t =>
      P t ∧ SameMemBut key 64 s t ∧ Done [] id s t ∧ t.dev = s.dev
    inScratch (A &&& ~~~63#64) 64 →
    updates (.binit a b) (fun t => BarrierIs t key B B 0 0)
    ∧ (BarrierIs s key e p y ph →
        (okScope → 0 < p → updates (.barv a) (fun t => BarrierTested t key e e (p - 1) y ph))
        ∧ (okScope → 0 < p → 0 < e → updates (.bard a) (fun t => BarrierTested t key e (e - 1) (p - 1) y ph))
        ∧ updates (.bexp a b) (fun t => BarrierTested t key e e p ((y + B) % 2 ^ 32) ph)
        ∧ Completes (.btest d a) s (fun t => rx d t = (if d = 0 then 0 else Word.ofNat (ph + p * 2 ^ 32)) ∧ Done [d] id s t ∧ t.mem = s.mem
            ∧ SameRest s t)
        ∧ (okScope → ph ≠ B → Completes (.bwait a b) s (fun t => Done [] id s t ∧ t.mem = s.mem ∧ SameRest s t)
            ∧ Completes (.bwaitComplete h.id) waiting fun t => t.hart.vq = [] ∧ t.hart.pc = h.pc ∧ t.hart.x = h.x ∧ t.mem = s.mem)
        ∧ (okScope → ph = B → h.tdeleg = 0 → Completes (.bwait a b) s fun t =>
            (∃ q, t.hart.vq = [q] ∧ q.members = [(none, .bwait a b)]) ∧ t.hart.x = h.x ∧ t.mem = s.mem ∧ t.dev = s.dev))

/-- For a hart alone: WPUSH of an accepted task record appends it to its pool, whose queries first have what its records
give them; WQRY appends a query, and WQRY_ANSWER writes its answer, or the next grant of the record at the pool's
head, into the scratchpad of the first query, which no earlier access of its hart is still to touch; WPUSH of an
accepted launch record writes it into the ring and advances POSTED. FARM declares a farm under a free number below
16 (the lowest: log entry 70) and replies it; FSTRIP replies the next strip and its length. GALLOC of n units within
quota, mirrored or open to atomics as asked, allocates a free run with a free shadow for each mirrored unit (which
ones: log entry 15), zeroes them and replies the aperture address; GFREE takes the partition's units of the range
away and has them zeroed. WDONE, nothing of the hart being under way, gives up what it holds and retires it (what it
waits for: log entry 35). (11_isa_sync.md R278, 11_isa_sync.md R279, 11_isa_sync.md R280, 11_isa_sync.md R281,
11_isa_sync.md R282, 11_isa_sync.md R283, 11_isa_sync.md R274, 11_isa_sync.md R275) -/
def Obligations.WorkAndGrottoAreHandedOut : Prop :=
  ∀ (s : State) (d a b : Fin 32),
    let h := s.hart
    let A := (rx a s).toNat
    let va := rx b s
    let bs := Memory.reads s.mem (scratchAt s va) 64
    let P := poolAt s h.part (A % 16)
    let q := queueKey s h.part (A % 16)
    let posted := peek (q 0x10) 8 s
    let slot := peek (q 0) 8 s + 64 * (posted % 2 ^ peek (q 8) 1 s)
    (Alone s → CalmMemory s →
      (va.toNat % 64 = 0 → inScratch va 64 → taskBad bs = false → A / 16 = 1 → Completes (.wpush a b) s fun t =>
          poolAt t h.part (A % 16) = { settlePool P with records := dropEnds ((settlePool P).records ++ [bs]) }
          ∧ (P.queries = [] → settlePool P = P)
          ∧ (∀ r qy, P.records = [r] → P.queries = [qy] → qy.answer = none →
              (settlePool P).queries = [{ qy with answer := some (answerOf r P.nextGrant) }]
              ∧ (fieldAt r 0 2 = 2 → (settlePool P).records = [r]) ∧ (fieldAt r 0 2 = 0 → (settlePool P).records = []))
          ∧ .wqryAnswer h.part (Fin.ofNat 16 (A % 16)) ∈ t.agenda
          ∧ Done [] id s t ∧ t.mem = s.mem)
      ∧ (s.Safe → va.toNat % 64 = 0 → inScratch va 64 → A < 16 → h.part < 96 → recordReason s A bs = none → logszOk (peek (q 8) 1 s) = true →
          ringTrap s slot va = none → (∀ i < 64, ¬inPartBlock s (slot + i)) → windowCore s slot = none → Completes (.wpush a b) s fun t =>
            Memory.reads t.mem slot 64 = bs ∧ peek (q 0x10) 8 t = (posted + 1) % 2 ^ 64 ∧ Done [] id s t)
      ∧ (va.toNat % 16 = 0 → inScratch va 16 → A < 16 → Completes (.wqry a b) s fun t =>
          poolAt t h.part A = { P with queries := P.queries ++ [{ key := scratchKey s s.core.id (va.toNat % 2 ^ 32), hart := h.id, order := h.xferCount }] }
          ∧ t.hart.queries = [(h.xferCount, va)] ∧ .wqryAnswer h.part (Fin.ofNat 16 A) ∈ t.agenda
          ∧ Done [] (fun g => { g with queries := h.queries, xferCount := h.xferCount }) s t ∧ t.mem = s.mem))
    ∧ (∀ (n : Fin 16) (part : Nat) (qy : Query) (r : List Byte) (rs : List (List Byte)) (qs : List Query) (k : Nat), s.Safe →
        poolAt s part n.val = { part := part, num := n.val, records := r :: rs, nextGrant := k, queries := qy :: qs } → answerReady qy s = true →
        (∀ ans, qy.answer = some ans → ans.length = 16) →
        Completes (.wqryAnswer part n) s fun t => Memory.reads t.mem qy.key 16 = qy.answer.getD (answerOf r k) ∧ SameMemBut qy.key 16 s t
          ∧ (qy.hart = h.id → t.hart.queries = h.queries.filter (·.1 != qy.order))
          ∧ (poolAt t part n.val).queries = qs ∧ SameXBut [] s t ∧ t.hart.pc = h.pc)
    ∧ (Alone s →
      (1 ≤ va.toNat → va.toNat ≤ 1048576 → ∀ n, freeFarm s h.part = some n → Completes (.farm d a b) s fun t =>
          t.die.farms = s.die.farms ++ [{ num := n, part := h.part, launch := h.launch.id, trip := A % 2 ^ 48, strip := va.toNat, next := 0 }]
          ∧ n < 16 ∧ (∀ f ∈ s.die.farms, f.part = h.part → f.num ≠ n) ∧ rx d t = (if d = 0 then 0 else Word.ofNat (s.die.id * 16 + n))
          ∧ Done [d] id s t ∧ t.mem = s.mem)
      ∧ (∀ f : Farm, d.val < 31 → A < 64 → A / 16 = s.die.id → s.die.farms = [f] → f.part = h.part → f.num = A % 16 → f.next < 2 ^ 64 →
          f.strip < 2 ^ 64 → Completes (.fstrip d a) s fun t =>
          let len := min f.strip (f.trip - f.next)
          t.die.farms = [{ f with next := f.next + len }] ∧ rx d t = (if d = 0 then 0 else Word.ofNat f.next) ∧ rx (d + 1) t = Word.ofNat len
          ∧ Done [d, d + 1] id s t ∧ t.mem = s.mem)
      ∧ (∀ u : Nat, let n := (A + 65535) / 65536
          let pod := va.toNat % 4
          let mirror := va.toNat.testBit 8
          let openat := va.toNat.testBit 9
          let place : Nat → Nat := fun num => (3840 + pod) * 2 ^ 44 + num * 65536
          va.toNat < 1024 → va.toNat / 4 % 64 = 0 → (openat = true → openGranted s pod = true) → pod < s.dev.pods → 1 ≤ n →
          chargedUnits s h.part pod + (if mirror then 2 * n else n) ≤ quotaOf s h.part pod → freeRun s pod n 0 = some u →
          (mirror = true → n ≤ (shadowUnits s pod n u).length) → Completes (.galloc d a b) s fun t =>
            rx d t = (if d = 0 then 0 else Word.ofNat (0x00F0000000000000 + pod * 2 ^ 41 + u * 65536))
            ∧ (∀ k < n, ∃ g ∈ t.dev.units, g.pod = pod ∧ g.num = u + k ∧ g.part = some h.part ∧ g.dev = s.dev.devid ∧ g.isShadow = false
                ∧ g.openat = openat ∧ g.lost = false ∧ (mirror = false → g.shadow = none)
                ∧ (mirror = true → ∃ sh, g.shadow = some sh ∧ sh < 2 ^ 25 ∧ (sh < u ∨ u + n ≤ sh)
                    ∧ ∃ g' ∈ t.dev.units, g'.pod = pod ∧ g'.num = sh ∧ g'.part = some h.part ∧ g'.isShadow = true))
            ∧ (∀ g ∈ s.dev.units, g ∈ t.dev.units ∧ ∀ g' ∈ t.dev.units, g' ∉ s.dev.units → g'.pod = pod ∧ (g.pod = pod → g.num ≠ g'.num))
            ∧ t.dev.units.length = s.dev.units.length + (if mirror then 2 * n else n) ∧ u + n ≤ 2 ^ 25
            ∧ (∀ g ∈ t.dev.units, g ∉ s.dev.units → ∀ key, place g.num ≤ key → key < place g.num + 65536 → Memory.read t.mem key = 0)
            ∧ (∀ key, (∀ g ∈ t.dev.units, g ∉ s.dev.units → key < place g.num ∨ place g.num + 65536 ≤ key) → Memory.read t.mem key = Memory.read s.mem key)
            ∧ Done [d] id s t)
      ∧ (CalmMemory s → let base := (rx a s).toNat
          let n := (va.toNat + 65535) / 65536
          base % 65536 = 0 → inAperture base = true → inAperture (base + n * 65536 - 1) = true → 1 ≤ n → Completes (.gfree a b) s fun t =>
            let lo := (base - 0x00F0000000000000) / 65536
            let mine : GrottoUnit → Prop := fun g => g.isShadow = false ∧ g.part = some h.part ∧ lo ≤ g.pod * 2 ^ 25 + g.num
              ∧ g.pod * 2 ^ 25 + g.num < lo + n
            (∀ g ∈ s.dev.units, mine g → { g with part := none } ∈ t.dev.units ∧ .grottoUnitZero (Fin.ofNat 4 g.pod) g.num ∈ t.agenda)
            ∧ (∀ g ∈ t.dev.units, g.part = some h.part → ¬mine g) ∧ t.dev.units.length = s.dev.units.length ∧ Done [] id s t ∧ t.mem = s.mem)
      ∧ (CalmMemory s → (∀ x ∈ s.core.accs, x.hart ≠ h.id) → Completes .wdone s fun t =>
          t.hart.retiring = true ∧ t.hart.groups = 0 ∧ t.core.matrix.owner ≠ some h.id ∧ .hartRetirement h.id ∈ t.agenda ∧ t.hart.x = h.x
          ∧ t.mem = s.mem))

/-- For a hart alone: APXB whose region does not act for the hart continues at its body (past the declaration, or at its
APXE where the body is shorter than a declaration) and changes nothing else. With a region bound here, a declaration
that follows the rules, SEW 32 and W 0: in OBSERVE it opens an invocation with the captured inputs and continues at
the body; in ACTIVE, when the count is no multiple of APXRATE, it writes the surrogate's outputs in every element
from VSTART up to VL and continues past the APXE. APXE closes the open invocation of its region, whose samples are
buffered while fewer than 64; it does nothing else where none is open. APXINV makes its region INVALID and unbound.
(11_isa_sync.md R284, 11_isa_sync.md R285, 11_isa_sync.md R286, 11_isa_sync.md R287, 11_isa_sync.md R288) -/
def Obligations.EchoInvocationsResolve : Prop :=
  ∀ (s : State) (r : Fin 8) (l : Fin 32768), Alone s → s.hart.surrogate = none →
    let h := s.hart
    let p := h.pc
    let e := s.core.echo[r]
    let body := p + 12
    let after := p + BitVec.ofNat 64 (4 * l.val + 8)
    let on := h.apxctl.getLsbD r.val = true ∧ h.ct = false
    let keeps : (Hart → Hart) → State → Prop := fun f t => SameXBut [] s t ∧ SameHart h (f t.hart) ∧ t.hart.lend = none ∧ t.mem = s.mem
    (¬on → Completes (.apxb r l) s fun t => t.hart.pc = (if l.val < 3 then p + BitVec.ofNat 64 (4 * l.val + 4) else body)
        ∧ keeps id t ∧ SameRest s t)
    ∧ (∀ (w0 w1 : Nat) (dc : Decl), on → 3 ≤ l.val → readDecl p s = .ok (w0, w1, s) → declOf w0 w1 = some dc → bitsOf h.vtype.toNat 6 0 = 2 →
        e.bound = some p → e.bad = false → e.k = dc.ins.length → e.j = dc.outs.length →
        (e.state = 1 → Completes (.apxb r l) s fun t => t.hart.pc = body ∧ keeps (fun g => { g with echo := h.echo }) t ∧ SameRest s t
          ∧ t.hart.echo = some { region := r, addr := p, len := l.val, outs := dc.outs, vl := h.vl
                                 inputs := (sampleElems h.vl).map (valuesAt h dc.ins), measure := false })
        ∧ (e.state = 3 → e.count % max 1 h.apxrate.toNat ≠ 0 → dc.outs.Nodup → Completes (.apxb r l) s fun t => t.hart.pc = after
          ∧ t.hart.vstart = 0 ∧ keeps (fun g => { g with v := h.v, chdr := h.chdr, vstart := h.vstart }) t ∧ HeadersCleared dc.outs s t
          ∧ t.core.echo[r] = { e with count := e.count + 1 }
          ∧ ∀ (v : Fin 32) (i : Nat), elemAt t.hart v 32 i =
              if v ∈ dc.outs ∧ h.vstart ≤ i ∧ i < h.vl then ((surrogateOut e (valuesAt h dc.ins i)).getD (dc.outs.idxOf v) 0).toNat
              else elemAt h v 32 i))
    ∧ (h.echo = none → Completes (.apxe r) s fun t => Done [] id s t ∧ t.mem = s.mem ∧ SameRest s t)
    ∧ (∀ o : EchoOpen, h.echo = some o → o.region = r → o.measure = false → e.bound = some o.addr → e.state = 1 → e.bad = false →
        let xs := o.inputs.zip ((sampleElems o.vl).map (valuesAt h o.outs))
        xs ≠ [] → e.samples.length + xs.length < 64 → Completes (.apxe r) s fun t => t.hart.echo = none
          ∧ t.core.echo[r] = { e with samples := e.samples ++ xs } ∧ Done [] (fun g => { g with echo := h.echo }) s t ∧ t.mem = s.mem)
    ∧ Completes (.apxinv r) s (fun t => t.core.echo[r] = { e with state := 0, bound := none, span := [] }
        ∧ (∀ q : Fin 8, q ≠ r → t.core.echo[q] = s.core.echo[q]) ∧ Done [] id s t ∧ t.mem = s.mem)

/-- POST_LAUNCH_RECORD by an admitted endpoint writes the record into the ring and advances POSTED; TAKE_LAUNCH_RECORD
makes a good record its queue's head, and refuses a bad one with its reason. DEPENDENCE_SATISFIED makes a head whose
counter reads 0 ready; SHADOW_SLOT_FILL prefetches for the best head; BIND_HART puts a hart in the launch state of
R55; HART_RETIREMENT frees its slot and completes the launch with its last hart; DONEADDR_RESEND decrements the
counter. A host's write of EXITV lands and one of TAKEN is ignored; one of a host that is not admitted is refused,
which its response says (R435). The token bucket refills to ISSUECAP, and GOVERNOR_PERIOD sets ISSUECAP within 64 to
4500 a core (what was spent is free, log entry 9). (02_execution.md R54, 02_execution.md R55, 02_execution.md R56,
13_scheduling.md R303, 13_scheduling.md R304, 13_scheduling.md R305, 13_scheduling.md R306, 13_scheduling.md R309,
13_scheduling.md R310, 14_fabric.md R323, 23_faults_memory.md R436, 23_faults_memory.md R444) -/
def Obligations.SchedulerTakesBindsAndRetires : Prop :=
  ∀ (s : State) (p : Nat) (q : Fin 16), s.Safe → s.dev.bad = [] → s.dev.linksDown = [] → s.dev.silentEndpoints = [] → p < 96 →
    s.dev.devid < 1024 →
    let key := queueKey s p q.val
    let posted := peek (key 0x10) 8 s
    let taken := peek (key 0x18) 8 s
    let logsz := peek (key 8) 1 s
    let ring : Nat → Nat := fun n => peek (key 0) 8 s + 64 * (n % 2 ^ logsz)
    let h := s.hart
    (∀ (ep : Nat) (rec : List Byte), windowAdmits s ep = true → logszOk logsz = true → rec.length = 64 → (readRecord s (ring posted)).isSome = true →
        (∀ i < 64, ¬inPartBlock s (ring posted + i)) → windowCore s (ring posted) = none →
        Completes (.postLaunchRecord ep p q [rec]) s fun t => Memory.reads t.mem (ring posted) 64 = rec
          ∧ peek (key 0x10) 8 t = (posted + 1) % 2 ^ 64
          ∧ (partEnabled s p = true → (posted + 1) % 2 ^ 64 ≠ taken → .takeLaunchRecord p q ∈ t.agenda) ∧ t.hart.x = h.x ∧ t.hart.pc = h.pc)
    ∧ (∀ bs : List Byte, partEnabled s p = true → logszOk logsz = true → taken < posted → headOf s p q.val = none →
        readRecord s (ring taken) = some bs →
        (recordReason s q.val bs = none → lacksShare s (launchOf bs).world = false → (launchOf bs).depaddr = 0 →
          Completes (.takeLaunchRecord p q) s fun t => peek (key 0x18) 8 t = taken + 1 ∧ .bindHart p ∈ t.agenda
            ∧ t.dev.heads = s.dev.heads ++ [{ part := p, queue := q.val, launch := s.dev.launchCount + 1, record := launchOf bs, ready := true
                                              order := s.dev.readyCount, nextIndex := 0 }]
            ∧ t.dev.launches = s.dev.launches ++ [{ id := s.dev.launchCount + 1, part := p, queue := q.val, harts := (launchOf bs).harts
                                                    retired := 0, doneaddr := (launchOf bs).doneaddr }] ∧ t.hart = h)
        ∧ (∀ n, recordReason s q.val bs = some n → (launchOf bs).doneaddr = 0 → Completes (.takeLaunchRecord p q) s fun t =>
            peek (key 0x18) 8 t = taken + 1 ∧ peek (key 9) 1 t = n ∧ peek (key 0x0C) 4 t = (peek (key 0x0C) 4 s + 1) % 2 ^ 32
            ∧ t.dev = s.dev ∧ t.hart = h))
    ∧ (∀ x : Head, headOf s p q.val = some x → x.ready = false → (readCounter s p x.record.depaddr).1 = .value 0 →
        Completes (.dependenceSatisfied p q) s fun t => .bindHart p ∈ t.agenda ∧ t.hart = h ∧ t.mem = s.mem
          ∧ t.dev.heads = s.dev.heads.map fun y => if y.part = p ∧ y.queue = q.val then { y with ready := true, order := s.dev.readyCount } else y)
    ∧ (∀ x : Head, s.dev.heads = [x] → x.part = p → x.nextIndex < x.record.harts → partEnabled s p = true → (partCores s p).contains s.core.id = true →
        s.core.shadow0 = none → s.core.shadow1 = none → Completes (.shadowSlotFill s.core.id 0 p) s fun t =>
          (∃ sh, t.core.shadow0 = some sh ∧ sh.launch = x.launch ∧ sh.record = x.record ∧ sh.part = p
            ∧ sh.code = (prefetchCode p x.record 128 s).1
            ∧ sh.inputs = if x.ready then (prefetchInputs p x.record (prefetchCode p x.record 128 s).2).1 else none) ∧ t.core.shadow1 = none ∧ t.hart = h ∧ t.mem = s.mem)
    ∧ (∀ x : Head, s.dev.heads = [x] → x.part = p → x.ready = true → worldOk s x.record.world = true → x.record.world < 256 →
        x.nextIndex < x.record.harts → partCores s p = [coreOf h.id] → freeSlot s (coreOf h.id) = some h.id → Completes (.bindHart p) s fun t =>
          t.hart.id = h.id ∧ t.hart.bound = true ∧ t.hart.pc = x.record.entry ∧ t.hart.priv = .u ∧ t.hart.ie = true
          ∧ t.hart.world.val = x.record.world ∧ t.hart.part = p ∧ t.hart.launch.id = x.launch ∧ t.hart.launch.index = x.nextIndex
          ∧ (∀ r : Fin 32, rx r t = if r = 3 then x.record.args else if r = 4 then Word.ofNat x.nextIndex
              else if r = 5 then Word.ofNat x.record.harts else 0)
          ∧ t.hart.exitv.toNat = peek (partKey s p 0x08) 8 s / 4 * 4 ∧ t.hart.sTrap.tvec.toNat = peek (partKey s p 0x30) 8 s / 4 * 4
          ∧ t.hart.ptbase.toNat = peek (partKey s p 0x28) 8 s % 2 ^ 60 ∧ t.hart.vl = 0 ∧ t.hart.groups = 0 ∧ t.hart.vq = []
          ∧ t.hart.held = none ∧ (∀ c : Fin 16, t.hart.chdr[c] = 0)
          ∧ (x.nextIndex + 1 < x.record.harts → t.dev.heads = [{ x with nextIndex := x.nextIndex + 1 }])
          ∧ (x.nextIndex + 1 = x.record.harts → t.dev.heads = []))
    ∧ (∀ x : LiveLaunch, h.bound = true → h.retiring = true → h.part = p → s.dev.launches = [x] → x.id = h.launch.id → x.doneaddr = 0 →
        Completes (.hartRetirement h.id) s fun t => t.hart = Hart.fresh h.id ∧ .bindHart p ∈ t.agenda ∧ t.mem = s.mem
          ∧ t.dev.launches = (if x.retired + 1 < x.harts then [{ x with retired := x.retired + 1 }] else []))
    ∧ (∀ (ga k : Nat) (g : Target) (s1 : State), s.dev.resend = [(ga, p, q.val)] → ga ≠ 0 → counterTarget s p .atomic ga = .ok (g, s1) → g.wr = [k] → g.e2e = [] →
        inKeyStore k = false → (∀ i < 8, ¬inPartBlock s (k + i)) → Completes (.doneaddrResend ga) s fun t => t.dev.resend = []
          ∧ peek k 8 t = (peek k 8 s + 2 ^ 64 - 1) % 2 ^ 64 ∧ SameMemBut k 8 s t)
    ∧ (∀ (ep : Nat) (bs : List Byte), s.dev.admittedHosts.contains ep = true → bs.length = 8 →
        Completes (.partitionBlockWrite ep p 0x08 bs) s (fun t => Memory.reads t.mem (partKey s p 0x08) 8 = bs ∧ SameMemBut (partKey s p 0x08) 8 s t)
        ∧ Completes (.partitionBlockWrite ep p (0x98 + 32 * q.val) bs) s (fun t => t.mem = s.mem))
    ∧ (∀ (ep : Nat) (bs : List Byte), s.dev.admittedHosts.contains ep = false → exec (.partitionBlockWrite ep p 0x08 bs) s = .next (respond ep true s)
        ∧ ∀ refused, (respond ep refused s).mem = s.mem ∧ (respond ep refused s).hart = h
          ∧ { (respond ep refused s).dev with ports := s.dev.ports } = s.dev)
    ∧ Completes (.tokenBucketRefill s.core.id) s (fun t => t.hart = h ∧ t.mem = s.mem
        ∧ t.core = (if s.dev.time.toNat < s.core.refill then s.core
            else { s.core with tokens := s.core.issuecap
                               refill := if s.core.issuecap = 0xFFFF then s.core.refill else periodAfter 1000 s.dev.time.toNat }))
    ∧ ((partCores s p).contains s.core.id = true → (∀ g ∈ s.dev.governors, g.part = p → g.next ≤ s.dev.time.toNat) → Completes (.governorPeriod p) s fun t =>
        (peek (partKey s p 0x20) 4 s = 0 ∨ boundOn s s.core.id = 0 → t.core.issuecap = 0xFFFF)
        ∧ (peek (partKey s p 0x20) 4 s ≠ 0 → 0 < boundOn s s.core.id → 64 ≤ t.core.issuecap ∧ t.core.issuecap ≤ 4500)
        ∧ t.hart = h ∧ t.mem = s.mem)

/-- A memory link that goes down joins the links down and raises a link event of kind 4 on its die; a retired lane sets
its LANEMAP bit alone. LOCKED_LOAD_REDIRECT, REPLICA_LOCK_TIMEOUT and REMOTE_TIMEOUT mark the access that waits; a
remote store or atomic that timed out has not been performed, or has been on what its place then holds. A lost
grotto switch loses every unmirrored unit of its pod and no mirrored one while the other copy stands; a returning
one reads zero, and resynchronising writes its plane alone. A freed unit is zeroed and free once no access put off
(log entry 72) is still to touch it. A store, a signal and an atomic of another endpoint are performed in installed
main memory and refused past it, and an atomic of another accelerator in a grotto unit of its hart's partition that
is open to atomics (log entry 57). A migration whose copy is done points its leaf at the destination; one whose copy
faults flips nothing, and one whose accesses wait comes up again (one step, or put off: log entry 39).
(23_faults_memory.md R422, 23_faults_memory.md R423, 23_faults_memory.md R424, 23_faults_memory.md R426,
23_faults_memory.md R427, 23_faults_memory.md R428, 23_faults_memory.md R433, 20_faults_execution.md R398,
05_memory.md R122, 05_memory.md R125, 05_memory.md R134, 19_prog_grotto.md R372) -/
def Obligations.MemoryAndGrottoEventsAct : Prop :=
  ∀ (s : State), s.Safe →
    let h := s.hart
    let told : Nat → Word → State → Prop := fun k v t => ∀ d, dieAt d t =
      if d ≠ k then dieAt d s else if 64 ≤ (dieAt d s).events.length then { dieAt d s with dropped := true }
      else { dieAt d s with events := (dieAt d s).events ++ [(true, v)] }
    let ep := s.dev.devid
    let now := s.dev.time.toNat
    (∀ m : Fin 24, m.val ∉ s.dev.linksDown → Completes (.memoryLinkDown m) s fun t =>
        t.dev = { s.dev with linksDown := s.dev.linksDown ++ [m.val] } ∧ told (m.val / 6) (Word.ofNat (4 + m.val * 256)) t ∧ t.hart = h
        ∧ t.mem = s.mem)
    ∧ (∀ (c : Nat) (l : Fin 64), c < 96 → Completes (.laneRetirement c l) s fun t =>
        (∀ d, coreAt d t = if d = c then { coreAt c s with lanemap := (coreAt c s).lanemap ||| (1#64 <<< l.val) } else coreAt d s)
        ∧ t.hart = h ∧ t.mem = s.mem)
    ∧ (∀ w : MemWait, h.waits = [w] → w.limit ≤ now → w.expired = false →
        (w.trap.cause = 0x11 → Completes (.remoteTimeout h.id) s fun t => t.hart.waits = [{ w with expired := true, late := none }]
          ∧ (w.late = none → t.hart = { h with waits := [{ w with expired := true }] } ∧ t.mem = s.mem)
          ∧ (∀ (va : Word) (bs : List Byte) (x : Target) (s1 : State) (k : Nat), w.who = .scalar → w.late = some (va, .store bs) →
              resolve (reqOf s .store .scalar .neither) va s = .ok (x, s1) → x.e2e = [] → x.wr = [k] → epOf k ≠ ep →
              t.mem = s.mem ∨ (Memory.reads t.mem k bs.length = bs ∧ SameMemBut k bs.length s1 t))
          ∧ ∀ (va : Word) (n b : Nat) (d : Fin 32) (x : Target) (s1 : State) (k : Nat), w.who = .scalar →
              w.late = some (va, .rmw { kind := .add, n := n, b := b } d) →
              resolve (reqOf s .atomic .scalar .neither) va s = .ok (x, s1) → x.e2e = [] → x.wr = [k] → x.rd = k → epOf k ≠ ep → inKeyStore k = false →
              t.mem = s.mem ∨ (peek k n t = (peek k n s1 + b) % 2 ^ (8 * n) ∧ SameMemBut k n s1 t))
        ∧ (w.trap.cause = 0x12 →
            (w.load = true → w.redirect = false → Completes (.lockedLoadRedirect h.id) s fun t =>
              t.hart = { h with waits := [{ w with redirect := true, limit := now + 64000 }] }
              ∧ (now + 64000, .replicaLockTimeout h.id) ∈ t.dev.timers ∧ t.mem = s.mem)
            ∧ (w.redirect = true ∨ w.load = false → Completes (.replicaLockTimeout h.id) s fun t =>
              t.hart = { h with waits := [{ w with expired := true }] } ∧ t.mem = s.mem)))
    ∧ (∀ (pod : Fin 4) (plane : Fin 64),
        let was := (pod.val, plane.val)
        let other := (pod.val, plane.val ^^^ 32)
        let holds := podOf ep = some pod.val ∧ ∃ u ∈ s.dev.units, u.pod = pod.val ∧ u.part ≠ none
        let at' := fun kind => Word.ofNat (kind + pod.val * 2 ^ 14 + plane.val * 2 ^ 16)
        let mine := fun key => epOf key = 3840 + pod.val ∧ planeOf (offOf key) = plane.val
        (was ∉ s.dev.lostPlanes → Completes (.grottoSwitchLost pod plane) s fun t => t.dev.lostPlanes = s.dev.lostPlanes ++ [was]
          ∧ (∀ u ∈ s.dev.units, u.pod = pod.val → u.shadow = none → u.isShadow = false → { u with lost := true } ∈ t.dev.units)
          ∧ (∀ u ∈ s.dev.units, (u.pod ≠ pod.val ∨ ((u.shadow ≠ none ∨ u.isShadow = true) ∧ other ∉ s.dev.lostPlanes ∧ other ∉ s.dev.resyncPlanes)) →
              u ∈ t.dev.units)
          ∧ (holds → told 0 (at' 5) t) ∧ (¬holds → t.dies = s.dies ∧ t.die = s.die) ∧ t.hart = h ∧ t.mem = s.mem)
        ∧ (was ∈ s.dev.lostPlanes → Completes (.grottoSwitchReturn pod plane) s fun t => was ∉ t.dev.lostPlanes ∧ was ∈ t.dev.resyncPlanes
          ∧ (∀ key, (mine key → Memory.read t.mem key = 0) ∧ (¬mine key → Memory.read t.mem key = Memory.read s.mem key))
          ∧ (holds → told 0 (at' 6) t) ∧ t.hart = h ∧ t.dev.units = s.dev.units)
        ∧ (was ∈ s.dev.resyncPlanes → (∀ u ∈ s.dev.units, u.num < 2 ^ 25 ∧ ∀ sh, u.shadow = some sh → sh < 2 ^ 25) → Completes (.mirrorResyncComplete pod plane) s fun t => was ∉ t.dev.resyncPlanes
          ∧ (∀ key, ¬mine key → Memory.read t.mem key = Memory.read s.mem key) ∧ t.hart = h ∧ t.dev.units = s.dev.units
          ∧ ∀ (u : GrottoUnit) (k : Nat), s.dev.bad = [] → s.dev.units = [u] → u.pod = pod.val → u.lost = false → k < 65536 →
              ∀ sh, u.shadow = some sh → sh ≠ u.num →
              let o := u.num * 65536 + k
              (planeOf o = plane.val → Memory.read t.mem (gaOf (3840 + u.pod) o) = Memory.read s.mem (gaOf (3840 + u.pod) (mirrorOff sh o)))
              ∧ (planeOf (mirrorOff sh o) = plane.val →
                  Memory.read t.mem (gaOf (3840 + u.pod) (mirrorOff sh o)) = Memory.read s.mem (gaOf (3840 + u.pod) o))))
    ∧ (∀ (pod : Fin 4) (n : Nat), (∃ u ∈ s.dev.units, u.pod = pod.val ∧ u.num = n ∧ u.part = none) →
        let key := gaOf (3840 + pod.val) (n * 65536)
        let awaited := ∃ g ∈ s.hart :: s.harts, ∃ x ∈ g.sbuf, ∃ k ∈ x.target.rd :: x.target.wr, key ≤ k ∧ k < key + 65536
        (awaited → exec (.grottoUnitZero pod n) s = .next (later [.grottoUnitZero pod n] s)) ∧ (¬awaited → Completes (.grottoUnitZero pod n) s fun t =>
        (∀ a, key ≤ a → a < key + 65536 → Memory.read t.mem a = 0) ∧ SameMemBut key 65536 s t
        ∧ t.dev.units = s.dev.units.filter (fun u => !(u.pod == pod.val && u.num == n)) ∧ t.hart = h))
    ∧ (∀ (e off : Nat) (part : Fin 96) (bs : List Byte), 0 < bs.length → ep < 1024 → off + bs.length ≤ 0xD0000000000 →
        Completes (.remoteEndpointAccess (e, part) 0 off bs) s (fun t => t.hart = h ∧ t.mem = s.mem)
        ∧ (s.dev.capacity ≤ off → ∀ k, Completes (.remoteEndpointAccess (e, part) k off bs) s fun t => t.hart = h ∧ t.mem = s.mem
            ∧ { t.dev with ports := s.dev.ports } = s.dev)
        ∧ (e ≠ ep → off % 8 = 0 → off + 8 ≤ s.dev.capacity - s.dev.shroudArea → s.dev.bad = [] → s.dev.linksDown = [] → bs.length = 8 →
            (Completes (.remoteEndpointAccess (e, part) 3 off bs) s fun t =>
              peek (gaOf ep off) 8 t = (peek (gaOf ep off) 8 s + 2 ^ 64 - fieldAt bs 0 8) % 2 ^ 64 ∧ SameMemBut (gaOf ep off) 8 s t)
            ∧ Completes (.remoteEndpointAccess (e, part) 5 off bs) s fun t =>
              peek (gaOf ep off) 8 t = (peek (gaOf ep off) 8 s + fieldAt bs 0 8) % 2 ^ 64 ∧ SameMemBut (gaOf ep off) 8 s t)
        ∧ (e ≠ ep → off + bs.length ≤ s.dev.capacity - s.dev.shroudArea → s.dev.bad = [] → s.dev.linksDown = [] → Completes (.remoteEndpointAccess (e, part) 1 off bs) s
            fun t => Memory.reads t.mem (gaOf ep off) bs.length = bs ∧ SameMemBut (gaOf ep off) bs.length s t ∧ t.hart.x = h.x ∧ t.hart.pc = h.pc))
    ∧ (∀ (e pod k x : Nat) (part : Fin 96) (u : GrottoUnit), e < 1024 → e ≠ ep → pod < s.dev.pods → pod < 4 → s.dev.units = [u] → u.pod = pod → u.num < 2 ^ 25 →
        u.part = some part.val → u.shadow = none → u.lost = false → u.openat = true → k % 8 = 0 → k < 65536 → x < 2 ^ 64 →
        (pod, planeOf (u.num * 65536 + k)) ∉ s.dev.lostPlanes →
        let ga := gaOf (3840 + pod) (u.num * 65536 + k)
        Completes (.remoteEndpointAccess (e, part) 5 ga (leBytes 8 x)) s fun t =>
          peek ga 8 t = (peek ga 8 s + x) % 2 ^ 64 ∧ SameMemBut ga 8 s t ∧ t.hart = h)
    ∧ (∀ (va dest : Nat) (l : Leaf), walk s (BitVec.ofNat 64 va) 5 [5, 4, 3, 2, 1] (bitsOf h.ptbase.toNat 59 16 * 4096) = .ok l → l.size = 4096 →
        bitsOf l.pte 11 8 = 0 → bitAt l.pte 12 = false → dest % 4096 = 0 → va % 4096 = 0 → dest < 2 ^ 56 →
        Completes (.pageMigration h.id va dest []) s fun t =>
          match runPage (BitVec.ofNat 64 va) dest 4 4096 none s with
          | (some none, u) => bitsOf (peek l.first 8 t) 59 16 = dest / 4096 ∧ peek l.first 8 t % 2 ^ 16 = peek l.first 8 u % 2 ^ 16
              ∧ (u.Safe → SameMemBut l.first 8 u t) ∧ t.hart = u.hart
          | (some (some (_, _, f)), u) => t.mem = u.mem ∧ ∃ g : Trap, (u.hart.xferCount, g) ∈ t.hart.engFaults ∧ g.cause = f.cause
              ∧ g.engine = true
          | (none, u) => t.mem = u.mem ∧ t.hart = u.hart ∧ .pageMigration h.id va dest [] ∈ t.agenda)

/-- At a port that is up, a flit in sequence whose tag verifies under the live slot is accepted: SEQ advances, the
slot's counter rises by 1, a marker whose payload names the other slot frees the slot and makes the other one live,
CREDIT is added, and one flit is sent, an idle one where none waits (when one is sent, and that reserved bits are
not checked, is log entry 37). A flit already accepted is dropped; one that fails is asked for again on channel 3,
and after 8 retries the port goes down, with a link event of kind 1, no credits and nothing waiting (what waits for
another plane leaves by that: log entry 74). The sender sends again from the SEQ asked for, and counts the requests
for one flit so too. PORT_REKEY, also where the far end asks for it, takes the port down and gives both directions
fresh keys in slot 0 from counter 0 with an event of kind 3; PORT_UP brings a port up with one of kind 2. A key is
requested when the live counter has reached 2^48 - 2^20 and is installed in the free slot alone; at the sender a
marker is sent, or waits for a credit, and the live slot moves with it; a counter that has reached 2^48 - 2^16 takes
the port down for a re-key; below either bound the event does nothing. A time beacon raises TIME by a nanosecond
(log entry 6) toward the reference or leaves it. (14_fabric.md R318, 14_fabric.md R320, 14_fabric.md R321,
14_fabric.md R322, 23_faults_memory.md R429, 23_faults_memory.md R430, 23_faults_memory.md R431, 23_faults_memory.md
R432, 23_faults_memory.md R433) -/
def Obligations.FabricPortsAndKeys : Prop :=
  ∀ (s : State) (p : Fin 64),
    let x := s.dev.ports[p]
    let set : FabricPort → State → Prop := fun y t => t.dev = { s.dev with ports := s.dev.ports.set p y } ∧ t.hart = s.hart ∧ t.mem = s.mem
    let told : Nat → State → Prop := fun kind t => ∀ d, dieAt d t =
      if d ≠ p.val / 16 then dieAt d s else if 64 ≤ (dieAt d s).events.length then { dieAt d s with dropped := true }
      else { dieAt d s with events := (dieAt d s).events ++ [(true, Word.ofNat (kind + p.val * 256))] }
    let reset : FabricPort → State → Prop := fun y t => t.dev = { s.dev with ports := t.dev.ports } ∧ t.dev.ports[p] = y ∧ t.hart = s.hart
      ∧ t.mem = s.mem ∧ y.up = false ∧ y.queue = [] ∧ (∀ k : Fin 4, y.credits[k] = 0)
      ∧ ((∀ f ∈ x.queue, ∀ k, f.dest = some k → 3840 ≤ epOf k) → ∀ r : Fin 64, r ≠ p → t.dev.ports[r] = s.dev.ports[r])
    let down : Bool → State → Prop := fun rekey t => (∃ y, reset y t ∧ y.rekey = rekey)
      ∧ (rekey = true → .portRekey p ∈ t.agenda) ∧ (rekey = false → told 1 t)
    let slotOf : LinkDir → Fin 2 → LinkSlot := fun d k => if k = 0 then d.slot0 else d.slot1
    let sends : Prop := x.up = true ∧ (slotOf x.send x.send.live).counter < 0xFFFFFFFF0000
    (∀ flit : List Byte, flit.length = 256 → x.up = true →
        let live := slotOf x.recv x.recv.live
        let good := (fieldAt flit 1 1) % 2 = x.recv.live.val ∧ live.valid = true ∧
          Config.flitTag live.key (leBytes 4 live.salt ++ leBytes 8 live.counter) (flit.take 16) ((flit.drop 16).take 224) = flit.drop 240
        let named : Fin 2 := Fin.ofNat 2 (flit.getD 16 0 ^^^ Config.flitPad live.key (leBytes 4 live.salt ++ leBytes 8 live.counter) 0).toNat
        let moves := fieldAt flit 0 1 = 3 ∧ named ≠ x.recv.live ∧ (slotOf x.recv named).valid = true
        let credit := fun v : Fin 4 => x.credits[v] + if v.val = fieldAt flit 2 2 % 4 then fieldAt flit 2 2 / 4 % 256 else 0
        (fieldAt flit 8 8 < x.recv.seq → exec (.flitReceive p flit) s = .next s)
        ∧ (fieldAt flit 8 8 = x.recv.seq → good → x.send.seq < 2 ^ 64 → Completes (.flitReceive p flit) s fun t => ∃ y,
            t.dev = { s.dev with ports := s.dev.ports.set p y, ctxs := t.dev.ctxs } ∧ (fieldAt flit 0 1 ≠ 1 → t.dev.ctxs = s.dev.ctxs)
            ∧ t.hart = s.hart ∧ t.mem = s.mem ∧ y.up = true ∧ y.recv.seq = x.recv.seq + 1 ∧ y.recv.retries = 0 ∧ y.retryOut = none
            ∧ slotOf y.recv (1 - x.recv.live) = slotOf x.recv (1 - x.recv.live)
            ∧ (¬moves → y.recv.live = x.recv.live ∧ slotOf y.recv x.recv.live = { live with counter := live.counter + 1 })
            ∧ (moves → y.recv.live = named ∧ slotOf y.recv x.recv.live = { live with valid := false })
            ∧ (¬sends → y.send = x.send)
            ∧ (sends → y.send.seq = x.send.seq + 1 ∧ ∃ out, y.send.window.getLast? = some out ∧ fieldAt out 8 8 = x.send.seq
                ∧ (x.queue = [] → y.queue = [] ∧ fieldAt out 0 1 = 0 ∧ ∀ v : Fin 4, y.credits[v] = credit v)))
        ∧ (fieldAt flit 8 8 = x.recv.seq → ¬good → x.recv.fails.length < 15 →
            (x.recv.retries < 8 → Completes (.flitReceive p flit) s fun t => ∃ y, set y t ∧ y.up = true ∧ y.recv.seq = x.recv.seq
              ∧ y.recv.live = x.recv.live ∧ y.recv.slot0 = x.recv.slot0 ∧ y.recv.slot1 = x.recv.slot1 ∧ y.retryOut = some x.recv.seq
              ∧ y.recv.retries = x.recv.retries + 1
              ∧ (x.queue = [] → x.credits[3] = 0 → y.send = x.send ∧ y.queue = [{ type := 1, vc := 3, payload := leBytes 8 x.recv.seq }])
              ∧ (x.queue = [] → x.credits[3] ≠ 0 → sends → y.send.seq = x.send.seq + 1 ∧ y.queue = [] ∧ y.credits[3] = x.credits[3] - 1))
            ∧ (8 ≤ x.recv.retries → Completes (.flitReceive p flit) s (down false))))
    ∧ (∀ q : Nat, x.up = true → let n := if x.send.retrySeq = q then x.send.retries + 1 else 1
        (n ≤ 8 → Completes (.flitRetryRequest p q) s (set { x with send := { x.send with retrySeq := q, retries := n, resend := some q } }))
        ∧ (8 < n → Completes (.flitRetryRequest p q) s (down false)))
    ∧ (Completes (.portRekey p) s fun t => .portUp p ∈ t.agenda ∧ told 3 t ∧ ∃ y, reset y t ∧ y.rekey = false
        ∧ ∀ d ∈ [y.send, y.recv], d.live = 0 ∧ d.seq = 0 ∧ d.slot0.valid = true ∧ d.slot0.counter = 0 ∧ d.slot1.valid = false)
    ∧ (x.up = false → x.rekey = false → Completes (.portUp p) s fun t => set { x with up := true } t ∧ told 2 t)
    ∧ (let due' := x.up = true ∧ 0xFFFFFFF00000 ≤ (slotOf x.send x.send.live).counter ∧ x.send.requested = false
          ∧ (slotOf x.send (1 - x.send.live)).valid = false
       (due' → Completes (.keySwitchoverRequest p) s (set { x with send := { x.send with requested := true } }))
       ∧ (¬due' → exec (.keySwitchoverRequest p) s = .next s))
    ∧ (∀ (slot : Fin 2) (key salt : Nat), key < 2 ^ 256 → salt < 2 ^ 32 →
        let new : LinkSlot := { valid := true, key := key, salt := salt, counter := 0 }
        (slot ≠ x.recv.live → Completes (.linkKeyInstall p true slot key salt) s fun t => ∃ y, set y t ∧ slotOf y.recv slot = new
          ∧ slotOf y.recv x.recv.live = slotOf x.recv x.recv.live ∧ y.recv.live = x.recv.live ∧ y.send = x.send ∧ y.up = x.up)
        ∧ (slot = x.recv.live → Completes (.linkKeyInstall p true slot key salt) s (set x))
        ∧ (slot ≠ x.send.live → x.send.requested = true → Completes (.linkKeyInstall p false slot key salt) s fun t => ∃ y, set y t
            ∧ slotOf y.send slot = new ∧ y.send.requested = false ∧ y.recv = x.recv
            ∧ (x.queue = [] → x.credits[3] = 0 → y.send.live = x.send.live ∧ y.queue = [{ type := 3, vc := 3, payload := leBytes 1 slot.val }])
            ∧ (x.queue = [] → x.credits[3] ≠ 0 → sends → y.send.live = slot ∧ (slotOf y.send x.send.live).valid = false ∧ y.send.seq = x.send.seq + 1)))
    ∧ (x.up = true → 0xFFFFFFFF0000 ≤ (slotOf x.send x.send.live).counter → Completes (.keyCounterExhausted p) s (down true))
    ∧ (x.up = false ∨ (slotOf x.send x.send.live).counter < 0xFFFFFFFF0000 → exec (.keyCounterExhausted p) s = .next s)
    ∧ (∀ v : Nat, v < 2 ^ 64 → Completes (.timeBeacon v) s fun t => 
        t.dev = { s.dev with time := if s.dev.time.toNat < v then s.dev.time + 1 else s.dev.time }
        ∧ t.hart = s.hart ∧ t.mem = s.mem ∧ t.core = s.core)

/-- (Instants the rules bound only from one side, whom a message reaches and what a joining die keeps are log entry 42;
REEF with bits [63:12] not 0 changes nothing, R2, log entry 20.) For the die in focus: a change of its monitor's
limit or by REEF raises a solitary die's clock at once and lowers it 50 us later, or when an equal limit on its way
comes due; in a group it sends a reef notice where the own limit falls below the announced one. A notice lowers the
announced limit and the ceiling at its time, or on arrival when late, and a joining die keeps it. A die proposes a
shake-out only where its own limit exceeds the ceiling. A member answers a proposal with its own limit; the proposer
commits 20 us ahead once every member has answered, and the commit sets every announced limit and the ceiling to
their minimum, below the notices of later times that have applied or are due. Joining, leaving and a silence ended
never raise the ceiling; a silent member counts 800; every message counts as a heartbeat; an evicted member is
dropped by the side of the lowest member, and the other side becomes solitary (which side that is stays open while
the lowest member is silent, log entry 42). (14_fabric.md R325, 14_fabric.md R326, 14_fabric.md R327, 14_fabric.md
R328, 14_fabric.md R329, 14_fabric.md R330, 14_fabric.md R331, 14_fabric.md R332, 23_faults_memory.md R434,
11_isa_sync.md R276) -/
def Obligations.ClockGroupsFollowTheirRules : Prop :=
  ∀ (s : State) (m v : Nat),
    let D := s.die.id
    let c := s.die.clock
    let self := s.dev.devid * 4 + D
    let now := s.dev.time.toNat
    let own : Clock → Nat := fun k => min k.monitor (if k.reef = 0 then 2250 else k.reef)
    let clamp : Nat → Nat := fun v => max 800 (min 2250 (v / 25 * 25))
    let others : (Nat → Instr) → State → Prop := fun f t => ∀ d < 4, d ≠ D → c.gid ≠ 0 → (dieAt d s).clock.gid = c.gid → f d ∈ t.agenda
    let known := fun (k : Clock) n a => k.members.find? (·.num == n) = some { num := n, limit := a }
    let event := fun (w : Nat) (t : State) => t.die.events = if 64 ≤ s.die.events.length then s.die.events else s.die.events ++ [(false, Word.ofNat w)]
    let lowered := fun (k : Clock) (a : Nat) => { k with members := k.members.map (fun x => if x.num = m then { x with limit := a } else x), freq := min k.freq v }
    let like := fun (a b : Clock) => { a with sent := b.sent, applied := b.applied } = b
    let quiet := fun (n : Nat) => ∀ x ∈ c.sent, x.1 = m → x.2 + n ≤ now
    let acts : Instr → (State → Prop) → Prop := fun i P => Completes i s fun t =>
      P t ∧ t.hart = s.hart ∧ t.mem = s.mem ∧ { t.dev with timers := s.dev.timers, ports := s.dev.ports } = s.dev
    let timer : Nat → Instr → State → Prop := fun n i t => (n, i) ∈ t.dev.timers
    let heard : State → Prop := fun t => ∃ x ∈ t.die.clock.sent, x.1 = m ∧ timer (x.2 + 200000) (.memberSilence D m) t
      ∧ timer (x.2 + 1000000) (.memberEviction D m) t
    let follows : Clock → State → Prop := fun k t =>
      (k.gid = 0 → (k.freq ≤ own k → like t.die.clock { k with freq := own k, pending := [] })
        ∧ (own k < k.freq → (∀ x ∈ k.pending, x.1 ≠ own k) →
            like t.die.clock { k with pending := (k.pending.filter fun x => decide (own k ≤ x.1)) ++ [(own k, now + 50000)] }
            ∧ timer (now + 50000) (.solitaryLimitEffective D) t)
        ∧ (own k < k.freq → (∃ x ∈ k.pending, x.1 = own k) → like t.die.clock { k with pending := k.pending.filter fun x => decide (own k ≤ x.1) }))
      ∧ (∀ a, k.gid ≠ 0 → known k self a → (a ≤ own k → like t.die.clock k) ∧ (own k < a → timer (now + 50000) (.reefNoticeEffective D) t
          ∧ like t.die.clock { k with
              notices := k.notices ++ [{ member := self, value := own k, time := now + 50000 }]
              shake := k.shake.map fun sh => if sh.commit ≠ none then sh else
                { sh with answers := sh.answers.map fun x => if x.1 = self then (self, min x.2 (own k)) else x } }
          ∧ others (fun d => .reefNotice d self (own k) (now + 50000)) t))
    acts (.ownLimitChange D v) (follows { c with monitor := clamp v })
    ∧ (∀ a : Fin 32, Alone s → s.hart.priv ≠ .u →
        let n := (rx a s).toNat
        let k := { c with reef := if n = 0 then 0 else clamp n }
        (4096 ≤ n → Completes (.reef a) s fun t => Done [] id s t ∧ t.mem = s.mem ∧ SameRest s t) ∧
        (n < 4096 → Completes (.reef a) s fun t => Done [] id s t ∧ t.mem = s.mem
          ∧ { t.dev with timers := s.dev.timers, ports := s.dev.ports } = s.dev ∧ t.die.clock.reef = k.reef
          ∧ (c.gid = 0 ∨ own k ≤ c.freq → follows k t)
          ∧ (∀ b, c.gid ≠ 0 → c.freq < own k → known c self b → c.shake = none → t.die.clock.shake.isSome = true)))
    ∧ (∀ T, c.gid = 0 → c.pending = [(v, T)] → acts (.solitaryLimitEffective D) fun t =>
        t.die.clock = if T ≤ now then { c with freq := min c.freq v, pending := [] } else c)
    ∧ (∀ T, c.joining ≠ none → acts (.reefNotice D m v T) fun t =>
        t.die.clock = { c with notices := c.notices ++ [{ member := m, value := v, time := T }] })
    ∧ (∀ a T, known c m a → c.joining = none → m ∉ c.silent → c.shake = none → acts (.reefNotice D m v T) fun t => heard t
        ∧ (T ≤ now → like t.die.clock (lowered c (min a v)))
        ∧ (now < T → timer T (.reefNoticeEffective D) t ∧ like t.die.clock { c with notices := c.notices ++ [{ member := m, value := v, time := T }] }))
    ∧ (∀ a T, known c m a → c.joining = none → T ≤ now → c.notices = [{ member := m, value := v, time := T }] → (∀ sh n, c.shake = some sh → sh.commit = some n → T ≤ n) →
        acts (.reefNoticeEffective D) fun t => like t.die.clock (lowered { c with notices := [] } (min a v)) ∧ t.die.clock.sent = c.sent)
    ∧ (own c ≤ c.freq → acts (.shakeoutProposal D self) fun t => t.die.clock = c)
    ∧ (∀ a, known c m a → m ∉ c.silent → m ≠ self → c.gid ≠ 0 → c.joining = none → c.shake = none → acts (.shakeoutProposal D m) fun t =>
        heard t ∧ like t.die.clock { c with shake := some { proposer := m, answers := [(self, own c)], commit := none } }
        ∧ (m / 4 = s.dev.devid → .shakeoutAnswer (m % 4) self (own c) ∈ t.agenda))
    ∧ (∀ a as, known c m a → m ∉ c.silent → c.shake = some { proposer := self, answers := as, commit := none } →
        let all := (m, v) :: as.filter (·.1 != m)
        let done := ∀ x ∈ c.members, ∃ y ∈ all, y.1 = x.num
        acts (.shakeoutAnswer D m v) fun t => (done → like t.die.clock { c with shake := some { proposer := self, answers := all, commit := some (now + 20000) } }
            ∧ timer (now + 20000) (.shakeoutCommitEffective D) t ∧ others (fun d => .shakeoutCommit d (now + 20000) all) t)
          ∧ (¬done → like t.die.clock { c with shake := some { proposer := self, answers := all, commit := none } }))
    ∧ (∀ T vs, c.gid ≠ 0 → acts (.shakeoutCommit D T vs) fun t => timer T (.shakeoutCommitEffective D) t
        ∧ ∃ sh, like t.die.clock { c with shake := some sh, silent := t.die.clock.silent } ∧ sh.commit = some T ∧ sh.answers = vs)
    ∧ (∀ sh T, c.shake = some sh → sh.commit = some T → T ≤ now → c.gid ≠ 0 → c.joining = none → (sh.answers.map (·.1)).Nodup → acts (.shakeoutCommitEffective D) fun t =>
        t.die.clock.shake = none ∧ (∀ x ∈ t.die.clock.members, t.die.clock.freq ≤ x.limit)
        ∧ ((∀ n ∈ c.notices, now < n.time) → (∀ n ∈ c.applied, n.time ≤ T) →
            t.die.clock.members = c.members.map (fun x => { x with limit := ((sh.answers.find? (·.1 == x.num)).map (·.2)).getD x.limit })
            ∧ (t.die.clock.freq = 2250 ∨ ∃ x ∈ t.die.clock.members, x.limit = t.die.clock.freq))
        ∧ (∀ n b, known t.die.clock n.member b → (n ∈ c.notices ∧ n.time ≤ now) ∨ (n ∈ c.applied ∧ T < n.time) → b ≤ n.value ∧ t.die.clock.freq ≤ n.value)
        ∧ (∀ a, known t.die.clock self a → own c < a → others (fun d => .reefNotice d self (own c) (now + 50000)) t))
    ∧ acts (.heartbeatSend D) (fun t => (c.gid ≠ 0 → timer (now + 20000) (.heartbeatSend D) t) ∧ others (fun d => .heartbeat d self (own c)) t ∧ t.die.clock.freq = c.freq ∧ t.die.clock.members = c.members)
    ∧ (∀ a, known c m a → acts (.heartbeat D m v) fun t => heard t ∧ (m ∉ c.silent → t.die.clock.members = c.members ∧ t.die.clock.freq = c.freq)
        ∧ (m ∈ c.silent → m ∉ t.die.clock.silent ∧ t.die.clock.members = (lowered c v).members ∧ t.die.clock.freq = min c.freq v))
    ∧ (c.gid ≠ 0 → c.joining = none → (∀ x ∈ c.members, x.num ≠ m) → m ∉ c.silent → v ≠ 0 → c.members.length < 256 → acts (.joinRequest D m v) fun t =>
        heard t ∧ like t.die.clock { c with members := c.members ++ [{ num := m, limit := c.freq }] }
        ∧ ((∀ x ∈ c.members, self ≤ x.num) → m / 4 = s.dev.devid →
            .joinAnswer (m % 4) c.freq (c.members.map fun x => (x.num, x.limit)) (c.notices.map fun n => (n.member, n.value, n.time))
              (c.shake.map fun k => (k.proposer, k.answers, k.commit)) ∈ t.agenda))
    ∧ (∀ ms : List (Nat × Nat), c.joining ≠ none → c.gid ≠ 0 → c.silent = [] → (∀ x ∈ ms, x.1 ≠ self) → acts (.joinAnswer D v ms [] none) fun t =>
        follows { c with joining := none, freq := v, members := (ms.map fun x => { num := x.1, limit := x.2 }) ++ [{ num := self, limit := v }]
                         notices := c.notices.eraseDups } t)
    ∧ (c.joining ≠ none → acts (.joinTimeout D) fun t => t.die.clock.joining = none ∧ t.die.clock.freq = own c
        ∧ t.die.clock.members = [{ num := self, limit := own c }] ∧ event (self % 4096 + 2 * 4096) t)
    ∧ (c.shake = none → acts (.leaveMessage D m) fun t =>
        like t.die.clock { c with members := c.members.filter (·.num != m), notices := c.notices.filter (·.member != m), silent := c.silent.filter (· != m) }
        ∧ t.die.clock.sent = c.sent)
    ∧ (∀ a, known c m a → m ≠ self → quiet 200000 → acts (.memberSilence D m) fun t => m ∈ t.die.clock.silent ∧ t.die.clock.freq = min c.freq 800
        ∧ t.die.clock.members = c.members.map (fun x => if x.num = m then { x with limit := 800 } else x))
    ∧ (∀ a, known c m a → m ≠ self → quiet 1000000 →
        ((∀ x ∈ c.members, m ≤ x.num) → acts (.memberEviction D m) fun t => t.die.clock.gid = 0 ∧ t.die.clock.members = []
          ∧ t.die.clock.freq = own c ∧ event (self % 4096) t)
        ∧ (∀ x ∈ c.members, x.num < m → (∀ y ∈ c.members, x.num ≤ y.num) → x.num ∈ c.silent → acts (.memberEviction D m) fun t =>
          t.die.clock = c ∧ .memberEviction D m ∈ t.agenda)
        ∧ (∀ x ∈ c.members, x.num < m → (∀ y ∈ c.members, x.num ≤ y.num) → x.num ∉ c.silent → acts (.memberEviction D m) fun t =>
          t.die.clock.members = c.members.filter (·.num != m) ∧ t.die.clock.freq = c.freq ∧ event (m % 4096 + 4096) t
          ∧ ∀ b, known c self b → c.gid ≠ 0 → c.shake = none → (∀ x ∈ c.members, x.num ≠ m → self ≤ x.num) → t.die.clock.shake.isSome = true))
    ∧ (∀ b x, known c self b → m = self → x ∈ c.members → x.num < self → (∀ y ∈ c.members, y.num ≠ self → ∀ z ∈ c.sent, z.1 = y.num → z.2 + 1000000 ≤ now) →
        acts (.memberEviction D m) fun t => t.die.clock.gid = 0 ∧ t.die.clock.members = [] ∧ t.die.clock.freq = own c ∧ event (self % 4096) t)

/-- For a well-formed request at the head of the mailbox, whose DONE lies where no counter can (the command window; for
another DONE the last clause says what the answer does to its counter): ATTEST answers the report of R339; CTXOPEN
opens a context with the policy's owners and lists and a fresh id; CTXSHARE keeps the share of the owner whose
signature verifies; CTXEND makes the context ending, and its keys, worlds and tables go once no hart uses it; WBIND
binds a world to an open context, whose flag the harts in the world take at once; CTXEXPORT makes the context
exported, and CTXACCEPT installs one whose package verifies, is admitted and has not expired; the confirmation goes
out on channel 3, and again until acknowledged, and moves the context at its source. FWSTAGE stages a signed image
whose version is not lower; FWACT starts the activation, whose end comes by a timer (after how long and how is log
entry 75) and replaces digest and version or leaves them. A device reset leaves what R349 keeps, takes the firmware
of the active bank and the configuration blocks that verify, and clears the rest (payload layouts: log entry 36;
what a reset keeps or zeroes: log entries 40 and 3). (15_trust.md R337, 15_trust.md R338, 15_trust.md R339,
15_trust.md R340, 15_trust.md R341, 15_trust.md R342, 15_trust.md R343, 15_trust.md R348, 15_trust.md R349,
23_faults_memory.md R437, 23_faults_memory.md R438, 23_faults_memory.md R439) -/
def Obligations.TrustRequestsAreServed : Prop :=
  ∀ (s : State) (q : Fin 16), s.Safe →
    let D := s.dev
    let base := mailKey s q.val 0
    let f := fun off n => peek (base + off) n s
    let P := Memory.reads s.mem (base + 64) (f 0x0C 4)
    let at' := fieldAt P
    let noCounter := epOf (f 0x10 8) < 1024 ∧ within (offOf (f 0x10 8)) windowOff 0x10000000 = true
    let ready : Nat → Prop := fun cmd => D.mailbox.head? = some q ∧ f 0x08 2 = cmd ∧ f 0x0C 4 ≤ 4032 ∧ peek (base + 0x20) 32 s = 0 ∧ noCounter
    let answeredAs : Hart → Nat → List Byte → State → Prop := fun k status out t => t.hart = k ∧ t.dev.mailbox = D.mailbox.filter (· != q)
      ∧ peek (base + 0x0A) 2 t = status ∧ Memory.reads t.mem (base + 64) out.length = out ∧ SameMemBut base 4096 s t
    let answered := answeredAs s.hart
    let flagged : State → Hart := fun t => { s.hart with ct := worldCt t s.hart.world.val }
    let answers : Instr → Nat → List Byte → Prop := fun i status out =>
      exec i s = .next (answerSlot q status out s) ∧ answered status out (answerSlot q status out s)
    let id := BitVec.ofNat 64 (f 0x18 8)
    let x := D.ports[0]
    let sent : BitVec 64 → State → Prop := fun i t => (D.time.toNat + 100000, .confirmationResend i.toNat) ∈ t.dev.timers
      ∧ (x.queue = [] → x.credits[3] = 0 → ∃ sig, t.dev.ports[0].queue = [{ type := 1, vc := 3, payload := leBytes 8 1 ++ leBytes 8 i.toNat ++ sig }]
          ∧ sig = padTo 64 (Config.sm2Sign (identityPrivate D) (confirmDigest i)))
    let named : Context → CtxState → Prop := fun c st => D.ctxs = [c] ∧ c.id = id ∧ c.state = st
    (ready 1 → D.firmware.activating = none → (measurements s).length ≤ 96 → ∃ out, answers (.attest q) 0 out
        ∧ out.take 32 = (P.take 32 ++ List.replicate 32 0).take 32 ∧ (out.drop 32).take 32 = Config.sm3 (identityPublic D)
        ∧ fieldAt out 0x40 8 = D.time.toNat ∧ fieldAt out 0x48 2 = (measurements s).length ∧ fieldAt out 0x4A 2 = 0
        ∧ (out.drop 0x70).take (32 * (measurements s).length) = (measurements s).flatMap (fun x => x)
        ∧ out.drop (out.length - 64) = Config.sm2Sign (identityPrivate D) (Config.sm3 (out.take (out.length - 64))))
    ∧ (∀ (g : List Byte) (v : Nat) (r : Fin 16), q ∈ D.mailbox → f 0x08 2 = 1 → f 0x0C 4 ≤ 4032 → peek (base + 0x20) 32 s = 0 → noCounter →
        D.firmware.activating = some (g, v, r) → g.length = 32 → ∃ out, answers (.attest q) 1 out ∧ fieldAt out 0x4A 2 = 1 ∧ (out.drop 0x50).take 32 = g)
    ∧ (ready 2 → P.length = 0x48 + 32 * (at' 0x40 2 + at' 0x42 2) → D.ctxs.length < 2 ^ 63 → Completes (.ctxopen q) s fun t => answered 0 [] t ∧
        ∃ c, t.dev.ctxs = D.ctxs ++ [c] ∧ c.id ≠ 0 ∧ (∀ x ∈ D.ctxs, x.id ≠ c.id) ∧ peek (base + 0x18) 8 t = c.id.toNat ∧ c.state = .opened
          ∧ c.shareM = none ∧ c.shareD = none ∧ c.modelOwner = P.take 32 ∧ c.dataOwner = (P.drop 32).take 32
          ∧ c.leaves.length = at' 0x40 2 ∧ c.peers.length = at' 0x42 2)
    ∧ (∀ c : Context, ready 3 → named c .opened → c.modelOwner ≠ c.dataOwner → c.shareM = none ∨ c.shareD = none →
        let o := Config.sm3 (P.take 64)
        let ok := Config.sm2Verify (P.take 64) (Config.sm3 (P.drop 128)) ((P.drop 64).take 64)
        let share := (Config.sm2Decrypt (identityPrivate D) (P.drop 128)).filter (·.length == 32)
        (o ≠ c.modelOwner → o ≠ c.dataOwner → answers (.ctxshare q) 6 [])
        ∧ (o = c.modelOwner ∨ o = c.dataOwner →
            if ok = false ∨ share = none then answers (.ctxshare q) 3 []
            else Completes (.ctxshare q) s fun t => answered 0 [] t
              ∧ t.dev.ctxs = [if o = c.modelOwner then { c with shareM := share } else { c with shareD := share }]))
    ∧ (∀ c : Context, ready 4 → (named c .opened → Completes (.ctxend q) s fun t => answered 0 [] t ∧ t.dev.ctxs = [{ c with state := .ending }]
          ∧ .contextErase id.toNat ∈ t.agenda)
        ∧ (named c .ended → answers (.ctxend q) 5 []))
    ∧ (∀ c : Context, named c .ending → (∀ h ∈ s.hart :: s.harts, h.bound = false) → Completes (.contextErase id.toNat) s fun t =>
        t.dev.ctxs = [{ c with shareM := none, shareD := none, state := .ended }] ∧ (∀ w ∈ t.dev.worlds, w.ctx ≠ id) ∧ t.hart = s.hart ∧ t.mem = s.mem
        ∧ ∀ (w : WorldBind) (k : Fin 4), w ∈ D.worlds → w.ctx = id → s.core.tables[k].world = w.world → t.core.tables[k].valid = false)
    ∧ (∀ c : Context, ready 5 → P.length = 16 → D.ctxs = [c] → c.id = BitVec.ofNat 64 (at' 8 8) → c.state = .opened → at' 0 1 ≠ 0 → at' 1 1 ≤ 1 →
        Completes (.wbind q) s fun t => answeredAs (flagged t) 0 [] t ∧ (s.hart.world.val = at' 0 1 → t.hart.ct = (at' 1 1 == 1))
          ∧ t.dev.worlds = { world := at' 0 1, ctx := c.id, ct := at' 1 1 == 1 } :: D.worlds.filter (·.world != at' 0 1))
    ∧ (∀ c : Context, ready 6 → named c .opened → (∀ h ∈ s.hart :: s.harts, h.bound = false) →
        let body := (Config.packageBody (P.take 64) (packageOf s c (D.time.toNat + 10000000000))).toList
        (Config.sm3 (P.take 64) ∈ c.peers → Completes (.ctxexport q) s fun t =>
            t.dev.ctxs = [{ c with shareM := none, shareD := none, state := .exported, dest := P.take 64 }]
            ∧ ∃ pub sig, pub.length = 64 ∧ sig.length = 64 ∧ answered 0 (pub ++ sig ++ body) t)
        ∧ (Config.sm3 (P.take 64) ∉ c.peers → answers (.ctxexport q) 6 []))
    ∧ (ready 7 → let ok := Config.sm2Verify (P.take 64) (Config.sm3 (P.drop 128)) ((P.drop 64).take 64)
        match if ok then Config.sm2Decrypt (identityPrivate D) (P.drop 128) else none with
        | none => answers (.ctxaccept q) 3 []
        | some bs =>
          let c := ctxOfPackage bs
          if Config.sm3 (P.take 64) ∉ c.peers ∨ Config.sm3 (identityPublic D) ∉ c.peers then answers (.ctxaccept q) 6 []
          else if fieldAt bs 8 8 ≤ D.time.toNat then answers (.ctxaccept q) 8 []
          else (∀ x ∈ D.ctxs, x.id ≠ c.id) → Completes (.ctxaccept q) s fun t => answeredAs (flagged t) 0 [] t ∧ c.id.toNat = fieldAt bs 0 8
            ∧ t.dev.ctxs = D.ctxs ++ [c] ∧ c.state = .opened ∧ c.unconfirmed = true ∧ sent c.id t)
    ∧ (∀ (c : Context) (sig : List Byte), named c .exported →
        (if Config.sm2Verify c.dest (confirmDigest id) sig then Completes (.migrationConfirmation id.toNat sig) s fun t =>
            t.dev.ctxs = [{ c with state := .moved }] ∧ t.hart = s.hart ∧ t.mem = s.mem
            ∧ (x.queue = [] → x.credits[3] = 0 → t.dev.ports[0].queue = [{ type := 1, vc := 3, payload := leBytes 8 2 ++ leBytes 8 id.toNat }])
          else exec (.migrationConfirmation id.toNat sig) s = .next s)
        ∧ (c.unconfirmed = true → Completes (.confirmationResend id.toNat) s fun t => sent id t ∧ t.hart = s.hart ∧ t.mem = s.mem)
        ∧ (c.unconfirmed = false → exec (.confirmationResend id.toNat) s = .next s))
    ∧ (ready 8 → P.length = 16 → 72 ≤ at' 8 8 → at' 0 8 + at' 8 8 ≤ D.capacity →
        let img := Memory.reads s.mem (D.devid * 2 ^ 44 + at' 0 8) (at' 8 8)
        let body := img.take (img.length - 64)
        let ok := Config.sm2Verify Config.felmundPublic (Config.sm3 body) (img.drop (img.length - 64))
        if ok = false then answers (.fwstage q) 3 []
        else if fieldAt body 4 4 < D.firmware.version then answers (.fwstage q) 4 []
        else Completes (.fwstage q) s fun t => answered 0 (Config.sm3 body) t
          ∧ t.dev.firmware = { D.firmware with staged := some (Config.sm3 body, fieldAt body 4 4), other := img })
    ∧ (∀ (g : List Byte) (v : Nat), ready 9 → D.firmware.activating = none → D.firmware.staged = some (g, v) → g.length = 32 →
        (P.take 32 = g → Completes (.fwact q) s fun t => t.dev.firmware = { D.firmware with activating := some (g, v, q), staged := none }
          ∧ (∃ n ok, (n, .fwActivationComplete ok) ∈ t.dev.timers ∧ D.time.toNat ≤ n)
          ∧ t.dev.mailbox = D.mailbox.filter (· != q) ∧ t.hart = s.hart ∧ t.mem = s.mem)
        ∧ (P.take 32 ≠ g → answers (.fwact q) 7 []))
    ∧ (∀ (g : List Byte) (v : Nat) (ok : Bool), D.firmware.activating = some (g, v, q) → noCounter → Completes (.fwActivationComplete ok) s fun t =>
        t.dev.firmware = (if ok then { D.firmware with running := g, version := max v D.firmware.version, bank := D.firmware.other,
                                                         other := D.firmware.bank, activating := none, waiting := [] }
          else { D.firmware with activating := none, waiting := [] })
        ∧ (∀ r ∈ D.firmware.waiting, r ≠ q → r ∈ t.dev.mailbox ∧ .fwact r ∈ t.agenda)
        ∧ peek (base + 0x0A) 2 t = (if ok then 0 else 9) ∧ SameMemBut base 4096 s t ∧ t.hart = s.hart)
    ∧ (∀ (g : Target) (s1 : State) (k st : Nat) (out : List Byte), counterTarget s 96 .atomic (f 0x10 8) = .ok (g, s1) → g.wr = [k] → g.e2e = [] →
        s.dev.bad = [] → s.dev.linksDown = [] → s.dev.silentEndpoints = [] → inKeyStore k = false → k + 8 ≤ base ∨ base + 4096 ≤ k → (∀ i < 8, ¬inPartBlock s (k + i)) →
        peek k 8 (answerSlot q st out s) = (peek k 8 s + 2 ^ 64 - 1) % 2 ^ 64 ∧ (answerSlot q st out s).hart.x = s.hart.x)
    ∧ Completes .deviceReset s (fun t => t.hart = State.reset.hart ∧ t.core = State.reset.core ∧ t.harts = [] ∧ t.cores = [] ∧ t.dev.ctxs = []
        ∧ t.dev.worlds = [] ∧ t.dev.shrouds = [] ∧ t.dev.heads = [] ∧ t.dev.launches = [] ∧ t.dev.tlb = [] ∧ t.dev.mailbox = []
        ∧ t.dev.resets = D.resets + 1 ∧ t.dev.devid = D.devid ∧ t.dev.capacity = D.capacity
        ∧ (let img := D.firmware.bank
           let body := img.take (img.length - 64)
           let ok := Config.sm2Verify Config.felmundPublic (Config.sm3 body) (img.drop (img.length - 64)) = true ∧ D.firmware.version ≤ fieldAt body 4 4
           t.dev.firmware = { D.firmware with staged := none, activating := none, waiting := [],
                                              running := if ok then Config.sm3 body else D.firmware.running })
        ∧ (∀ d < 4, (dieAt d t).clock.gid = t.dev.bootGroups.getD d 0) ∧ (D.flash = [] → t.dev.bootGroups = D.bootGroups)
        ∧ (∀ type, counterOf D type ≤ counterOf t.dev type) ∧ t.versions = [] ∧ t.dev.time = Config.timeAtLock (D.resets + 1)
        ∧ (∀ p : Fin 64, ∀ d ∈ [t.dev.ports[p].send, t.dev.ports[p].recv], d.live = 0 ∧ d.slot0.valid = true ∧ d.slot0.counter = 0 ∧ d.slot1.valid = false)
        ∧ ∀ key, Memory.read t.mem key = if key < 2 ^ 56 ∧ epOf key ≠ D.devid then Memory.read s.mem key else 0)

/-- X0 reads as zero in every state; a write to Xd makes Xd read as written where d is not 0 and changes no other
register; a write to X0 changes nothing. Whatever next state a register-register or immediate instruction, LUI,
AUIPC, branch, JAL, JALR, LOOP, MVLC, FENCE.VS, FENCE.VV or FENCE.ALL answers, every X register but its destination
(none for a branch, LOOP, MVLC and FENCE) reads as before, every status, control, trap, vector, ciphertext and
special register of the hart, the other harts, the cores, the dies and the device are unchanged, and so is every
byte of memory. FENCE.SV, with no access put off, may join the vector queue and changes no other register, no memory
and nothing else of the device. A scalar load so changes no memory outside the span entry that its translation
marks, where no access was put off. (07_isa_scalar.md R157, 07_isa_scalar.md R158, 07_isa_scalar.md R159,
07_isa_scalar.md R164) -/
def Obligations.ScalarFrame : Prop :=
  (∀ (s : State) (d r : Fin 32) (v : Word),
    rx 0 s = 0 ∧ wx 0 v s = s ∧ rx r (wx d v s) = (if r = d ∧ d ≠ 0 then v else rx r s)
    ∧ (wx d v s).hart.pc = s.hart.pc ∧ SameHart s.hart (wx d v s).hart ∧ SameRest s (wx d v s) ∧ (wx d v s).mem = s.mem)
  ∧ ∀ (s t : State) (d a b : Fin 32) (i : Fin 32768) (u : Fin 1048576) (h : Fin 64) (sc : Fin 8) (k : Fin 2),
    let frame : List (Fin 32) → Prop := fun ds => SameXBut ds s t ∧ SameHart s.hart t.hart ∧ SameRest s t ∧ t.mem = s.mem
    (∀ j ∈ [Instr.add d a b, .sub d a b, .and d a b, .or d a b, .xor d a b, .sll d a b, .srl d a b, .sra d a b, .slt d a b, .sltu d a b,
            .min d a b, .max d a b, .minu d a b, .maxu d a b, .mul d a b, .mulh d a b, .mulhu d a b, .div d a b, .divu d a b, .rem d a b,
            .remu d a b, .clz d a, .popc d a, .ctz d a, .addi d a i, .andi d a i, .ori d a i, .xori d a i, .slti d a i, .sltiu d a i,
            .slli d a h, .srli d a h, .srai d a h, .lui d u, .auipc d u, .jal d u, .jalr d a i], exec j s = .next t → frame [d])
    ∧ (∀ j ∈ [Instr.beq a b i, .bne a b i, .blt a b i, .bge a b i, .bltu a b i, .bgeu a b i, .loop k a i, .mvlc k a, .fenceVs sc,
               .fenceVv sc, .fenceAll sc], exec j s = .next t → frame [])
    ∧ (s.hart.sbuf = [] → s.hart.lend = none → exec (.fenceSv sc) s = .next t →
        SameXBut [] s t ∧ SameHart s.hart { t.hart with vq := s.hart.vq } ∧ SameRest s t ∧ t.mem = s.mem)
    ∧ ∀ (l : Leaf) (o : Fin 4096), s.Safe → s.hart.sbuf = [] →
        let va := Word.ofInt ((rx a s).toNat + if o.val < 2048 then (o.val : Int) else (o.val : Int) - 4096)
        s.dev.bad = [] → s.dev.linksDown = [] → canonical va.toNat = true → inWindow va.toNat = false → inAperture va.toNat = false →
        findLeaf s (reqOf s .load .scalar .clears) va = .ok (l, true) → bitAt l.pte 12 = false →
        ∀ j ∈ [Instr.ldb d a o, .ldh d a o, .ldw d a o, .ldd d a o, .ldbu d a o, .ldhu d a o, .ldwu d a o], exec j s = .next t →
          SameMemBut l.first 8 s t

/-- Once TIME has moved, a step is the first timer whose TIME has come; else, unless events are put off, the oldest
event of the agenda (that order, and whose turn it is, are the model's choice, log entry 1), its energy charged to
whom it is done for. With none, the hart whose turn it is bound, its vector queue and replies empty, no engine fault
or asynchronous cause due, a token left and nothing lent: the word that a permitted fetch finds at its pc, where the
instruction cache holds none (log entry 5), with E = 1, is executed if it decodes to an instruction, the state being
that after the fetch and the issue being charged (the core's pointer and tokens and the energies alone change),
accesses put off being performed before and after as log entry 72 says; if it decodes to none, cause 0x01 is raised
with the word and its reason; a fetch refused raises its trap. Where that finds a fault of the vector side before
the scalar side has issued three convoys beyond it, the scalar side has the turn running ahead instead (log entry
76). TIME never decreases; a pending event or pre-emption sets the latch of its hart (R175), and nothing else of a
hart changes as the clock moves. (02_execution.md R57, 13_scheduling.md R308, 20_faults_execution.md R443,
20_faults_execution.md R387, 06_encoding.md R137, 14_fabric.md R322, 13_scheduling.md R311, 07_isa_scalar.md R175,
20_faults_execution.md R381) -/
def Obligations.StepRunsTheDecodedInstruction : Prop :=
  (∀ (s : State) (n : Nat) (e : Instr) (ts : List (Nat × Instr)),
      let c := clockTick s
      c.dev.timers = (n, e) :: ts → n ≤ c.dev.time.toNat → step s = exec e (chargeEvent e { c with dev := { c.dev with timers := ts } }))
  ∧ (∀ (s : State) (e : Instr) (es : List Instr), (∀ x ∈ (clockTick s).dev.timers, (clockTick s).dev.time.toNat < x.1) →
      (clockTick s).agenda = e :: es → (clockTick s).defer = 0 → step s = exec e (chargeEvent e { clockTick s with agenda := es }))
  ∧ (∀ (s : State) (ts : List Nat), (∀ x ∈ (clockTick s).dev.timers, (clockTick s).dev.time.toNat < x.1) →
      (clockTick s).agenda = [] ∨ (clockTick s).defer ≠ 0 → s.turns = s.hart.id :: ts → s.hart.bound = true → s.hart.retiring = false →
      let c := coreTick { clockTick s with turns := ts, defer := (clockTick s).defer - 1 }
      let v := if c.hart.ahead then c else performBuffered c
      let o := turnAs v
      step s = if tooSoon v o then turnAs (runsOn v) else if v.hart.lag = 0 ∨ v.hart.ahead = true then o
        else mapNext (fun t => t.onHart fun h => { h with lag := 0 }) o)
  ∧ (∀ (v : State) (o : Out), tooSoon v o = true ↔ v.hart.ahead = false ∧ v.hart.lag < 3 ∧ v.hart.held = none
      ∧ ∃ t, o = .next t ∧ t.hart.id = v.hart.id ∧ t.hart.held ≠ none ∧ (trapRegs t.hart.priv t.hart).tcause.getLsbD 15 = true
          ∧ (trapRegs t.hart.priv t.hart).tcause.getLsbD 14 = false)
  ∧ (∀ v : State, v.hart.replies = [] → v.hart.vq = [] → v.core.tokens ≠ 0 → v.hart.lend = none → v.hart.echo = none →
      engineDue v = false → asyncDue v = none → v.hart.pc.toNat % 4 = 0 →
      (∀ (t : Target) (u0 : State), Passes .fetch .scalar .neither 4 v.hart.pc v t u0 → t.plain → (∀ x ∈ u0.core.icache, x.1 ≠ t.rd) →
        let w := t.value 4 u0
        let u := { u0 with core := { u0.core with icache := ((t.rd, w) :: u0.core.icache).take 32768 } }
        w.testBit 31 = true →
        (∀ i, decode (bytesOfWord 4 w) = .ok (i, []) → stepsPast i = false →
          turnAs v = mapNext bufferedAtWait (mapNext charge (exec i (bufferedBefore [i] u))))
        ∧ (∀ e, decode (bytesOfWord 4 w) = .error e → ∃ reason,
          turnAs v = .next (bufferedAtWait (raise { cause := 1, tval := Word.ofNat (w + reason * 2 ^ 32) } u))))
      ∧ (∀ tr d, reach { reqOf v .fetch .scalar .neither with bytes := 4 } v.hart.pc v = .error (.trap tr d) →
          turnAs v = .next (bufferedAtWait (raise tr v))))
  ∧ (∀ t : State, t.hart.sbuf = [] → (∀ i, bufferedBefore [i] t = t) ∧ bufferedAtWait t = t ∧ performBuffered t = t)
  ∧ (∀ t : State, let c := clockTick t
      c.core = t.core ∧ c.mem = t.mem ∧ c.defer = t.defer ∧ c.dev.timers = t.dev.timers ∧ t.dev.time.toNat ≤ c.dev.time.toNat
      ∧ c.hart = { t.hart with latch := c.hart.latch } ∧ (t.hart.latch = true → c.hart.latch = true)
      ∧ (t.hart.bound = true → t.hart.ie = true → t.hart.preq = true ∨ (eventFor t t.hart.id).isSome = true → c.hart.latch = true)
      ∧ c.harts.map (fun h => { h with latch := false }) = t.harts.map (fun h => { h with latch := false })
      ∧ ((∀ p : Fin 64, (t.dev.ports[p]).send.slot0.counter < 0xFFFFFFEFFFFF ∧ (t.dev.ports[p]).send.slot1.counter < 0xFFFFFFEFFFFF) →
          c.agenda = t.agenda))
  ∧ (∀ (e : Instr) (t : State), (chargeEvent e t).hart = t.hart ∧ (chargeEvent e t).mem = t.mem)
  ∧ ∀ t : State, (charge t).hart = t.hart ∧ (charge t).mem = t.mem ∧ (charge t).harts = t.harts
      ∧ (charge t).dev = { t.dev with energies := (charge t).dev.energies }
      ∧ (charge t).core = { t.core with rr := (charge t).core.rr, tokens := (charge t).core.tokens }

/-- A word of each format, put together from the fields of R137 to R152, decodes to its instruction, with nothing left
over: scalar register, immediate, load, store, branch, jump, atomic, CSR, vector arithmetic, vector memory, PFX,
matrix, modular, ciphertext and engine words. (06_encoding.md R137, 06_encoding.md R153) -/
def Obligations.DecodesHandWrittenWords : Prop :=
  ∀ rest : List Byte, ∀ p ∈ ([
    (0b10000100010100100111111111111101, .addi 5 4 0x7FFD),
    (0b10011100010100000111111111110000, .bne 5 0 0x7FF0),
    (0b10101110000000000000000100001001, .fenceVs 1),
    (0b11101000010000100000011100000101, .cmulp 2 1 7),
    (0b11100011000100100010011100000000, .mopa 1 false 4 true 2 7 false),
    (0b10000010010100110001110000010010, .mulhu 5 6 7),
    (0b10010000100101010100000000100001, .srai 9 10 33),
    (0b10010011111010000000000000000001, .lui 30 0x80001),
    (0b10010110001100100001111111111110, .ldh 3 4 0xFFE),
    (0b10011000100000010011000000010000, .std 8 2 0x010),
    (0b10100110000111111111111111111111, .jal 1 0xFFFFF),
    (0b10101010010100110001110001101011, .amoadd 5 6 7 true false true 3),
    (0b10101100000101001000000001100100, .loop 1 9 100),
    (0b10101110000001011000000000000100, .wsw 11),
    (0b10110000010100110001000010100000, .csrw 5 6 0x0A0),
    (0b11000000010100110000000010100010, .setvl 5 6 0x0A2),
    (0b11000010001100000111111111111100, .vbany 3 0x7FFC),
    (0b01000110010000101001100011000000, .vadd false 4 5 6 1 true),
    (0b11001000010000101001100000000011, .vfma true 4 5 6 0 false),
    (0b01001010010000101001100100000101, .vredsum false 4 5 6 2),
    (0b11001100010000101001100000000000, .vnarrow true 4 5 6 0),
    (0b11001110010000101001100001000010, .vmmul true 4 5 6 0 2),
    (0b01010000010000101000000110001000, .vld false 4 5 3 true),
    (0b11010010010000101000000000000000, .vst true 4 5 0 false),
    (0b11010100010000101000000000000001, .vfill 4 5),
    (0b11010110010000101001100010001010, .vamoadd 4 5 6 1 true false 2),
    (0b11011010010000101001100000000011, .vwaiteq 4 5 6 0 3),
    (0b11100000000001100000000000000000, .mmode 12),
    (0b01100100010000001010010000000000, .mdrain false 4 1 9),
    (0b11100110011001100000000000000000, .pcfgBase 6 12),
    (0b11101000011111011110000000000010, .cadd 3 14 15),
    (0b11101010011111000100000000000000, .cref 3 14 2),
    (0b11101100001001001000000000000000, .kbind 2 9),
    (0b11101110001101001000000000000000, .sopen 3 9),
    (0b11110000010100110001110000000000, .cpy 5 6 7),
    (0b11110010000000110001110000000100, .bwait 6 7),
    (0b11110100010100110001110000000010, .galloc 5 6 7),
    (0b11110110000000110001110000000001, .wpush 6 7),
    (0b11111000010100000000000001001101, .apxb 5 77),
    (0b11111010000000110000000000000010, .fsave 6),
    (0b01111111011100011000000000000000, .pfxn 5 17 true)] : List (Nat × Instr)),
    decode (bytesOfWord 4 p.1 ++ rest) = .ok (p.2, rest)

/-- For every instruction i with an encoding and every value of its operands that the encoding admits
(Instr.wellFormed), the bytes of its word, followed by any bytes, decode to i with those bytes left over; and a word
that decodes is the encoding of the well-formed instruction it decodes to, so that every set bit outside its fields
is refused. The words of R153's reserved majors, a PFX with E = 1 and R153's example 0xE3122701 are refused.
(06_encoding.md R137, 06_encoding.md R138, 06_encoding.md R153) -/
def Obligations.DecodeAndEncodeAgree : Prop :=
  ∀ (i : Instr) (w : Nat) (rest : List Byte),
    let major := bitsOf w 30 25
    (i.wellFormed = true → encode i = some w → decode (bytesOfWord 4 w ++ rest) = .ok (i, rest))
    ∧ (w < 2 ^ 32 → ∀ r : List Byte, decode (bytesOfWord 4 w ++ rest) = .ok (i, r) → i.wellFormed = true ∧ encode i = some w ∧ r = rest)
    ∧ (major = 0 ∨ (0x19 ≤ major ∧ major ≤ 0x1F) ∨ major = 0x2E ∨ major = 0x2F ∨ major = 0x3E ∨ (major = 0x3F ∧ w.testBit 31)
        ∨ w = 0xE3122701 → ∀ r : List Byte, decode (bytesOfWord 4 w ++ rest) ≠ .ok (i, r))

/-- From every state whose memory is in canonical form (not only those a run reaches), a step that answers a next state,
whichever instruction or event it runs, leaves memory in canonical form, so that equal memories stay equal lists.
The form is the model's own (log entry 3). (00_scope.md R3) -/
def Obligations.StepKeepsMemoryCanonical : Prop :=
  ∀ s t : State, s.Safe → step s = .next t → t.Safe

/-- The state after reset lists no memory, so that every byte reads zero, and is safe; the hart in focus is not bound,
holds no lane groups, an empty queue and zero X registers, at U; no partition is enabled and the clock runs at 2,250
MHz. A step from it, and from every state, answers a next state: the model never stops (registers the spec gives no
reset value: log entry 19; storage other than main memory: log entry 3; the empty agenda and the unbound harts: log
entries 1 and 2). (15_trust.md R349, 02_execution.md R55, 14_fabric.md R325) -/
def Obligations.ResetLeavesTheMachineIdle : Prop :=
  let r := State.reset
  r.Safe ∧ (∀ a, Memory.read r.mem a = 0) ∧ r.hart.bound = false ∧ r.harts = [] ∧ r.agenda = [] ∧ (∀ k : Fin 32, rx k r = 0)
  ∧ r.hart.groups = 0 ∧ r.hart.vq = [] ∧ r.hart.priv = .u ∧ (∀ p, partEnabled r p = false) ∧ r.die.clock.freq = 2250
  ∧ (∀ (i : Instr) (s : State), ∃ t, exec i s = .next t) ∧ ∀ s : State, ∃ t, step s = .next t
end

