-- ==== Sys2Proof/Laws/Bits.lean ====
section
/-!
SUPPORT. Fields of bit images: what a field holds after it is replaced, and that every other field is as before.
-/
namespace Sys2Proof.Machine

theorem testBit_getField (img w i k : Nat) : (getField img w i).testBit k = (decide (k < w) && img.testBit (i * w + k)) := by
  simp [getField, Nat.testBit_mod_two_pow, Nat.testBit_shiftRight]

theorem getField_lt (img w i : Nat) : getField img w i < 2 ^ w := Nat.mod_lt _ (Nat.two_pow_pos w)

theorem testBit_setField (img w i x k : Nat) :
    (setField img w i x).testBit k =
      if i * w ≤ k ∧ k < i * w + w then x.testBit (k - i * w) else img.testBit k := by
  simp only [setField, Nat.testBit_xor, Nat.testBit_shiftLeft, testBit_getField, Nat.testBit_mod_two_pow]
  by_cases h : i * w ≤ k
  · obtain ⟨j, rfl⟩ := Nat.exists_eq_add_of_le h
    by_cases hw : j < w
    · simp [hw]
    · simp [hw]
  · simp [h]

/-- A field that has been replaced holds the low bits of what was stored. -/
theorem getField_setField (img w i x : Nat) : getField (setField img w i x) w i = x % 2 ^ w := by
  apply Nat.eq_of_testBit_eq
  intro k
  simp only [testBit_getField, testBit_setField, Nat.testBit_mod_two_pow]
  by_cases h : k < w <;> simp [h]

/-- Every other field is as before. -/
theorem getField_setField_ne (img w x : Nat) {i j : Nat} (ne : j ≠ i) :
    getField (setField img w i x) w j = getField img w j := by
  apply Nat.eq_of_testBit_eq
  intro k
  simp only [testBit_getField, testBit_setField]
  by_cases h : k < w
  · have : ¬(i * w ≤ j * w + k ∧ j * w + k < i * w + w) := by
      rintro ⟨h1, h2⟩
      rcases Nat.lt_or_gt_of_ne ne with lt | gt
      · have := Nat.mul_le_mul_right w (Nat.succ_le_of_lt lt)
        simp only [Nat.succ_mul] at this
        omega
      · have := Nat.mul_le_mul_right w (Nat.succ_le_of_lt gt)
        simp only [Nat.succ_mul] at this
        omega
    simp [h, this]
  · simp [h]

/-- A bit that has been replaced. -/
theorem testBit_setBit (img i : Nat) (b : Bool) (k : Nat) : (setBit img i b).testBit k = if k = i then b else img.testBit k := by
  rw [setBit, testBit_setField]
  by_cases h : k = i
  · subst h; cases b <;> simp
  · have : ¬(i * 1 ≤ k ∧ k < i * 1 + 1) := by omega
    rw [if_neg this, if_neg h]

/-- `n` little-endian bytes hold the low 8 n bits. -/
theorem leNat_leBytes (n x : Nat) : leNat (leBytes n x) = x % 256 ^ n := by
  induction n generalizing x with
  | zero => simp [leBytes, leNat, Nat.mod_one]
  | succ n ih =>
    simp only [leBytes, leNat, ih, BitVec.toNat_ofNat]
    have e : x % 256 ^ (n + 1) = x % 256 + 256 * (x / 256 % 256 ^ n) := by rw [Nat.pow_succ', Nat.mod_mul]
    rw [e]

@[simp] theorem leBytes_length (n x : Nat) : (leBytes n x).length = n := by
  induction n generalizing x with
  | zero => rfl
  | succ n ih => simp [leBytes, ih]

end Sys2Proof.Machine
end

