-- ==== Sys2Proof/Laws/State.lean ====
section
/-!
SUPPORT. What each named update of the state leaves alone, field by field, and what it makes of the field it changes.
-/
namespace Sys2Proof.Machine

/-! ### `onHart` -/

@[simp] theorem onHart_core (f : Hart → Hart) (s : State) : (s.onHart f).core = s.core := rfl
@[simp] theorem onHart_die (f : Hart → Hart) (s : State) : (s.onHart f).die = s.die := rfl
@[simp] theorem onHart_harts (f : Hart → Hart) (s : State) : (s.onHart f).harts = s.harts := rfl
@[simp] theorem onHart_cores (f : Hart → Hart) (s : State) : (s.onHart f).cores = s.cores := rfl
@[simp] theorem onHart_dies (f : Hart → Hart) (s : State) : (s.onHart f).dies = s.dies := rfl
@[simp] theorem onHart_dev (f : Hart → Hart) (s : State) : (s.onHart f).dev = s.dev := rfl
@[simp] theorem onHart_mem (f : Hart → Hart) (s : State) : (s.onHart f).mem = s.mem := rfl
@[simp] theorem onHart_versions (f : Hart → Hart) (s : State) : (s.onHart f).versions = s.versions := rfl
@[simp] theorem onHart_agenda (f : Hart → Hart) (s : State) : (s.onHart f).agenda = s.agenda := rfl
@[simp] theorem onHart_defer (f : Hart → Hart) (s : State) : (s.onHart f).defer = s.defer := rfl
@[simp] theorem onHart_turns (f : Hart → Hart) (s : State) : (s.onHart f).turns = s.turns := rfl
@[simp] theorem onHart_tick (f : Hart → Hart) (s : State) : (s.onHart f).tick = s.tick := rfl

/-! ### `onCore` -/

@[simp] theorem onCore_hart (f : Core → Core) (s : State) : (s.onCore f).hart = s.hart := rfl
@[simp] theorem onCore_die (f : Core → Core) (s : State) : (s.onCore f).die = s.die := rfl
@[simp] theorem onCore_harts (f : Core → Core) (s : State) : (s.onCore f).harts = s.harts := rfl
@[simp] theorem onCore_cores (f : Core → Core) (s : State) : (s.onCore f).cores = s.cores := rfl
@[simp] theorem onCore_dies (f : Core → Core) (s : State) : (s.onCore f).dies = s.dies := rfl
@[simp] theorem onCore_dev (f : Core → Core) (s : State) : (s.onCore f).dev = s.dev := rfl
@[simp] theorem onCore_mem (f : Core → Core) (s : State) : (s.onCore f).mem = s.mem := rfl
@[simp] theorem onCore_versions (f : Core → Core) (s : State) : (s.onCore f).versions = s.versions := rfl
@[simp] theorem onCore_agenda (f : Core → Core) (s : State) : (s.onCore f).agenda = s.agenda := rfl
@[simp] theorem onCore_defer (f : Core → Core) (s : State) : (s.onCore f).defer = s.defer := rfl
@[simp] theorem onCore_turns (f : Core → Core) (s : State) : (s.onCore f).turns = s.turns := rfl
@[simp] theorem onCore_tick (f : Core → Core) (s : State) : (s.onCore f).tick = s.tick := rfl

/-! ### `onDie` -/

@[simp] theorem onDie_hart (f : Die → Die) (s : State) : (s.onDie f).hart = s.hart := rfl
@[simp] theorem onDie_core (f : Die → Die) (s : State) : (s.onDie f).core = s.core := rfl
@[simp] theorem onDie_harts (f : Die → Die) (s : State) : (s.onDie f).harts = s.harts := rfl
@[simp] theorem onDie_cores (f : Die → Die) (s : State) : (s.onDie f).cores = s.cores := rfl
@[simp] theorem onDie_dies (f : Die → Die) (s : State) : (s.onDie f).dies = s.dies := rfl
@[simp] theorem onDie_dev (f : Die → Die) (s : State) : (s.onDie f).dev = s.dev := rfl
@[simp] theorem onDie_mem (f : Die → Die) (s : State) : (s.onDie f).mem = s.mem := rfl
@[simp] theorem onDie_versions (f : Die → Die) (s : State) : (s.onDie f).versions = s.versions := rfl
@[simp] theorem onDie_agenda (f : Die → Die) (s : State) : (s.onDie f).agenda = s.agenda := rfl
@[simp] theorem onDie_defer (f : Die → Die) (s : State) : (s.onDie f).defer = s.defer := rfl
@[simp] theorem onDie_turns (f : Die → Die) (s : State) : (s.onDie f).turns = s.turns := rfl
@[simp] theorem onDie_tick (f : Die → Die) (s : State) : (s.onDie f).tick = s.tick := rfl

/-! ### `onDev` -/

@[simp] theorem onDev_hart (f : Dev → Dev) (s : State) : (s.onDev f).hart = s.hart := rfl
@[simp] theorem onDev_core (f : Dev → Dev) (s : State) : (s.onDev f).core = s.core := rfl
@[simp] theorem onDev_die (f : Dev → Dev) (s : State) : (s.onDev f).die = s.die := rfl
@[simp] theorem onDev_harts (f : Dev → Dev) (s : State) : (s.onDev f).harts = s.harts := rfl
@[simp] theorem onDev_cores (f : Dev → Dev) (s : State) : (s.onDev f).cores = s.cores := rfl
@[simp] theorem onDev_dies (f : Dev → Dev) (s : State) : (s.onDev f).dies = s.dies := rfl
@[simp] theorem onDev_mem (f : Dev → Dev) (s : State) : (s.onDev f).mem = s.mem := rfl
@[simp] theorem onDev_versions (f : Dev → Dev) (s : State) : (s.onDev f).versions = s.versions := rfl
@[simp] theorem onDev_agenda (f : Dev → Dev) (s : State) : (s.onDev f).agenda = s.agenda := rfl
@[simp] theorem onDev_defer (f : Dev → Dev) (s : State) : (s.onDev f).defer = s.defer := rfl
@[simp] theorem onDev_turns (f : Dev → Dev) (s : State) : (s.onDev f).turns = s.turns := rfl
@[simp] theorem onDev_tick (f : Dev → Dev) (s : State) : (s.onDev f).tick = s.tick := rfl

/-! ### `wait` -/

@[simp] theorem wait_core (s : State) : (wait s).core = s.core := rfl
@[simp] theorem wait_die (s : State) : (wait s).die = s.die := rfl
@[simp] theorem wait_harts (s : State) : (wait s).harts = s.harts := rfl
@[simp] theorem wait_cores (s : State) : (wait s).cores = s.cores := rfl
@[simp] theorem wait_dies (s : State) : (wait s).dies = s.dies := rfl
@[simp] theorem wait_dev (s : State) : (wait s).dev = s.dev := rfl
@[simp] theorem wait_mem (s : State) : (wait s).mem = s.mem := rfl
@[simp] theorem wait_versions (s : State) : (wait s).versions = s.versions := rfl
@[simp] theorem wait_agenda (s : State) : (wait s).agenda = s.agenda := rfl
@[simp] theorem wait_defer (s : State) : (wait s).defer = s.defer := rfl
@[simp] theorem wait_turns (s : State) : (wait s).turns = s.turns := rfl
@[simp] theorem wait_tick (s : State) : (wait s).tick = s.tick := rfl

/-! ### `wx` -/

@[simp] theorem wx_core (r : Fin 32) (v : Word) (s : State) : (wx r v s).core = s.core := by unfold wx; split <;> rfl
@[simp] theorem wx_die (r : Fin 32) (v : Word) (s : State) : (wx r v s).die = s.die := by unfold wx; split <;> rfl
@[simp] theorem wx_harts (r : Fin 32) (v : Word) (s : State) : (wx r v s).harts = s.harts := by unfold wx; split <;> rfl
@[simp] theorem wx_cores (r : Fin 32) (v : Word) (s : State) : (wx r v s).cores = s.cores := by unfold wx; split <;> rfl
@[simp] theorem wx_dies (r : Fin 32) (v : Word) (s : State) : (wx r v s).dies = s.dies := by unfold wx; split <;> rfl
@[simp] theorem wx_dev (r : Fin 32) (v : Word) (s : State) : (wx r v s).dev = s.dev := by unfold wx; split <;> rfl
@[simp] theorem wx_mem (r : Fin 32) (v : Word) (s : State) : (wx r v s).mem = s.mem := by unfold wx; split <;> rfl
@[simp] theorem wx_versions (r : Fin 32) (v : Word) (s : State) : (wx r v s).versions = s.versions := by unfold wx; split <;> rfl
@[simp] theorem wx_agenda (r : Fin 32) (v : Word) (s : State) : (wx r v s).agenda = s.agenda := by unfold wx; split <;> rfl
@[simp] theorem wx_defer (r : Fin 32) (v : Word) (s : State) : (wx r v s).defer = s.defer := by unfold wx; split <;> rfl
@[simp] theorem wx_turns (r : Fin 32) (v : Word) (s : State) : (wx r v s).turns = s.turns := by unfold wx; split <;> rfl
@[simp] theorem wx_tick (r : Fin 32) (v : Word) (s : State) : (wx r v s).tick = s.tick := by unfold wx; split <;> rfl

/-! ### `forget` -/

@[simp] theorem forget_core (w : Waiter) (s : State) : (forget w s).core = s.core := rfl
@[simp] theorem forget_die (w : Waiter) (s : State) : (forget w s).die = s.die := rfl
@[simp] theorem forget_harts (w : Waiter) (s : State) : (forget w s).harts = s.harts := rfl
@[simp] theorem forget_cores (w : Waiter) (s : State) : (forget w s).cores = s.cores := rfl
@[simp] theorem forget_dies (w : Waiter) (s : State) : (forget w s).dies = s.dies := rfl
@[simp] theorem forget_dev (w : Waiter) (s : State) : (forget w s).dev = s.dev := rfl
@[simp] theorem forget_mem (w : Waiter) (s : State) : (forget w s).mem = s.mem := rfl
@[simp] theorem forget_versions (w : Waiter) (s : State) : (forget w s).versions = s.versions := rfl
@[simp] theorem forget_agenda (w : Waiter) (s : State) : (forget w s).agenda = s.agenda := rfl
@[simp] theorem forget_defer (w : Waiter) (s : State) : (forget w s).defer = s.defer := rfl
@[simp] theorem forget_turns (w : Waiter) (s : State) : (forget w s).turns = s.turns := rfl
@[simp] theorem forget_tick (w : Waiter) (s : State) : (forget w s).tick = s.tick := rfl

/-! ### `advance` -/

@[simp] theorem advance_core (n : Nat) (s : State) : (advance n s).core = s.core := rfl
@[simp] theorem advance_die (n : Nat) (s : State) : (advance n s).die = s.die := rfl
@[simp] theorem advance_harts (n : Nat) (s : State) : (advance n s).harts = s.harts := rfl
@[simp] theorem advance_cores (n : Nat) (s : State) : (advance n s).cores = s.cores := rfl
@[simp] theorem advance_dies (n : Nat) (s : State) : (advance n s).dies = s.dies := rfl
@[simp] theorem advance_dev (n : Nat) (s : State) : (advance n s).dev = s.dev := rfl
@[simp] theorem advance_mem (n : Nat) (s : State) : (advance n s).mem = s.mem := rfl
@[simp] theorem advance_versions (n : Nat) (s : State) : (advance n s).versions = s.versions := rfl
@[simp] theorem advance_agenda (n : Nat) (s : State) : (advance n s).agenda = s.agenda := rfl
@[simp] theorem advance_defer (n : Nat) (s : State) : (advance n s).defer = s.defer := rfl
@[simp] theorem advance_turns (n : Nat) (s : State) : (advance n s).turns = s.turns := rfl
@[simp] theorem advance_tick (n : Nat) (s : State) : (advance n s).tick = s.tick := rfl

/-! ### `retire` -/

@[simp] theorem retire_core (s : State) : (retire s).core = s.core := rfl
@[simp] theorem retire_die (s : State) : (retire s).die = s.die := rfl
@[simp] theorem retire_harts (s : State) : (retire s).harts = s.harts := rfl
@[simp] theorem retire_cores (s : State) : (retire s).cores = s.cores := rfl
@[simp] theorem retire_dies (s : State) : (retire s).dies = s.dies := rfl
@[simp] theorem retire_dev (s : State) : (retire s).dev = s.dev := rfl
@[simp] theorem retire_mem (s : State) : (retire s).mem = s.mem := rfl
@[simp] theorem retire_versions (s : State) : (retire s).versions = s.versions := rfl
@[simp] theorem retire_agenda (s : State) : (retire s).agenda = s.agenda := rfl
@[simp] theorem retire_defer (s : State) : (retire s).defer = s.defer := rfl
@[simp] theorem retire_turns (s : State) : (retire s).turns = s.turns := rfl
@[simp] theorem retire_tick (s : State) : (retire s).tick = s.tick := rfl

/-! ### `jump` -/

@[simp] theorem jump_core (p : Word) (s : State) : (jump p s).core = s.core := rfl
@[simp] theorem jump_die (p : Word) (s : State) : (jump p s).die = s.die := rfl
@[simp] theorem jump_harts (p : Word) (s : State) : (jump p s).harts = s.harts := rfl
@[simp] theorem jump_cores (p : Word) (s : State) : (jump p s).cores = s.cores := rfl
@[simp] theorem jump_dies (p : Word) (s : State) : (jump p s).dies = s.dies := rfl
@[simp] theorem jump_dev (p : Word) (s : State) : (jump p s).dev = s.dev := rfl
@[simp] theorem jump_mem (p : Word) (s : State) : (jump p s).mem = s.mem := rfl
@[simp] theorem jump_versions (p : Word) (s : State) : (jump p s).versions = s.versions := rfl
@[simp] theorem jump_agenda (p : Word) (s : State) : (jump p s).agenda = s.agenda := rfl
@[simp] theorem jump_defer (p : Word) (s : State) : (jump p s).defer = s.defer := rfl
@[simp] theorem jump_turns (p : Word) (s : State) : (jump p s).turns = s.turns := rfl
@[simp] theorem jump_tick (p : Word) (s : State) : (jump p s).tick = s.tick := rfl

/-! ### `due` -/

@[simp] theorem due_hart (es : List Instr) (s : State) : (due es s).hart = s.hart := rfl
@[simp] theorem due_core (es : List Instr) (s : State) : (due es s).core = s.core := rfl
@[simp] theorem due_die (es : List Instr) (s : State) : (due es s).die = s.die := rfl
@[simp] theorem due_harts (es : List Instr) (s : State) : (due es s).harts = s.harts := rfl
@[simp] theorem due_cores (es : List Instr) (s : State) : (due es s).cores = s.cores := rfl
@[simp] theorem due_dies (es : List Instr) (s : State) : (due es s).dies = s.dies := rfl
@[simp] theorem due_dev (es : List Instr) (s : State) : (due es s).dev = s.dev := rfl
@[simp] theorem due_mem (es : List Instr) (s : State) : (due es s).mem = s.mem := rfl
@[simp] theorem due_versions (es : List Instr) (s : State) : (due es s).versions = s.versions := rfl
@[simp] theorem due_defer (es : List Instr) (s : State) : (due es s).defer = s.defer := rfl
@[simp] theorem due_turns (es : List Instr) (s : State) : (due es s).turns = s.turns := rfl
@[simp] theorem due_tick (es : List Instr) (s : State) : (due es s).tick = s.tick := rfl

/-! ### `atTime` -/

@[simp] theorem atTime_hart (t : Nat) (e : Instr) (s : State) : (atTime t e s).hart = s.hart := rfl
@[simp] theorem atTime_core (t : Nat) (e : Instr) (s : State) : (atTime t e s).core = s.core := rfl
@[simp] theorem atTime_die (t : Nat) (e : Instr) (s : State) : (atTime t e s).die = s.die := rfl
@[simp] theorem atTime_harts (t : Nat) (e : Instr) (s : State) : (atTime t e s).harts = s.harts := rfl
@[simp] theorem atTime_cores (t : Nat) (e : Instr) (s : State) : (atTime t e s).cores = s.cores := rfl
@[simp] theorem atTime_dies (t : Nat) (e : Instr) (s : State) : (atTime t e s).dies = s.dies := rfl
@[simp] theorem atTime_mem (t : Nat) (e : Instr) (s : State) : (atTime t e s).mem = s.mem := rfl
@[simp] theorem atTime_versions (t : Nat) (e : Instr) (s : State) : (atTime t e s).versions = s.versions := rfl
@[simp] theorem atTime_agenda (t : Nat) (e : Instr) (s : State) : (atTime t e s).agenda = s.agenda := rfl
@[simp] theorem atTime_defer (t : Nat) (e : Instr) (s : State) : (atTime t e s).defer = s.defer := rfl
@[simp] theorem atTime_turns (t : Nat) (e : Instr) (s : State) : (atTime t e s).turns = s.turns := rfl
@[simp] theorem atTime_tick (t : Nat) (e : Instr) (s : State) : (atTime t e s).tick = s.tick := rfl

/-! ### `inTime` -/

@[simp] theorem inTime_hart (ns : Nat) (e : Instr) (s : State) : (inTime ns e s).hart = s.hart := rfl
@[simp] theorem inTime_core (ns : Nat) (e : Instr) (s : State) : (inTime ns e s).core = s.core := rfl
@[simp] theorem inTime_die (ns : Nat) (e : Instr) (s : State) : (inTime ns e s).die = s.die := rfl
@[simp] theorem inTime_harts (ns : Nat) (e : Instr) (s : State) : (inTime ns e s).harts = s.harts := rfl
@[simp] theorem inTime_cores (ns : Nat) (e : Instr) (s : State) : (inTime ns e s).cores = s.cores := rfl
@[simp] theorem inTime_dies (ns : Nat) (e : Instr) (s : State) : (inTime ns e s).dies = s.dies := rfl
@[simp] theorem inTime_mem (ns : Nat) (e : Instr) (s : State) : (inTime ns e s).mem = s.mem := rfl
@[simp] theorem inTime_versions (ns : Nat) (e : Instr) (s : State) : (inTime ns e s).versions = s.versions := rfl
@[simp] theorem inTime_agenda (ns : Nat) (e : Instr) (s : State) : (inTime ns e s).agenda = s.agenda := rfl
@[simp] theorem inTime_defer (ns : Nat) (e : Instr) (s : State) : (inTime ns e s).defer = s.defer := rfl
@[simp] theorem inTime_turns (ns : Nat) (e : Instr) (s : State) : (inTime ns e s).turns = s.turns := rfl
@[simp] theorem inTime_tick (ns : Nat) (e : Instr) (s : State) : (inTime ns e s).tick = s.tick := rfl

/-! ### `cancelTimer` -/

@[simp] theorem cancelTimer_hart (e : Instr) (s : State) : (cancelTimer e s).hart = s.hart := rfl
@[simp] theorem cancelTimer_core (e : Instr) (s : State) : (cancelTimer e s).core = s.core := rfl
@[simp] theorem cancelTimer_die (e : Instr) (s : State) : (cancelTimer e s).die = s.die := rfl
@[simp] theorem cancelTimer_harts (e : Instr) (s : State) : (cancelTimer e s).harts = s.harts := rfl
@[simp] theorem cancelTimer_cores (e : Instr) (s : State) : (cancelTimer e s).cores = s.cores := rfl
@[simp] theorem cancelTimer_dies (e : Instr) (s : State) : (cancelTimer e s).dies = s.dies := rfl
@[simp] theorem cancelTimer_mem (e : Instr) (s : State) : (cancelTimer e s).mem = s.mem := rfl
@[simp] theorem cancelTimer_versions (e : Instr) (s : State) : (cancelTimer e s).versions = s.versions := rfl
@[simp] theorem cancelTimer_agenda (e : Instr) (s : State) : (cancelTimer e s).agenda = s.agenda := rfl
@[simp] theorem cancelTimer_defer (e : Instr) (s : State) : (cancelTimer e s).defer = s.defer := rfl
@[simp] theorem cancelTimer_turns (e : Instr) (s : State) : (cancelTimer e s).turns = s.turns := rfl
@[simp] theorem cancelTimer_tick (e : Instr) (s : State) : (cancelTimer e s).tick = s.tick := rfl

/-! ### `addEnergy` -/

@[simp] theorem addEnergy_hart (p q n : Nat) (s : State) : (addEnergy p q n s).hart = s.hart := rfl
@[simp] theorem addEnergy_core (p q n : Nat) (s : State) : (addEnergy p q n s).core = s.core := rfl
@[simp] theorem addEnergy_die (p q n : Nat) (s : State) : (addEnergy p q n s).die = s.die := rfl
@[simp] theorem addEnergy_harts (p q n : Nat) (s : State) : (addEnergy p q n s).harts = s.harts := rfl
@[simp] theorem addEnergy_cores (p q n : Nat) (s : State) : (addEnergy p q n s).cores = s.cores := rfl
@[simp] theorem addEnergy_dies (p q n : Nat) (s : State) : (addEnergy p q n s).dies = s.dies := rfl
@[simp] theorem addEnergy_mem (p q n : Nat) (s : State) : (addEnergy p q n s).mem = s.mem := rfl
@[simp] theorem addEnergy_versions (p q n : Nat) (s : State) : (addEnergy p q n s).versions = s.versions := rfl
@[simp] theorem addEnergy_agenda (p q n : Nat) (s : State) : (addEnergy p q n s).agenda = s.agenda := rfl
@[simp] theorem addEnergy_defer (p q n : Nat) (s : State) : (addEnergy p q n s).defer = s.defer := rfl
@[simp] theorem addEnergy_turns (p q n : Nat) (s : State) : (addEnergy p q n s).turns = s.turns := rfl
@[simp] theorem addEnergy_tick (p q n : Nat) (s : State) : (addEnergy p q n s).tick = s.tick := rfl

/-! ### `chargeWork` -/

@[simp] theorem chargeWork_hart (s : State) : (chargeWork s).hart = s.hart := by unfold chargeWork; split <;> rfl
@[simp] theorem chargeWork_core (s : State) : (chargeWork s).core = s.core := by unfold chargeWork; split <;> rfl
@[simp] theorem chargeWork_die (s : State) : (chargeWork s).die = s.die := by unfold chargeWork; split <;> rfl
@[simp] theorem chargeWork_harts (s : State) : (chargeWork s).harts = s.harts := by unfold chargeWork; split <;> rfl
@[simp] theorem chargeWork_cores (s : State) : (chargeWork s).cores = s.cores := by unfold chargeWork; split <;> rfl
@[simp] theorem chargeWork_dies (s : State) : (chargeWork s).dies = s.dies := by unfold chargeWork; split <;> rfl
@[simp] theorem chargeWork_mem (s : State) : (chargeWork s).mem = s.mem := by unfold chargeWork; split <;> rfl
@[simp] theorem chargeWork_versions (s : State) : (chargeWork s).versions = s.versions := by unfold chargeWork; split <;> rfl
@[simp] theorem chargeWork_agenda (s : State) : (chargeWork s).agenda = s.agenda := by unfold chargeWork; split <;> rfl
@[simp] theorem chargeWork_defer (s : State) : (chargeWork s).defer = s.defer := by unfold chargeWork; split <;> rfl
@[simp] theorem chargeWork_turns (s : State) : (chargeWork s).turns = s.turns := by unfold chargeWork; split <;> rfl
@[simp] theorem chargeWork_tick (s : State) : (chargeWork s).tick = s.tick := by unfold chargeWork; split <;> rfl

/-! ### `later` -/

@[simp] theorem later_hart (es : List Instr) (s : State) : (later es s).hart = s.hart := rfl
@[simp] theorem later_core (es : List Instr) (s : State) : (later es s).core = s.core := rfl
@[simp] theorem later_die (es : List Instr) (s : State) : (later es s).die = s.die := rfl
@[simp] theorem later_harts (es : List Instr) (s : State) : (later es s).harts = s.harts := rfl
@[simp] theorem later_cores (es : List Instr) (s : State) : (later es s).cores = s.cores := rfl
@[simp] theorem later_dies (es : List Instr) (s : State) : (later es s).dies = s.dies := rfl
@[simp] theorem later_dev (es : List Instr) (s : State) : (later es s).dev = s.dev := rfl
@[simp] theorem later_mem (es : List Instr) (s : State) : (later es s).mem = s.mem := rfl
@[simp] theorem later_versions (es : List Instr) (s : State) : (later es s).versions = s.versions := rfl
@[simp] theorem later_turns (es : List Instr) (s : State) : (later es s).turns = s.turns := rfl
@[simp] theorem later_tick (es : List Instr) (s : State) : (later es s).tick = s.tick := rfl

/-! ### `poke` -/

@[simp] theorem poke_hart (a : Nat) (bs : List Byte) (s : State) : (poke a bs s).hart = s.hart := rfl
@[simp] theorem poke_core (a : Nat) (bs : List Byte) (s : State) : (poke a bs s).core = s.core := rfl
@[simp] theorem poke_die (a : Nat) (bs : List Byte) (s : State) : (poke a bs s).die = s.die := rfl
@[simp] theorem poke_harts (a : Nat) (bs : List Byte) (s : State) : (poke a bs s).harts = s.harts := rfl
@[simp] theorem poke_cores (a : Nat) (bs : List Byte) (s : State) : (poke a bs s).cores = s.cores := rfl
@[simp] theorem poke_dies (a : Nat) (bs : List Byte) (s : State) : (poke a bs s).dies = s.dies := rfl
@[simp] theorem poke_dev (a : Nat) (bs : List Byte) (s : State) : (poke a bs s).dev = s.dev := rfl
@[simp] theorem poke_agenda (a : Nat) (bs : List Byte) (s : State) : (poke a bs s).agenda = s.agenda := rfl
@[simp] theorem poke_defer (a : Nat) (bs : List Byte) (s : State) : (poke a bs s).defer = s.defer := rfl
@[simp] theorem poke_turns (a : Nat) (bs : List Byte) (s : State) : (poke a bs s).turns = s.turns := rfl
@[simp] theorem poke_tick (a : Nat) (bs : List Byte) (s : State) : (poke a bs s).tick = s.tick := rfl

/-! ### `clearMem` -/

@[simp] theorem clearMem_hart (lo hi : Nat) (s : State) : (clearMem lo hi s).hart = s.hart := rfl
@[simp] theorem clearMem_core (lo hi : Nat) (s : State) : (clearMem lo hi s).core = s.core := rfl
@[simp] theorem clearMem_die (lo hi : Nat) (s : State) : (clearMem lo hi s).die = s.die := rfl
@[simp] theorem clearMem_harts (lo hi : Nat) (s : State) : (clearMem lo hi s).harts = s.harts := rfl
@[simp] theorem clearMem_cores (lo hi : Nat) (s : State) : (clearMem lo hi s).cores = s.cores := rfl
@[simp] theorem clearMem_dies (lo hi : Nat) (s : State) : (clearMem lo hi s).dies = s.dies := rfl
@[simp] theorem clearMem_dev (lo hi : Nat) (s : State) : (clearMem lo hi s).dev = s.dev := rfl
@[simp] theorem clearMem_versions (lo hi : Nat) (s : State) : (clearMem lo hi s).versions = s.versions := rfl
@[simp] theorem clearMem_agenda (lo hi : Nat) (s : State) : (clearMem lo hi s).agenda = s.agenda := rfl
@[simp] theorem clearMem_defer (lo hi : Nat) (s : State) : (clearMem lo hi s).defer = s.defer := rfl
@[simp] theorem clearMem_turns (lo hi : Nat) (s : State) : (clearMem lo hi s).turns = s.turns := rfl
@[simp] theorem clearMem_tick (lo hi : Nat) (s : State) : (clearMem lo hi s).tick = s.tick := rfl

/-! ### `setV` -/

@[simp] theorem setV_core (v : Fin 32) (img : Nat) (s : State) : (setV v img s).core = s.core := rfl
@[simp] theorem setV_die (v : Fin 32) (img : Nat) (s : State) : (setV v img s).die = s.die := rfl
@[simp] theorem setV_harts (v : Fin 32) (img : Nat) (s : State) : (setV v img s).harts = s.harts := rfl
@[simp] theorem setV_cores (v : Fin 32) (img : Nat) (s : State) : (setV v img s).cores = s.cores := rfl
@[simp] theorem setV_dies (v : Fin 32) (img : Nat) (s : State) : (setV v img s).dies = s.dies := rfl
@[simp] theorem setV_dev (v : Fin 32) (img : Nat) (s : State) : (setV v img s).dev = s.dev := rfl
@[simp] theorem setV_mem (v : Fin 32) (img : Nat) (s : State) : (setV v img s).mem = s.mem := rfl
@[simp] theorem setV_versions (v : Fin 32) (img : Nat) (s : State) : (setV v img s).versions = s.versions := rfl
@[simp] theorem setV_agenda (v : Fin 32) (img : Nat) (s : State) : (setV v img s).agenda = s.agenda := rfl
@[simp] theorem setV_defer (v : Fin 32) (img : Nat) (s : State) : (setV v img s).defer = s.defer := rfl
@[simp] theorem setV_turns (v : Fin 32) (img : Nat) (s : State) : (setV v img s).turns = s.turns := rfl
@[simp] theorem setV_tick (v : Fin 32) (img : Nat) (s : State) : (setV v img s).tick = s.tick := rfl

/-! ### `setM` -/

@[simp] theorem setM_core (m : Fin 8) (img : Nat) (s : State) : (setM m img s).core = s.core := rfl
@[simp] theorem setM_die (m : Fin 8) (img : Nat) (s : State) : (setM m img s).die = s.die := rfl
@[simp] theorem setM_harts (m : Fin 8) (img : Nat) (s : State) : (setM m img s).harts = s.harts := rfl
@[simp] theorem setM_cores (m : Fin 8) (img : Nat) (s : State) : (setM m img s).cores = s.cores := rfl
@[simp] theorem setM_dies (m : Fin 8) (img : Nat) (s : State) : (setM m img s).dies = s.dies := rfl
@[simp] theorem setM_dev (m : Fin 8) (img : Nat) (s : State) : (setM m img s).dev = s.dev := rfl
@[simp] theorem setM_mem (m : Fin 8) (img : Nat) (s : State) : (setM m img s).mem = s.mem := rfl
@[simp] theorem setM_versions (m : Fin 8) (img : Nat) (s : State) : (setM m img s).versions = s.versions := rfl
@[simp] theorem setM_agenda (m : Fin 8) (img : Nat) (s : State) : (setM m img s).agenda = s.agenda := rfl
@[simp] theorem setM_defer (m : Fin 8) (img : Nat) (s : State) : (setM m img s).defer = s.defer := rfl
@[simp] theorem setM_turns (m : Fin 8) (img : Nat) (s : State) : (setM m img s).turns = s.turns := rfl
@[simp] theorem setM_tick (m : Fin 8) (img : Nat) (s : State) : (setM m img s).tick = s.tick := rfl

/-! ### `setVstart` -/

@[simp] theorem setVstart_core (n : Nat) (s : State) : (setVstart n s).core = s.core := rfl
@[simp] theorem setVstart_die (n : Nat) (s : State) : (setVstart n s).die = s.die := rfl
@[simp] theorem setVstart_harts (n : Nat) (s : State) : (setVstart n s).harts = s.harts := rfl
@[simp] theorem setVstart_cores (n : Nat) (s : State) : (setVstart n s).cores = s.cores := rfl
@[simp] theorem setVstart_dies (n : Nat) (s : State) : (setVstart n s).dies = s.dies := rfl
@[simp] theorem setVstart_dev (n : Nat) (s : State) : (setVstart n s).dev = s.dev := rfl
@[simp] theorem setVstart_mem (n : Nat) (s : State) : (setVstart n s).mem = s.mem := rfl
@[simp] theorem setVstart_versions (n : Nat) (s : State) : (setVstart n s).versions = s.versions := rfl
@[simp] theorem setVstart_agenda (n : Nat) (s : State) : (setVstart n s).agenda = s.agenda := rfl
@[simp] theorem setVstart_defer (n : Nat) (s : State) : (setVstart n s).defer = s.defer := rfl
@[simp] theorem setVstart_turns (n : Nat) (s : State) : (setVstart n s).turns = s.turns := rfl
@[simp] theorem setVstart_tick (n : Nat) (s : State) : (setVstart n s).tick = s.tick := rfl

/-! ### What the updates change -/

@[simp] theorem onHart_hart (f : Hart → Hart) (s : State) : (s.onHart f).hart = f s.hart := rfl
@[simp] theorem onCore_core (f : Core → Core) (s : State) : (s.onCore f).core = f s.core := rfl
@[simp] theorem onDie_die (f : Die → Die) (s : State) : (s.onDie f).die = f s.die := rfl
@[simp] theorem onDev_dev (f : Dev → Dev) (s : State) : (s.onDev f).dev = f s.dev := rfl
@[simp] theorem due_agenda (es : List Instr) (s : State) : (due es s).agenda = s.agenda ++ es := rfl
@[simp] theorem later_agenda (es : List Instr) (s : State) : (later es s).agenda = s.agenda ++ es := rfl
@[simp] theorem later_defer (es : List Instr) (s : State) : (later es s).defer = 8 := rfl
@[simp] theorem poke_mem (a : Nat) (bs : List Byte) (s : State) : (poke a bs s).mem = Memory.writes s.mem a bs := rfl
@[simp] theorem clearMem_mem (lo hi : Nat) (s : State) : (clearMem lo hi s).mem = Memory.clear s.mem lo hi := rfl
@[simp] theorem onHart_onHart (f g : Hart → Hart) (s : State) : (s.onHart f).onHart g = s.onHart fun h => g (f h) := rfl
@[simp] theorem onHart_id (s : State) : s.onHart (fun h => h) = s := rfl


/-! ### `wait` on the hart -/

@[simp] theorem wait_hart_id (s : State) : (wait s).hart.id = s.hart.id := rfl
@[simp] theorem wait_hart_bound (s : State) : (wait s).hart.bound = s.hart.bound := rfl
@[simp] theorem wait_hart_pc (s : State) : (wait s).hart.pc = s.hart.pc := rfl
@[simp] theorem wait_hart_x (s : State) : (wait s).hart.x = s.hart.x := rfl
@[simp] theorem wait_hart_priv (s : State) : (wait s).hart.priv = s.hart.priv := rfl
@[simp] theorem wait_hart_world (s : State) : (wait s).hart.world = s.hart.world := rfl
@[simp] theorem wait_hart_ct (s : State) : (wait s).hart.ct = s.hart.ct := rfl
@[simp] theorem wait_hart_ie (s : State) : (wait s).hart.ie = s.hart.ie := rfl
@[simp] theorem wait_hart_sTrap (s : State) : (wait s).hart.sTrap = s.hart.sTrap := rfl
@[simp] theorem wait_hart_mTrap (s : State) : (wait s).hart.mTrap = s.hart.mTrap := rfl
@[simp] theorem wait_hart_exitv (s : State) : (wait s).hart.exitv = s.hart.exitv := rfl
@[simp] theorem wait_hart_tdeleg (s : State) : (wait s).hart.tdeleg = s.hart.tdeleg := rfl
@[simp] theorem wait_hart_utvec (s : State) : (wait s).hart.utvec = s.hart.utvec := rfl
@[simp] theorem wait_hart_utcause (s : State) : (wait s).hart.utcause = s.hart.utcause := rfl
@[simp] theorem wait_hart_utval (s : State) : (wait s).hart.utval = s.hart.utval := rfl
@[simp] theorem wait_hart_utpc (s : State) : (wait s).hart.utpc = s.hart.utpc := rfl
@[simp] theorem wait_hart_inDeleg (s : State) : (wait s).hart.inDeleg = s.hart.inDeleg := rfl
@[simp] theorem wait_hart_ptbase (s : State) : (wait s).hart.ptbase = s.hart.ptbase := rfl
@[simp] theorem wait_hart_engflt (s : State) : (wait s).hart.engflt = s.hart.engflt := rfl
@[simp] theorem wait_hart_part (s : State) : (wait s).hart.part = s.hart.part := rfl
@[simp] theorem wait_hart_launch (s : State) : (wait s).hart.launch = s.hart.launch := rfl
@[simp] theorem wait_hart_loops (s : State) : (wait s).hart.loops = s.hart.loops := rfl
@[simp] theorem wait_hart_lend (s : State) : (wait s).hart.lend = s.hart.lend := rfl
@[simp] theorem wait_hart_lendHeld (s : State) : (wait s).hart.lendHeld = s.hart.lendHeld := rfl
@[simp] theorem wait_hart_vl (s : State) : (wait s).hart.vl = s.hart.vl := rfl
@[simp] theorem wait_hart_vtype (s : State) : (wait s).hart.vtype = s.hart.vtype := rfl
@[simp] theorem wait_hart_vstart (s : State) : (wait s).hart.vstart = s.hart.vstart := rfl
@[simp] theorem wait_hart_cthresh (s : State) : (wait s).hart.cthresh = s.hart.cthresh := rfl
@[simp] theorem wait_hart_ecarry (s : State) : (wait s).hart.ecarry = s.hart.ecarry := rfl
@[simp] theorem wait_hart_groups (s : State) : (wait s).hart.groups = s.hart.groups := rfl
@[simp] theorem wait_hart_lanes (s : State) : (wait s).hart.lanes = s.hart.lanes := rfl
@[simp] theorem wait_hart_v (s : State) : (wait s).hart.v = s.hart.v := rfl
@[simp] theorem wait_hart_m (s : State) : (wait s).hart.m = s.hart.m := rfl
@[simp] theorem wait_hart_vbad (s : State) : (wait s).hart.vbad = s.hart.vbad := rfl
@[simp] theorem wait_hart_mbad (s : State) : (wait s).hart.mbad = s.hart.mbad := rfl
@[simp] theorem wait_hart_vq (s : State) : (wait s).hart.vq = s.hart.vq := rfl
@[simp] theorem wait_hart_replies (s : State) : (wait s).hart.replies = s.hart.replies := rfl
@[simp] theorem wait_hart_held (s : State) : (wait s).hart.held = s.hart.held := rfl
@[simp] theorem wait_hart_groupWait (s : State) : (wait s).hart.groupWait = s.hart.groupWait := rfl
@[simp] theorem wait_hart_claimWait (s : State) : (wait s).hart.claimWait = s.hart.claimWait := rfl
@[simp] theorem wait_hart_retiring (s : State) : (wait s).hart.retiring = s.hart.retiring := rfl
@[simp] theorem wait_hart_switching (s : State) : (wait s).hart.switching = s.hart.switching := rfl
@[simp] theorem wait_hart_parked (s : State) : (wait s).hart.parked = s.hart.parked := rfl
@[simp] theorem wait_hart_latch (s : State) : (wait s).hart.latch = s.hart.latch := rfl
@[simp] theorem wait_hart_satisfied (s : State) : (wait s).hart.satisfied = s.hart.satisfied := rfl
@[simp] theorem wait_hart_preq (s : State) : (wait s).hart.preq = s.hart.preq := rfl
@[simp] theorem wait_hart_qm (s : State) : (wait s).hart.qm = s.hart.qm := rfl
@[simp] theorem wait_hart_keys (s : State) : (wait s).hart.keys = s.hart.keys := rfl
@[simp] theorem wait_hart_chdr (s : State) : (wait s).hart.chdr = s.hart.chdr := rfl
@[simp] theorem wait_hart_crerr (s : State) : (wait s).hart.crerr = s.hart.crerr := rfl
@[simp] theorem wait_hart_failHdr (s : State) : (wait s).hart.failHdr = s.hart.failHdr := rfl
@[simp] theorem wait_hart_streams (s : State) : (wait s).hart.streams = s.hart.streams := rfl
@[simp] theorem wait_hart_binds (s : State) : (wait s).hart.binds = s.hart.binds := rfl
@[simp] theorem wait_hart_xfers (s : State) : (wait s).hart.xfers = s.hart.xfers := rfl
@[simp] theorem wait_hart_xferCount (s : State) : (wait s).hart.xferCount = s.hart.xferCount := rfl
@[simp] theorem wait_hart_queries (s : State) : (wait s).hart.queries = s.hart.queries := rfl
@[simp] theorem wait_hart_engFaults (s : State) : (wait s).hart.engFaults = s.hart.engFaults := rfl
@[simp] theorem wait_hart_engBusy (s : State) : (wait s).hart.engBusy = s.hart.engBusy := rfl
@[simp] theorem wait_hart_mstart (s : State) : (wait s).hart.mstart = s.hart.mstart := rfl
@[simp] theorem wait_hart_apxctl (s : State) : (wait s).hart.apxctl = s.hart.apxctl := rfl
@[simp] theorem wait_hart_apxerr (s : State) : (wait s).hart.apxerr = s.hart.apxerr := rfl
@[simp] theorem wait_hart_apxrate (s : State) : (wait s).hart.apxrate = s.hart.apxrate := rfl
@[simp] theorem wait_hart_apxlr (s : State) : (wait s).hart.apxlr = s.hart.apxlr := rfl
@[simp] theorem wait_hart_echo (s : State) : (wait s).hart.echo = s.hart.echo := rfl
@[simp] theorem wait_hart_surrogate (s : State) : (wait s).hart.surrogate = s.hart.surrogate := rfl
@[simp] theorem wait_hart_waits (s : State) : (wait s).hart.waits = s.hart.waits := rfl
@[simp] theorem wait_hart_stopAt (s : State) : (wait s).hart.stopAt = s.hart.stopAt := rfl
@[simp] theorem wait_hart_ahead (s : State) : (wait s).hart.ahead = s.hart.ahead := rfl
@[simp] theorem wait_hart_lag (s : State) : (wait s).hart.lag = s.hart.lag := rfl
@[simp] theorem wait_hart_late (s : State) : (wait s).hart.late = s.hart.late := rfl
@[simp] theorem wait_hart_sbuf (s : State) : (wait s).hart.sbuf = s.hart.sbuf := rfl
@[simp] theorem wait_hart_releasedOnce (s : State) : (wait s).hart.releasedOnce = s.hart.releasedOnce := rfl

/-! ### `wx` on the hart -/

@[simp] theorem wx_hart_id (r : Fin 32) (v : Word) (s : State) : (wx r v s).hart.id = s.hart.id := by unfold wx; split <;> rfl
@[simp] theorem wx_hart_bound (r : Fin 32) (v : Word) (s : State) : (wx r v s).hart.bound = s.hart.bound := by unfold wx; split <;> rfl
@[simp] theorem wx_hart_pc (r : Fin 32) (v : Word) (s : State) : (wx r v s).hart.pc = s.hart.pc := by unfold wx; split <;> rfl
@[simp] theorem wx_hart_priv (r : Fin 32) (v : Word) (s : State) : (wx r v s).hart.priv = s.hart.priv := by unfold wx; split <;> rfl
@[simp] theorem wx_hart_world (r : Fin 32) (v : Word) (s : State) : (wx r v s).hart.world = s.hart.world := by unfold wx; split <;> rfl
@[simp] theorem wx_hart_ct (r : Fin 32) (v : Word) (s : State) : (wx r v s).hart.ct = s.hart.ct := by unfold wx; split <;> rfl
@[simp] theorem wx_hart_ie (r : Fin 32) (v : Word) (s : State) : (wx r v s).hart.ie = s.hart.ie := by unfold wx; split <;> rfl
@[simp] theorem wx_hart_sTrap (r : Fin 32) (v : Word) (s : State) : (wx r v s).hart.sTrap = s.hart.sTrap := by unfold wx; split <;> rfl
@[simp] theorem wx_hart_mTrap (r : Fin 32) (v : Word) (s : State) : (wx r v s).hart.mTrap = s.hart.mTrap := by unfold wx; split <;> rfl
@[simp] theorem wx_hart_exitv (r : Fin 32) (v : Word) (s : State) : (wx r v s).hart.exitv = s.hart.exitv := by unfold wx; split <;> rfl
@[simp] theorem wx_hart_tdeleg (r : Fin 32) (v : Word) (s : State) : (wx r v s).hart.tdeleg = s.hart.tdeleg := by unfold wx; split <;> rfl
@[simp] theorem wx_hart_utvec (r : Fin 32) (v : Word) (s : State) : (wx r v s).hart.utvec = s.hart.utvec := by unfold wx; split <;> rfl
@[simp] theorem wx_hart_utcause (r : Fin 32) (v : Word) (s : State) : (wx r v s).hart.utcause = s.hart.utcause := by unfold wx; split <;> rfl
@[simp] theorem wx_hart_utval (r : Fin 32) (v : Word) (s : State) : (wx r v s).hart.utval = s.hart.utval := by unfold wx; split <;> rfl
@[simp] theorem wx_hart_utpc (r : Fin 32) (v : Word) (s : State) : (wx r v s).hart.utpc = s.hart.utpc := by unfold wx; split <;> rfl
@[simp] theorem wx_hart_inDeleg (r : Fin 32) (v : Word) (s : State) : (wx r v s).hart.inDeleg = s.hart.inDeleg := by unfold wx; split <;> rfl
@[simp] theorem wx_hart_ptbase (r : Fin 32) (v : Word) (s : State) : (wx r v s).hart.ptbase = s.hart.ptbase := by unfold wx; split <;> rfl
@[simp] theorem wx_hart_engflt (r : Fin 32) (v : Word) (s : State) : (wx r v s).hart.engflt = s.hart.engflt := by unfold wx; split <;> rfl
@[simp] theorem wx_hart_part (r : Fin 32) (v : Word) (s : State) : (wx r v s).hart.part = s.hart.part := by unfold wx; split <;> rfl
@[simp] theorem wx_hart_launch (r : Fin 32) (v : Word) (s : State) : (wx r v s).hart.launch = s.hart.launch := by unfold wx; split <;> rfl
@[simp] theorem wx_hart_loops (r : Fin 32) (v : Word) (s : State) : (wx r v s).hart.loops = s.hart.loops := by unfold wx; split <;> rfl
@[simp] theorem wx_hart_lend (r : Fin 32) (v : Word) (s : State) : (wx r v s).hart.lend = s.hart.lend := by unfold wx; split <;> rfl
@[simp] theorem wx_hart_lendHeld (r : Fin 32) (v : Word) (s : State) : (wx r v s).hart.lendHeld = s.hart.lendHeld := by unfold wx; split <;> rfl
@[simp] theorem wx_hart_vl (r : Fin 32) (v : Word) (s : State) : (wx r v s).hart.vl = s.hart.vl := by unfold wx; split <;> rfl
@[simp] theorem wx_hart_vtype (r : Fin 32) (v : Word) (s : State) : (wx r v s).hart.vtype = s.hart.vtype := by unfold wx; split <;> rfl
@[simp] theorem wx_hart_vstart (r : Fin 32) (v : Word) (s : State) : (wx r v s).hart.vstart = s.hart.vstart := by unfold wx; split <;> rfl
@[simp] theorem wx_hart_cthresh (r : Fin 32) (v : Word) (s : State) : (wx r v s).hart.cthresh = s.hart.cthresh := by unfold wx; split <;> rfl
@[simp] theorem wx_hart_ecarry (r : Fin 32) (v : Word) (s : State) : (wx r v s).hart.ecarry = s.hart.ecarry := by unfold wx; split <;> rfl
@[simp] theorem wx_hart_groups (r : Fin 32) (v : Word) (s : State) : (wx r v s).hart.groups = s.hart.groups := by unfold wx; split <;> rfl
@[simp] theorem wx_hart_lanes (r : Fin 32) (v : Word) (s : State) : (wx r v s).hart.lanes = s.hart.lanes := by unfold wx; split <;> rfl
@[simp] theorem wx_hart_v (r : Fin 32) (v : Word) (s : State) : (wx r v s).hart.v = s.hart.v := by unfold wx; split <;> rfl
@[simp] theorem wx_hart_m (r : Fin 32) (v : Word) (s : State) : (wx r v s).hart.m = s.hart.m := by unfold wx; split <;> rfl
@[simp] theorem wx_hart_vbad (r : Fin 32) (v : Word) (s : State) : (wx r v s).hart.vbad = s.hart.vbad := by unfold wx; split <;> rfl
@[simp] theorem wx_hart_mbad (r : Fin 32) (v : Word) (s : State) : (wx r v s).hart.mbad = s.hart.mbad := by unfold wx; split <;> rfl
@[simp] theorem wx_hart_vq (r : Fin 32) (v : Word) (s : State) : (wx r v s).hart.vq = s.hart.vq := by unfold wx; split <;> rfl
@[simp] theorem wx_hart_replies (r : Fin 32) (v : Word) (s : State) : (wx r v s).hart.replies = s.hart.replies := by unfold wx; split <;> rfl
@[simp] theorem wx_hart_held (r : Fin 32) (v : Word) (s : State) : (wx r v s).hart.held = s.hart.held := by unfold wx; split <;> rfl
@[simp] theorem wx_hart_groupWait (r : Fin 32) (v : Word) (s : State) : (wx r v s).hart.groupWait = s.hart.groupWait := by unfold wx; split <;> rfl
@[simp] theorem wx_hart_claimWait (r : Fin 32) (v : Word) (s : State) : (wx r v s).hart.claimWait = s.hart.claimWait := by unfold wx; split <;> rfl
@[simp] theorem wx_hart_retiring (r : Fin 32) (v : Word) (s : State) : (wx r v s).hart.retiring = s.hart.retiring := by unfold wx; split <;> rfl
@[simp] theorem wx_hart_switching (r : Fin 32) (v : Word) (s : State) : (wx r v s).hart.switching = s.hart.switching := by unfold wx; split <;> rfl
@[simp] theorem wx_hart_parked (r : Fin 32) (v : Word) (s : State) : (wx r v s).hart.parked = s.hart.parked := by unfold wx; split <;> rfl
@[simp] theorem wx_hart_latch (r : Fin 32) (v : Word) (s : State) : (wx r v s).hart.latch = s.hart.latch := by unfold wx; split <;> rfl
@[simp] theorem wx_hart_satisfied (r : Fin 32) (v : Word) (s : State) : (wx r v s).hart.satisfied = s.hart.satisfied := by unfold wx; split <;> rfl
@[simp] theorem wx_hart_preq (r : Fin 32) (v : Word) (s : State) : (wx r v s).hart.preq = s.hart.preq := by unfold wx; split <;> rfl
@[simp] theorem wx_hart_qm (r : Fin 32) (v : Word) (s : State) : (wx r v s).hart.qm = s.hart.qm := by unfold wx; split <;> rfl
@[simp] theorem wx_hart_keys (r : Fin 32) (v : Word) (s : State) : (wx r v s).hart.keys = s.hart.keys := by unfold wx; split <;> rfl
@[simp] theorem wx_hart_chdr (r : Fin 32) (v : Word) (s : State) : (wx r v s).hart.chdr = s.hart.chdr := by unfold wx; split <;> rfl
@[simp] theorem wx_hart_crerr (r : Fin 32) (v : Word) (s : State) : (wx r v s).hart.crerr = s.hart.crerr := by unfold wx; split <;> rfl
@[simp] theorem wx_hart_failHdr (r : Fin 32) (v : Word) (s : State) : (wx r v s).hart.failHdr = s.hart.failHdr := by unfold wx; split <;> rfl
@[simp] theorem wx_hart_streams (r : Fin 32) (v : Word) (s : State) : (wx r v s).hart.streams = s.hart.streams := by unfold wx; split <;> rfl
@[simp] theorem wx_hart_binds (r : Fin 32) (v : Word) (s : State) : (wx r v s).hart.binds = s.hart.binds := by unfold wx; split <;> rfl
@[simp] theorem wx_hart_xfers (r : Fin 32) (v : Word) (s : State) : (wx r v s).hart.xfers = s.hart.xfers := by unfold wx; split <;> rfl
@[simp] theorem wx_hart_xferCount (r : Fin 32) (v : Word) (s : State) : (wx r v s).hart.xferCount = s.hart.xferCount := by unfold wx; split <;> rfl
@[simp] theorem wx_hart_queries (r : Fin 32) (v : Word) (s : State) : (wx r v s).hart.queries = s.hart.queries := by unfold wx; split <;> rfl
@[simp] theorem wx_hart_engFaults (r : Fin 32) (v : Word) (s : State) : (wx r v s).hart.engFaults = s.hart.engFaults := by unfold wx; split <;> rfl
@[simp] theorem wx_hart_engBusy (r : Fin 32) (v : Word) (s : State) : (wx r v s).hart.engBusy = s.hart.engBusy := by unfold wx; split <;> rfl
@[simp] theorem wx_hart_mstart (r : Fin 32) (v : Word) (s : State) : (wx r v s).hart.mstart = s.hart.mstart := by unfold wx; split <;> rfl
@[simp] theorem wx_hart_apxctl (r : Fin 32) (v : Word) (s : State) : (wx r v s).hart.apxctl = s.hart.apxctl := by unfold wx; split <;> rfl
@[simp] theorem wx_hart_apxerr (r : Fin 32) (v : Word) (s : State) : (wx r v s).hart.apxerr = s.hart.apxerr := by unfold wx; split <;> rfl
@[simp] theorem wx_hart_apxrate (r : Fin 32) (v : Word) (s : State) : (wx r v s).hart.apxrate = s.hart.apxrate := by unfold wx; split <;> rfl
@[simp] theorem wx_hart_apxlr (r : Fin 32) (v : Word) (s : State) : (wx r v s).hart.apxlr = s.hart.apxlr := by unfold wx; split <;> rfl
@[simp] theorem wx_hart_echo (r : Fin 32) (v : Word) (s : State) : (wx r v s).hart.echo = s.hart.echo := by unfold wx; split <;> rfl
@[simp] theorem wx_hart_surrogate (r : Fin 32) (v : Word) (s : State) : (wx r v s).hart.surrogate = s.hart.surrogate := by unfold wx; split <;> rfl
@[simp] theorem wx_hart_waits (r : Fin 32) (v : Word) (s : State) : (wx r v s).hart.waits = s.hart.waits := by unfold wx; split <;> rfl
@[simp] theorem wx_hart_stopAt (r : Fin 32) (v : Word) (s : State) : (wx r v s).hart.stopAt = s.hart.stopAt := by unfold wx; split <;> rfl
@[simp] theorem wx_hart_ahead (r : Fin 32) (v : Word) (s : State) : (wx r v s).hart.ahead = s.hart.ahead := by unfold wx; split <;> rfl
@[simp] theorem wx_hart_lag (r : Fin 32) (v : Word) (s : State) : (wx r v s).hart.lag = s.hart.lag := by unfold wx; split <;> rfl
@[simp] theorem wx_hart_late (r : Fin 32) (v : Word) (s : State) : (wx r v s).hart.late = s.hart.late := by unfold wx; split <;> rfl
@[simp] theorem wx_hart_sbuf (r : Fin 32) (v : Word) (s : State) : (wx r v s).hart.sbuf = s.hart.sbuf := by unfold wx; split <;> rfl
@[simp] theorem wx_hart_releasedOnce (r : Fin 32) (v : Word) (s : State) : (wx r v s).hart.releasedOnce = s.hart.releasedOnce := by unfold wx; split <;> rfl
@[simp] theorem wx_hart_yield (r : Fin 32) (v : Word) (s : State) : (wx r v s).hart.yield = s.hart.yield := by unfold wx; split <;> rfl

/-! ### `advance` on the hart -/

@[simp] theorem advance_hart_id (n : Nat) (s : State) : (advance n s).hart.id = s.hart.id := rfl
@[simp] theorem advance_hart_bound (n : Nat) (s : State) : (advance n s).hart.bound = s.hart.bound := rfl
@[simp] theorem advance_hart_x (n : Nat) (s : State) : (advance n s).hart.x = s.hart.x := rfl
@[simp] theorem advance_hart_priv (n : Nat) (s : State) : (advance n s).hart.priv = s.hart.priv := rfl
@[simp] theorem advance_hart_world (n : Nat) (s : State) : (advance n s).hart.world = s.hart.world := rfl
@[simp] theorem advance_hart_ct (n : Nat) (s : State) : (advance n s).hart.ct = s.hart.ct := rfl
@[simp] theorem advance_hart_ie (n : Nat) (s : State) : (advance n s).hart.ie = s.hart.ie := rfl
@[simp] theorem advance_hart_sTrap (n : Nat) (s : State) : (advance n s).hart.sTrap = s.hart.sTrap := rfl
@[simp] theorem advance_hart_mTrap (n : Nat) (s : State) : (advance n s).hart.mTrap = s.hart.mTrap := rfl
@[simp] theorem advance_hart_exitv (n : Nat) (s : State) : (advance n s).hart.exitv = s.hart.exitv := rfl
@[simp] theorem advance_hart_tdeleg (n : Nat) (s : State) : (advance n s).hart.tdeleg = s.hart.tdeleg := rfl
@[simp] theorem advance_hart_utvec (n : Nat) (s : State) : (advance n s).hart.utvec = s.hart.utvec := rfl
@[simp] theorem advance_hart_utcause (n : Nat) (s : State) : (advance n s).hart.utcause = s.hart.utcause := rfl
@[simp] theorem advance_hart_utval (n : Nat) (s : State) : (advance n s).hart.utval = s.hart.utval := rfl
@[simp] theorem advance_hart_utpc (n : Nat) (s : State) : (advance n s).hart.utpc = s.hart.utpc := rfl
@[simp] theorem advance_hart_inDeleg (n : Nat) (s : State) : (advance n s).hart.inDeleg = s.hart.inDeleg := rfl
@[simp] theorem advance_hart_ptbase (n : Nat) (s : State) : (advance n s).hart.ptbase = s.hart.ptbase := rfl
@[simp] theorem advance_hart_engflt (n : Nat) (s : State) : (advance n s).hart.engflt = s.hart.engflt := rfl
@[simp] theorem advance_hart_part (n : Nat) (s : State) : (advance n s).hart.part = s.hart.part := rfl
@[simp] theorem advance_hart_launch (n : Nat) (s : State) : (advance n s).hart.launch = s.hart.launch := rfl
@[simp] theorem advance_hart_lendHeld (n : Nat) (s : State) : (advance n s).hart.lendHeld = s.hart.lendHeld := rfl
@[simp] theorem advance_hart_vl (n : Nat) (s : State) : (advance n s).hart.vl = s.hart.vl := rfl
@[simp] theorem advance_hart_vtype (n : Nat) (s : State) : (advance n s).hart.vtype = s.hart.vtype := rfl
@[simp] theorem advance_hart_vstart (n : Nat) (s : State) : (advance n s).hart.vstart = s.hart.vstart := rfl
@[simp] theorem advance_hart_cthresh (n : Nat) (s : State) : (advance n s).hart.cthresh = s.hart.cthresh := rfl
@[simp] theorem advance_hart_ecarry (n : Nat) (s : State) : (advance n s).hart.ecarry = s.hart.ecarry := rfl
@[simp] theorem advance_hart_groups (n : Nat) (s : State) : (advance n s).hart.groups = s.hart.groups := rfl
@[simp] theorem advance_hart_lanes (n : Nat) (s : State) : (advance n s).hart.lanes = s.hart.lanes := rfl
@[simp] theorem advance_hart_v (n : Nat) (s : State) : (advance n s).hart.v = s.hart.v := rfl
@[simp] theorem advance_hart_m (n : Nat) (s : State) : (advance n s).hart.m = s.hart.m := rfl
@[simp] theorem advance_hart_vbad (n : Nat) (s : State) : (advance n s).hart.vbad = s.hart.vbad := rfl
@[simp] theorem advance_hart_mbad (n : Nat) (s : State) : (advance n s).hart.mbad = s.hart.mbad := rfl
@[simp] theorem advance_hart_vq (n : Nat) (s : State) : (advance n s).hart.vq = s.hart.vq := rfl
@[simp] theorem advance_hart_replies (n : Nat) (s : State) : (advance n s).hart.replies = s.hart.replies := rfl
@[simp] theorem advance_hart_held (n : Nat) (s : State) : (advance n s).hart.held = s.hart.held := rfl
@[simp] theorem advance_hart_groupWait (n : Nat) (s : State) : (advance n s).hart.groupWait = s.hart.groupWait := rfl
@[simp] theorem advance_hart_claimWait (n : Nat) (s : State) : (advance n s).hart.claimWait = s.hart.claimWait := rfl
@[simp] theorem advance_hart_retiring (n : Nat) (s : State) : (advance n s).hart.retiring = s.hart.retiring := rfl
@[simp] theorem advance_hart_switching (n : Nat) (s : State) : (advance n s).hart.switching = s.hart.switching := rfl
@[simp] theorem advance_hart_parked (n : Nat) (s : State) : (advance n s).hart.parked = s.hart.parked := rfl
@[simp] theorem advance_hart_latch (n : Nat) (s : State) : (advance n s).hart.latch = s.hart.latch := rfl
@[simp] theorem advance_hart_satisfied (n : Nat) (s : State) : (advance n s).hart.satisfied = s.hart.satisfied := rfl
@[simp] theorem advance_hart_preq (n : Nat) (s : State) : (advance n s).hart.preq = s.hart.preq := rfl
@[simp] theorem advance_hart_qm (n : Nat) (s : State) : (advance n s).hart.qm = s.hart.qm := rfl
@[simp] theorem advance_hart_keys (n : Nat) (s : State) : (advance n s).hart.keys = s.hart.keys := rfl
@[simp] theorem advance_hart_chdr (n : Nat) (s : State) : (advance n s).hart.chdr = s.hart.chdr := rfl
@[simp] theorem advance_hart_crerr (n : Nat) (s : State) : (advance n s).hart.crerr = s.hart.crerr := rfl
@[simp] theorem advance_hart_failHdr (n : Nat) (s : State) : (advance n s).hart.failHdr = s.hart.failHdr := rfl
@[simp] theorem advance_hart_streams (n : Nat) (s : State) : (advance n s).hart.streams = s.hart.streams := rfl
@[simp] theorem advance_hart_binds (n : Nat) (s : State) : (advance n s).hart.binds = s.hart.binds := rfl
@[simp] theorem advance_hart_xfers (n : Nat) (s : State) : (advance n s).hart.xfers = s.hart.xfers := rfl
@[simp] theorem advance_hart_xferCount (n : Nat) (s : State) : (advance n s).hart.xferCount = s.hart.xferCount := rfl
@[simp] theorem advance_hart_queries (n : Nat) (s : State) : (advance n s).hart.queries = s.hart.queries := rfl
@[simp] theorem advance_hart_engFaults (n : Nat) (s : State) : (advance n s).hart.engFaults = s.hart.engFaults := rfl
@[simp] theorem advance_hart_engBusy (n : Nat) (s : State) : (advance n s).hart.engBusy = s.hart.engBusy := rfl
@[simp] theorem advance_hart_mstart (n : Nat) (s : State) : (advance n s).hart.mstart = s.hart.mstart := rfl
@[simp] theorem advance_hart_apxctl (n : Nat) (s : State) : (advance n s).hart.apxctl = s.hart.apxctl := rfl
@[simp] theorem advance_hart_apxerr (n : Nat) (s : State) : (advance n s).hart.apxerr = s.hart.apxerr := rfl
@[simp] theorem advance_hart_apxrate (n : Nat) (s : State) : (advance n s).hart.apxrate = s.hart.apxrate := rfl
@[simp] theorem advance_hart_apxlr (n : Nat) (s : State) : (advance n s).hart.apxlr = s.hart.apxlr := rfl
@[simp] theorem advance_hart_echo (n : Nat) (s : State) : (advance n s).hart.echo = s.hart.echo := rfl
@[simp] theorem advance_hart_surrogate (n : Nat) (s : State) : (advance n s).hart.surrogate = s.hart.surrogate := rfl
@[simp] theorem advance_hart_stopAt (n : Nat) (s : State) : (advance n s).hart.stopAt = s.hart.stopAt := rfl
@[simp] theorem advance_hart_ahead (n : Nat) (s : State) : (advance n s).hart.ahead = s.hart.ahead := rfl
@[simp] theorem advance_hart_lag (n : Nat) (s : State) : (advance n s).hart.lag = s.hart.lag := rfl
@[simp] theorem advance_hart_late (n : Nat) (s : State) : (advance n s).hart.late = s.hart.late := rfl
@[simp] theorem advance_hart_sbuf (n : Nat) (s : State) : (advance n s).hart.sbuf = s.hart.sbuf := rfl
@[simp] theorem advance_hart_releasedOnce (n : Nat) (s : State) : (advance n s).hart.releasedOnce = s.hart.releasedOnce := rfl

/-! ### `jump` on the hart -/

@[simp] theorem jump_hart_id (p : Word) (s : State) : (jump p s).hart.id = s.hart.id := rfl
@[simp] theorem jump_hart_bound (p : Word) (s : State) : (jump p s).hart.bound = s.hart.bound := rfl
@[simp] theorem jump_hart_x (p : Word) (s : State) : (jump p s).hart.x = s.hart.x := rfl
@[simp] theorem jump_hart_priv (p : Word) (s : State) : (jump p s).hart.priv = s.hart.priv := rfl
@[simp] theorem jump_hart_world (p : Word) (s : State) : (jump p s).hart.world = s.hart.world := rfl
@[simp] theorem jump_hart_ct (p : Word) (s : State) : (jump p s).hart.ct = s.hart.ct := rfl
@[simp] theorem jump_hart_ie (p : Word) (s : State) : (jump p s).hart.ie = s.hart.ie := rfl
@[simp] theorem jump_hart_sTrap (p : Word) (s : State) : (jump p s).hart.sTrap = s.hart.sTrap := rfl
@[simp] theorem jump_hart_mTrap (p : Word) (s : State) : (jump p s).hart.mTrap = s.hart.mTrap := rfl
@[simp] theorem jump_hart_exitv (p : Word) (s : State) : (jump p s).hart.exitv = s.hart.exitv := rfl
@[simp] theorem jump_hart_tdeleg (p : Word) (s : State) : (jump p s).hart.tdeleg = s.hart.tdeleg := rfl
@[simp] theorem jump_hart_utvec (p : Word) (s : State) : (jump p s).hart.utvec = s.hart.utvec := rfl
@[simp] theorem jump_hart_utcause (p : Word) (s : State) : (jump p s).hart.utcause = s.hart.utcause := rfl
@[simp] theorem jump_hart_utval (p : Word) (s : State) : (jump p s).hart.utval = s.hart.utval := rfl
@[simp] theorem jump_hart_utpc (p : Word) (s : State) : (jump p s).hart.utpc = s.hart.utpc := rfl
@[simp] theorem jump_hart_inDeleg (p : Word) (s : State) : (jump p s).hart.inDeleg = s.hart.inDeleg := rfl
@[simp] theorem jump_hart_ptbase (p : Word) (s : State) : (jump p s).hart.ptbase = s.hart.ptbase := rfl
@[simp] theorem jump_hart_engflt (p : Word) (s : State) : (jump p s).hart.engflt = s.hart.engflt := rfl
@[simp] theorem jump_hart_part (p : Word) (s : State) : (jump p s).hart.part = s.hart.part := rfl
@[simp] theorem jump_hart_launch (p : Word) (s : State) : (jump p s).hart.launch = s.hart.launch := rfl
@[simp] theorem jump_hart_loops (p : Word) (s : State) : (jump p s).hart.loops = s.hart.loops := rfl
@[simp] theorem jump_hart_lendHeld (p : Word) (s : State) : (jump p s).hart.lendHeld = s.hart.lendHeld := rfl
@[simp] theorem jump_hart_vl (p : Word) (s : State) : (jump p s).hart.vl = s.hart.vl := rfl
@[simp] theorem jump_hart_vtype (p : Word) (s : State) : (jump p s).hart.vtype = s.hart.vtype := rfl
@[simp] theorem jump_hart_vstart (p : Word) (s : State) : (jump p s).hart.vstart = s.hart.vstart := rfl
@[simp] theorem jump_hart_cthresh (p : Word) (s : State) : (jump p s).hart.cthresh = s.hart.cthresh := rfl
@[simp] theorem jump_hart_ecarry (p : Word) (s : State) : (jump p s).hart.ecarry = s.hart.ecarry := rfl
@[simp] theorem jump_hart_groups (p : Word) (s : State) : (jump p s).hart.groups = s.hart.groups := rfl
@[simp] theorem jump_hart_lanes (p : Word) (s : State) : (jump p s).hart.lanes = s.hart.lanes := rfl
@[simp] theorem jump_hart_v (p : Word) (s : State) : (jump p s).hart.v = s.hart.v := rfl
@[simp] theorem jump_hart_m (p : Word) (s : State) : (jump p s).hart.m = s.hart.m := rfl
@[simp] theorem jump_hart_vbad (p : Word) (s : State) : (jump p s).hart.vbad = s.hart.vbad := rfl
@[simp] theorem jump_hart_mbad (p : Word) (s : State) : (jump p s).hart.mbad = s.hart.mbad := rfl
@[simp] theorem jump_hart_vq (p : Word) (s : State) : (jump p s).hart.vq = s.hart.vq := rfl
@[simp] theorem jump_hart_replies (p : Word) (s : State) : (jump p s).hart.replies = s.hart.replies := rfl
@[simp] theorem jump_hart_held (p : Word) (s : State) : (jump p s).hart.held = s.hart.held := rfl
@[simp] theorem jump_hart_groupWait (p : Word) (s : State) : (jump p s).hart.groupWait = s.hart.groupWait := rfl
@[simp] theorem jump_hart_claimWait (p : Word) (s : State) : (jump p s).hart.claimWait = s.hart.claimWait := rfl
@[simp] theorem jump_hart_retiring (p : Word) (s : State) : (jump p s).hart.retiring = s.hart.retiring := rfl
@[simp] theorem jump_hart_switching (p : Word) (s : State) : (jump p s).hart.switching = s.hart.switching := rfl
@[simp] theorem jump_hart_parked (p : Word) (s : State) : (jump p s).hart.parked = s.hart.parked := rfl
@[simp] theorem jump_hart_latch (p : Word) (s : State) : (jump p s).hart.latch = s.hart.latch := rfl
@[simp] theorem jump_hart_satisfied (p : Word) (s : State) : (jump p s).hart.satisfied = s.hart.satisfied := rfl
@[simp] theorem jump_hart_preq (p : Word) (s : State) : (jump p s).hart.preq = s.hart.preq := rfl
@[simp] theorem jump_hart_qm (p : Word) (s : State) : (jump p s).hart.qm = s.hart.qm := rfl
@[simp] theorem jump_hart_keys (p : Word) (s : State) : (jump p s).hart.keys = s.hart.keys := rfl
@[simp] theorem jump_hart_chdr (p : Word) (s : State) : (jump p s).hart.chdr = s.hart.chdr := rfl
@[simp] theorem jump_hart_crerr (p : Word) (s : State) : (jump p s).hart.crerr = s.hart.crerr := rfl
@[simp] theorem jump_hart_failHdr (p : Word) (s : State) : (jump p s).hart.failHdr = s.hart.failHdr := rfl
@[simp] theorem jump_hart_streams (p : Word) (s : State) : (jump p s).hart.streams = s.hart.streams := rfl
@[simp] theorem jump_hart_binds (p : Word) (s : State) : (jump p s).hart.binds = s.hart.binds := rfl
@[simp] theorem jump_hart_xfers (p : Word) (s : State) : (jump p s).hart.xfers = s.hart.xfers := rfl
@[simp] theorem jump_hart_xferCount (p : Word) (s : State) : (jump p s).hart.xferCount = s.hart.xferCount := rfl
@[simp] theorem jump_hart_queries (p : Word) (s : State) : (jump p s).hart.queries = s.hart.queries := rfl
@[simp] theorem jump_hart_engFaults (p : Word) (s : State) : (jump p s).hart.engFaults = s.hart.engFaults := rfl
@[simp] theorem jump_hart_engBusy (p : Word) (s : State) : (jump p s).hart.engBusy = s.hart.engBusy := rfl
@[simp] theorem jump_hart_mstart (p : Word) (s : State) : (jump p s).hart.mstart = s.hart.mstart := rfl
@[simp] theorem jump_hart_apxctl (p : Word) (s : State) : (jump p s).hart.apxctl = s.hart.apxctl := rfl
@[simp] theorem jump_hart_apxerr (p : Word) (s : State) : (jump p s).hart.apxerr = s.hart.apxerr := rfl
@[simp] theorem jump_hart_apxrate (p : Word) (s : State) : (jump p s).hart.apxrate = s.hart.apxrate := rfl
@[simp] theorem jump_hart_apxlr (p : Word) (s : State) : (jump p s).hart.apxlr = s.hart.apxlr := rfl
@[simp] theorem jump_hart_echo (p : Word) (s : State) : (jump p s).hart.echo = s.hart.echo := rfl
@[simp] theorem jump_hart_surrogate (p : Word) (s : State) : (jump p s).hart.surrogate = s.hart.surrogate := rfl
@[simp] theorem jump_hart_stopAt (p : Word) (s : State) : (jump p s).hart.stopAt = s.hart.stopAt := rfl
@[simp] theorem jump_hart_ahead (p : Word) (s : State) : (jump p s).hart.ahead = s.hart.ahead := rfl
@[simp] theorem jump_hart_lag (p : Word) (s : State) : (jump p s).hart.lag = s.hart.lag := rfl
@[simp] theorem jump_hart_late (p : Word) (s : State) : (jump p s).hart.late = s.hart.late := rfl
@[simp] theorem jump_hart_sbuf (p : Word) (s : State) : (jump p s).hart.sbuf = s.hart.sbuf := rfl
@[simp] theorem jump_hart_releasedOnce (p : Word) (s : State) : (jump p s).hart.releasedOnce = s.hart.releasedOnce := rfl

@[simp] theorem retire_hart_id (s : State) : (retire s).hart.id = s.hart.id := rfl
@[simp] theorem retire_hart_bound (s : State) : (retire s).hart.bound = s.hart.bound := rfl
@[simp] theorem retire_hart_x (s : State) : (retire s).hart.x = s.hart.x := rfl
@[simp] theorem retire_hart_priv (s : State) : (retire s).hart.priv = s.hart.priv := rfl
@[simp] theorem retire_hart_world (s : State) : (retire s).hart.world = s.hart.world := rfl
@[simp] theorem retire_hart_ct (s : State) : (retire s).hart.ct = s.hart.ct := rfl
@[simp] theorem retire_hart_ie (s : State) : (retire s).hart.ie = s.hart.ie := rfl
@[simp] theorem retire_hart_sTrap (s : State) : (retire s).hart.sTrap = s.hart.sTrap := rfl
@[simp] theorem retire_hart_mTrap (s : State) : (retire s).hart.mTrap = s.hart.mTrap := rfl
@[simp] theorem retire_hart_exitv (s : State) : (retire s).hart.exitv = s.hart.exitv := rfl
@[simp] theorem retire_hart_tdeleg (s : State) : (retire s).hart.tdeleg = s.hart.tdeleg := rfl
@[simp] theorem retire_hart_utvec (s : State) : (retire s).hart.utvec = s.hart.utvec := rfl
@[simp] theorem retire_hart_utcause (s : State) : (retire s).hart.utcause = s.hart.utcause := rfl
@[simp] theorem retire_hart_utval (s : State) : (retire s).hart.utval = s.hart.utval := rfl
@[simp] theorem retire_hart_utpc (s : State) : (retire s).hart.utpc = s.hart.utpc := rfl
@[simp] theorem retire_hart_inDeleg (s : State) : (retire s).hart.inDeleg = s.hart.inDeleg := rfl
@[simp] theorem retire_hart_ptbase (s : State) : (retire s).hart.ptbase = s.hart.ptbase := rfl
@[simp] theorem retire_hart_engflt (s : State) : (retire s).hart.engflt = s.hart.engflt := rfl
@[simp] theorem retire_hart_part (s : State) : (retire s).hart.part = s.hart.part := rfl
@[simp] theorem retire_hart_launch (s : State) : (retire s).hart.launch = s.hart.launch := rfl
@[simp] theorem retire_hart_lendHeld (s : State) : (retire s).hart.lendHeld = s.hart.lendHeld := rfl
@[simp] theorem retire_hart_vl (s : State) : (retire s).hart.vl = s.hart.vl := rfl
@[simp] theorem retire_hart_vtype (s : State) : (retire s).hart.vtype = s.hart.vtype := rfl
@[simp] theorem retire_hart_vstart (s : State) : (retire s).hart.vstart = s.hart.vstart := rfl
@[simp] theorem retire_hart_cthresh (s : State) : (retire s).hart.cthresh = s.hart.cthresh := rfl
@[simp] theorem retire_hart_ecarry (s : State) : (retire s).hart.ecarry = s.hart.ecarry := rfl
@[simp] theorem retire_hart_groups (s : State) : (retire s).hart.groups = s.hart.groups := rfl
@[simp] theorem retire_hart_lanes (s : State) : (retire s).hart.lanes = s.hart.lanes := rfl
@[simp] theorem retire_hart_v (s : State) : (retire s).hart.v = s.hart.v := rfl
@[simp] theorem retire_hart_m (s : State) : (retire s).hart.m = s.hart.m := rfl
@[simp] theorem retire_hart_vbad (s : State) : (retire s).hart.vbad = s.hart.vbad := rfl
@[simp] theorem retire_hart_mbad (s : State) : (retire s).hart.mbad = s.hart.mbad := rfl
@[simp] theorem retire_hart_vq (s : State) : (retire s).hart.vq = s.hart.vq := rfl
@[simp] theorem retire_hart_replies (s : State) : (retire s).hart.replies = s.hart.replies := rfl
@[simp] theorem retire_hart_held (s : State) : (retire s).hart.held = s.hart.held := rfl
@[simp] theorem retire_hart_groupWait (s : State) : (retire s).hart.groupWait = s.hart.groupWait := rfl
@[simp] theorem retire_hart_claimWait (s : State) : (retire s).hart.claimWait = s.hart.claimWait := rfl
@[simp] theorem retire_hart_retiring (s : State) : (retire s).hart.retiring = s.hart.retiring := rfl
@[simp] theorem retire_hart_switching (s : State) : (retire s).hart.switching = s.hart.switching := rfl
@[simp] theorem retire_hart_parked (s : State) : (retire s).hart.parked = s.hart.parked := rfl
@[simp] theorem retire_hart_latch (s : State) : (retire s).hart.latch = s.hart.latch := rfl
@[simp] theorem retire_hart_satisfied (s : State) : (retire s).hart.satisfied = s.hart.satisfied := rfl
@[simp] theorem retire_hart_preq (s : State) : (retire s).hart.preq = s.hart.preq := rfl
@[simp] theorem retire_hart_qm (s : State) : (retire s).hart.qm = s.hart.qm := rfl
@[simp] theorem retire_hart_keys (s : State) : (retire s).hart.keys = s.hart.keys := rfl
@[simp] theorem retire_hart_chdr (s : State) : (retire s).hart.chdr = s.hart.chdr := rfl
@[simp] theorem retire_hart_crerr (s : State) : (retire s).hart.crerr = s.hart.crerr := rfl
@[simp] theorem retire_hart_failHdr (s : State) : (retire s).hart.failHdr = s.hart.failHdr := rfl
@[simp] theorem retire_hart_streams (s : State) : (retire s).hart.streams = s.hart.streams := rfl
@[simp] theorem retire_hart_binds (s : State) : (retire s).hart.binds = s.hart.binds := rfl
@[simp] theorem retire_hart_xfers (s : State) : (retire s).hart.xfers = s.hart.xfers := rfl
@[simp] theorem retire_hart_xferCount (s : State) : (retire s).hart.xferCount = s.hart.xferCount := rfl
@[simp] theorem retire_hart_queries (s : State) : (retire s).hart.queries = s.hart.queries := rfl
@[simp] theorem retire_hart_engFaults (s : State) : (retire s).hart.engFaults = s.hart.engFaults := rfl
@[simp] theorem retire_hart_engBusy (s : State) : (retire s).hart.engBusy = s.hart.engBusy := rfl
@[simp] theorem retire_hart_mstart (s : State) : (retire s).hart.mstart = s.hart.mstart := rfl
@[simp] theorem retire_hart_apxctl (s : State) : (retire s).hart.apxctl = s.hart.apxctl := rfl
@[simp] theorem retire_hart_apxerr (s : State) : (retire s).hart.apxerr = s.hart.apxerr := rfl
@[simp] theorem retire_hart_apxrate (s : State) : (retire s).hart.apxrate = s.hart.apxrate := rfl
@[simp] theorem retire_hart_apxlr (s : State) : (retire s).hart.apxlr = s.hart.apxlr := rfl
@[simp] theorem retire_hart_echo (s : State) : (retire s).hart.echo = s.hart.echo := rfl
@[simp] theorem retire_hart_surrogate (s : State) : (retire s).hart.surrogate = s.hart.surrogate := rfl
@[simp] theorem retire_hart_stopAt (s : State) : (retire s).hart.stopAt = s.hart.stopAt := rfl
@[simp] theorem retire_hart_ahead (s : State) : (retire s).hart.ahead = s.hart.ahead := rfl
@[simp] theorem retire_hart_lag (s : State) : (retire s).hart.lag = s.hart.lag := rfl
@[simp] theorem retire_hart_late (s : State) : (retire s).hart.late = s.hart.late := rfl
@[simp] theorem retire_hart_sbuf (s : State) : (retire s).hart.sbuf = s.hart.sbuf := rfl
@[simp] theorem retire_hart_releasedOnce (s : State) : (retire s).hart.releasedOnce = s.hart.releasedOnce := rfl

@[simp] theorem jump_hart_pc (p : Word) (s : State) : (jump p s).hart.pc = p := rfl
@[simp] theorem wait_hart_yield (s : State) : (wait s).hart.yield = true := rfl

end Sys2Proof.Machine
end

