-- ==== Sys2Proof/Laws/Focus.lean ====
section
/-!
SUPPORT. Focus: an act of the hart, core or die in focus is that act itself, and an act elsewhere changes what stands there.
-/
namespace Sys2Proof.Machine

@[simp] theorem focus_self (s : State) : focus s.hart.id s = some s := by simp [focus]

@[simp] theorem focusCore_self (s : State) : focusCore s.core.id s = s := by simp [focusCore]

@[simp] theorem focusDie_self (s : State) : focusDie s.die.id s = s := by simp [focusDie]

/-- An act of the hart in focus that leaves the focus where it is. -/
theorem asHart_self {s : State} {f : State → State} (h : (f s).hart.id = s.hart.id) : asHart s.hart.id f s = f s := by
  have e : focus s.hart.id (f s) = some (f s) := by rw [← h]; exact focus_self _
  simp [asHart, e]

theorem asCore_self {s : State} {f : State → State} (h : (f s).core.id = s.core.id) : asCore s.core.id f s = f s := by
  have e : focusCore s.core.id (f s) = f s := by rw [← h]; exact focusCore_self _
  simp [asCore, e]

theorem asDie_self {s : State} {f : State → State} (h : (f s).die.id = s.die.id) : asDie s.die.id f s = f s := by
  have e : focusDie s.die.id (f s) = f s := by rw [← h]; exact focusDie_self _
  simp [asDie, e]

@[simp] theorem focusCore_mem (c : Nat) (s : State) : (focusCore c s).mem = s.mem := by unfold focusCore; split <;> rfl
@[simp] theorem focusCore_dev (c : Nat) (s : State) : (focusCore c s).dev = s.dev := by unfold focusCore; split <;> rfl
@[simp] theorem focusCore_hart (c : Nat) (s : State) : (focusCore c s).hart = s.hart := by unfold focusCore; split <;> rfl
@[simp] theorem focusDie_mem (d : Nat) (s : State) : (focusDie d s).mem = s.mem := by unfold focusDie; split <;> rfl
@[simp] theorem focusDie_dev (d : Nat) (s : State) : (focusDie d s).dev = s.dev := by unfold focusDie; split <;> rfl
@[simp] theorem focusDie_hart (d : Nat) (s : State) : (focusDie d s).hart = s.hart := by unfold focusDie; split <;> rfl

theorem focus_mem {h : Nat} {s t : State} (e : focus h s = some t) : t.mem = s.mem := by
  unfold focus at e
  split at e
  · cases e; rfl
  · split at e
    · cases e
    · cases e; simp

/-- An act of a hart changes memory as the act does. -/
theorem asHart_mem_inv {P : List Host.Cell → Prop} {h : Nat} {f : State → State} {s : State} (hs : P s.mem)
    (hf : ∀ u : State, P u.mem → P (f u).mem) : P (asHart h f s).mem := by
  unfold asHart
  split
  · exact hs
  · rename_i t e
    have ht : P (f t).mem := hf t (by rw [focus_mem e]; exact hs)
    cases k : focus s.hart.id (f t) with
    | none => exact ht
    | some u => simp only [Option.getD_some]; rw [focus_mem k]; exact ht

theorem asCore_mem_inv {P : List Host.Cell → Prop} {c : Nat} {f : State → State} {s : State} (hs : P s.mem)
    (hf : ∀ u : State, P u.mem → P (f u).mem) : P (asCore c f s).mem := by
  simp only [asCore, focusCore_mem]; exact hf _ (by simpa using hs)

theorem asDie_mem_inv {P : List Host.Cell → Prop} {d : Nat} {f : State → State} {s : State} (hs : P s.mem)
    (hf : ∀ u : State, P u.mem → P (f u).mem) : P (asDie d f s).mem := by
  simp only [asDie, focusDie_mem]; exact hf _ (by simpa using hs)

end Sys2Proof.Machine
end

