-- ==== Sys2Proof/Laws/Memory.lean ====
section
/-!
SUPPORT. Memory bytes: reading after a write, bytes elsewhere, and the canonical form, which every memory operation
keeps.
-/
namespace Sys2Proof.Machine

theorem Memory.wfFrom_mono {lo lo' : Nat} {m : List Host.Cell} (h : Memory.wfFrom lo m = true) (le : lo' ≤ lo) :
    Memory.wfFrom lo' m = true := by
  cases m with
  | nil => rfl
  | cons c rest => simp only [Memory.wfFrom, Bool.and_eq_true, decide_eq_true_eq] at *; exact ⟨⟨by omega, h.1.2⟩, h.2⟩

theorem Memory.read_below {lo x : Nat} {m : List Host.Cell} (h : Memory.wfFrom lo m = true) (lt : x < lo) :
    Memory.read m x = Memory.unlisted := by
  induction m generalizing lo with
  | nil => rfl
  | cons c rest ih =>
    simp only [Memory.wfFrom, Bool.and_eq_true, decide_eq_true_eq] at h
    simp only [Memory.read]
    rw [if_neg (by omega)]
    exact ih h.2 (by omega)

theorem Memory.wfFrom_write {lo a : Nat} {m : List Host.Cell} (b : Byte) (h : Memory.wfFrom lo m = true) (le : lo ≤ a) :
    Memory.wfFrom lo (Memory.write m a b) = true := by
  induction m generalizing lo with
  | nil => simp only [Memory.write]; split <;> simp_all [Memory.wfFrom]
  | cons c rest ih =>
    have h' := h
    simp only [Memory.wfFrom, Bool.and_eq_true, decide_eq_true_eq] at h'
    obtain ⟨⟨hlo, hne⟩, hrest⟩ := h'
    simp only [Memory.write]
    split
    · split
      · exact h
      · rename_i hb
        simp only [Memory.wfFrom, Bool.and_eq_true, decide_eq_true_eq]
        exact ⟨⟨le, by simpa using hb⟩, ⟨by omega, hne⟩, hrest⟩
    · split
      · split
        · exact Memory.wfFrom_mono hrest (by omega)
        · rename_i hac hb
          simp only [Memory.wfFrom, Bool.and_eq_true, decide_eq_true_eq]
          exact ⟨⟨le, by simpa using hb⟩, by rw [hac]; exact hrest⟩
      · simp only [Memory.wfFrom, Bool.and_eq_true, decide_eq_true_eq]
        exact ⟨⟨hlo, hne⟩, ih hrest (by omega)⟩

/-- A byte written keeps the canonical form. -/
theorem Memory.wf_write {m : List Host.Cell} (a : Nat) (b : Byte) (h : Memory.wf m = true) :
    Memory.wf (Memory.write m a b) = true := Memory.wfFrom_write b h (Nat.zero_le a)

/-- Bytes written keep the canonical form. -/
theorem Memory.wf_writes {m : List Host.Cell} (a : Nat) (bs : List Byte) (h : Memory.wf m = true) :
    Memory.wf (Memory.writes m a bs) = true := by
  induction bs generalizing m a with
  | nil => exact h
  | cons b bs ih => exact ih (a + 1) (Memory.wf_write a b h)

theorem Memory.wfFrom_filter {lo : Nat} {m : List Host.Cell} (p : Host.Cell → Bool) (h : Memory.wfFrom lo m = true) :
    Memory.wfFrom lo (m.filter p) = true := by
  induction m generalizing lo with
  | nil => rfl
  | cons c rest ih =>
    simp only [Memory.wfFrom, Bool.and_eq_true, decide_eq_true_eq] at h
    rw [List.filter_cons]
    split
    · simp only [Memory.wfFrom, Bool.and_eq_true, decide_eq_true_eq]
      exact ⟨h.1, ih h.2⟩
    · exact Memory.wfFrom_mono (ih h.2) (by omega)

/-- A cleared range keeps the canonical form. -/
theorem Memory.wf_clear {m : List Host.Cell} (lo hi : Nat) (h : Memory.wf m = true) :
    Memory.wf (Memory.clear m lo hi) = true := Memory.wfFrom_filter _ h

/-- A byte written reads as written. -/
theorem Memory.read_write {m : List Host.Cell} (a : Nat) (b : Byte) (h : Memory.wf m = true) :
    Memory.read (Memory.write m a b) a = b := by
  suffices ∀ lo, Memory.wfFrom lo m = true → Memory.read (Memory.write m a b) a = b from this 0 h
  intro lo h
  induction m generalizing lo with
  | nil => simp only [Memory.write]; split <;> simp_all [Memory.read]
  | cons c rest ih =>
    have h' := h
    simp only [Memory.wfFrom, Bool.and_eq_true, decide_eq_true_eq] at h'
    simp only [Memory.write]
    split
    · rename_i lt
      split
      · rename_i hb
        rw [hb]
        exact Memory.read_below (lo := c.1) (by simp only [Memory.wfFrom, Bool.and_eq_true, decide_eq_true_eq]; exact ⟨⟨Nat.le_refl _, h'.1.2⟩, h'.2⟩) lt
      · simp [Memory.read]
    · split
      · rename_i e
        split
        · rename_i hb
          rw [hb]
          exact Memory.read_below h'.2 (by omega)
        · simp [Memory.read]
      · rename_i ne
        simp only [Memory.read]
        rw [if_neg (fun e => ne e.symm)]
        exact ih (by simpa [Memory.wf] using Memory.wfFrom_mono h'.2 (Nat.zero_le _)) _ h'.2

/-- A byte elsewhere reads as before. -/
theorem Memory.read_write_ne (m : List Host.Cell) {a x : Nat} (b : Byte) (ne : x ≠ a) :
    Memory.read (Memory.write m a b) x = Memory.read m x := by
  induction m with
  | nil => simp only [Memory.write]; split <;> simp [Memory.read, ne.symm]
  | cons c rest ih =>
    simp only [Memory.write]
    split
    · split
      · rfl
      · simp [Memory.read, ne.symm]
    · split
      · rename_i e
        have hc : ¬c.1 = x := fun h => ne (by omega)
        split
        · simp [Memory.read, hc]
        · simp only [Memory.read]
          rw [if_neg ne.symm, if_neg hc]
      · simp only [Memory.read]
        split
        · rfl
        · exact ih

/-- Bytes outside a written range read as before. -/
theorem Memory.read_writes_outside (m : List Host.Cell) (a : Nat) (bs : List Byte) {x : Nat}
    (out : x < a ∨ a + bs.length ≤ x) : Memory.read (Memory.writes m a bs) x = Memory.read m x := by
  induction bs generalizing m a with
  | nil => rfl
  | cons b bs ih =>
    simp only [List.length_cons] at out
    simp only [Memory.writes]
    rw [ih _ _ (by omega), Memory.read_write_ne _ _ (by omega)]

/-- Bytes inside a written range read as written. -/
theorem Memory.read_writes_inside {m : List Host.Cell} (a : Nat) (bs : List Byte) (h : Memory.wf m = true) {i : Nat}
    (lt : i < bs.length) : Memory.read (Memory.writes m a bs) (a + i) = bs[i] := by
  induction bs generalizing m a i with
  | nil => simp at lt
  | cons b bs ih =>
    simp only [Memory.writes]
    cases i with
    | zero =>
      rw [Memory.read_writes_outside _ _ _ (by omega)]
      simpa using Memory.read_write a b h
    | succ i =>
      have := ih (a + 1) (Memory.wf_write a b h) (i := i) (by simpa using lt)
      simpa [Nat.add_assoc, Nat.add_comm 1 i] using this

/-- Written bytes read back. -/
theorem Memory.reads_writes {m : List Host.Cell} (a : Nat) (bs : List Byte) (h : Memory.wf m = true) {n : Nat} (le : n ≤ bs.length) :
    Memory.reads (Memory.writes m a bs) a n = bs.take n := by
  apply List.ext_getElem
  · simp [Memory.reads]; omega
  · intro i h1 h2
    simp only [Memory.reads, List.getElem_map, List.getElem_range, List.getElem_take]
    exact Memory.read_writes_inside a bs h (by simp at h2; omega)

/-- A cleared byte reads as an unlisted one. -/
theorem Memory.read_clear_inside (m : List Host.Cell) {lo hi x : Nat} (h : lo ≤ x ∧ x < hi) :
    Memory.read (Memory.clear m lo hi) x = Memory.unlisted := by
  induction m with
  | nil => rfl
  | cons c rest ih =>
    simp only [Memory.clear, List.filter_cons] at *
    split
    · rename_i keep
      simp only [Memory.read]
      rw [if_neg (by intro e; simp [e] at keep; omega)]
      exact ih
    · exact ih

/-- A byte outside a cleared range reads as before. -/
theorem Memory.read_clear_outside (m : List Host.Cell) {lo hi x : Nat} (h : x < lo ∨ hi ≤ x) :
    Memory.read (Memory.clear m lo hi) x = Memory.read m x := by
  induction m with
  | nil => rfl
  | cons c rest ih =>
    simp only [Memory.clear, List.filter_cons] at *
    split
    · simp only [Memory.read]; split
      · rfl
      · exact ih
    · rename_i drop
      simp only [Memory.read]
      rw [if_neg (by intro e; simp [e] at drop; omega)]
      exact ih

/-- `poke` keeps the canonical form. -/
theorem poke_wf (a : Nat) (bs : List Byte) {s : State} (h : Memory.wf s.mem = true) : Memory.wf (poke a bs s).mem = true :=
  Memory.wf_writes a bs h

/-- `clearMem` keeps the canonical form. -/
theorem clearMem_wf (lo hi : Nat) {s : State} (h : Memory.wf s.mem = true) : Memory.wf (clearMem lo hi s).mem = true :=
  Memory.wf_clear lo hi h

/-- R345: a block decrypted under the version with which it was encrypted is the block. -/
theorem padBlock_padBlock (s : State) (b : Nat) (bs : List Byte) : padBlock s b (padBlock s b bs) = bs := by
  apply List.ext_getElem
  · simp [padBlock]
  · intro i h1 h2
    simp [padBlock, BitVec.xor_assoc]

/-- R345: what main memory stores of a block opens to its plaintext. -/
theorem padBlock_storedBlock (s : State) (b : Nat) : padBlock s b (storedBlock s b) = blockBytes s b :=
  padBlock_padBlock s b _

/-- R421: what every poke keeps, stale marks keep. -/
theorem markStale_inv {P : State → Prop} (h : ∀ a bs u, P u → P (poke a bs u)) (desc copy : Nat) {s : State} (hs : P s) :
    P (markStale desc copy s) := by
  unfold markStale
  generalize List.range 6 = l
  induction l generalizing s with
  | nil => exact hs
  | cons i is ih =>
    rw [List.foldl_cons]
    refine ih ?_
    show P (if _ then _ else _)
    split
    · exact h _ _ _ hs
    · exact hs

/-- R421: stale marks keep the canonical form. -/
theorem markStale_wf (desc copy : Nat) {s : State} (h : Memory.wf s.mem = true) : Memory.wf (markStale desc copy s).mem = true :=
  markStale_inv (P := fun u => Memory.wf u.mem = true) (fun a bs _ => poke_wf a bs) desc copy h

/-- Memory after reset is in canonical form. -/
theorem reset_wf : Memory.wf State.reset.mem = true := rfl

end Sys2Proof.Machine
end

