-- ==== Sys2Proof/Laws/PerInstr.lean ====
section
/-!
SUPPORT. What holds of every instruction as syntax, one lemma per constructor: its word, where it has one, is a 32-bit
word.
-/
namespace Sys2Proof.Laws.EncodeFits

/-- R137: the word of an instruction fits 32 bits. -/
def Statement (i : Instr) : Prop := ∀ w, encode i = some w → w < 2 ^ 32

theorem bit_lt (b : Bool) : bit b < 2 := by cases b <;> decide

theorem add (x0 : Fin 32) (x1 : Fin 32) (x2 : Fin 32) : Statement (.add x0 x1 x2) := fun w h => by have e := Option.some.inj h; omega
theorem sub (x0 : Fin 32) (x1 : Fin 32) (x2 : Fin 32) : Statement (.sub x0 x1 x2) := fun w h => by have e := Option.some.inj h; omega
theorem and (x0 : Fin 32) (x1 : Fin 32) (x2 : Fin 32) : Statement (.and x0 x1 x2) := fun w h => by have e := Option.some.inj h; omega
theorem or (x0 : Fin 32) (x1 : Fin 32) (x2 : Fin 32) : Statement (.or x0 x1 x2) := fun w h => by have e := Option.some.inj h; omega
theorem xor (x0 : Fin 32) (x1 : Fin 32) (x2 : Fin 32) : Statement (.xor x0 x1 x2) := fun w h => by have e := Option.some.inj h; omega
theorem sll (x0 : Fin 32) (x1 : Fin 32) (x2 : Fin 32) : Statement (.sll x0 x1 x2) := fun w h => by have e := Option.some.inj h; omega
theorem srl (x0 : Fin 32) (x1 : Fin 32) (x2 : Fin 32) : Statement (.srl x0 x1 x2) := fun w h => by have e := Option.some.inj h; omega
theorem sra (x0 : Fin 32) (x1 : Fin 32) (x2 : Fin 32) : Statement (.sra x0 x1 x2) := fun w h => by have e := Option.some.inj h; omega
theorem slt (x0 : Fin 32) (x1 : Fin 32) (x2 : Fin 32) : Statement (.slt x0 x1 x2) := fun w h => by have e := Option.some.inj h; omega
theorem sltu (x0 : Fin 32) (x1 : Fin 32) (x2 : Fin 32) : Statement (.sltu x0 x1 x2) := fun w h => by have e := Option.some.inj h; omega
theorem min (x0 : Fin 32) (x1 : Fin 32) (x2 : Fin 32) : Statement (.min x0 x1 x2) := fun w h => by have e := Option.some.inj h; omega
theorem max (x0 : Fin 32) (x1 : Fin 32) (x2 : Fin 32) : Statement (.max x0 x1 x2) := fun w h => by have e := Option.some.inj h; omega
theorem minu (x0 : Fin 32) (x1 : Fin 32) (x2 : Fin 32) : Statement (.minu x0 x1 x2) := fun w h => by have e := Option.some.inj h; omega
theorem maxu (x0 : Fin 32) (x1 : Fin 32) (x2 : Fin 32) : Statement (.maxu x0 x1 x2) := fun w h => by have e := Option.some.inj h; omega
theorem mul (x0 : Fin 32) (x1 : Fin 32) (x2 : Fin 32) : Statement (.mul x0 x1 x2) := fun w h => by have e := Option.some.inj h; omega
theorem mulh (x0 : Fin 32) (x1 : Fin 32) (x2 : Fin 32) : Statement (.mulh x0 x1 x2) := fun w h => by have e := Option.some.inj h; omega
theorem mulhu (x0 : Fin 32) (x1 : Fin 32) (x2 : Fin 32) : Statement (.mulhu x0 x1 x2) := fun w h => by have e := Option.some.inj h; omega
theorem div (x0 : Fin 32) (x1 : Fin 32) (x2 : Fin 32) : Statement (.div x0 x1 x2) := fun w h => by have e := Option.some.inj h; omega
theorem divu (x0 : Fin 32) (x1 : Fin 32) (x2 : Fin 32) : Statement (.divu x0 x1 x2) := fun w h => by have e := Option.some.inj h; omega
theorem rem (x0 : Fin 32) (x1 : Fin 32) (x2 : Fin 32) : Statement (.rem x0 x1 x2) := fun w h => by have e := Option.some.inj h; omega
theorem remu (x0 : Fin 32) (x1 : Fin 32) (x2 : Fin 32) : Statement (.remu x0 x1 x2) := fun w h => by have e := Option.some.inj h; omega
theorem clz (x0 : Fin 32) (x1 : Fin 32) : Statement (.clz x0 x1) := fun w h => by have e := Option.some.inj h; omega
theorem popc (x0 : Fin 32) (x1 : Fin 32) : Statement (.popc x0 x1) := fun w h => by have e := Option.some.inj h; omega
theorem ctz (x0 : Fin 32) (x1 : Fin 32) : Statement (.ctz x0 x1) := fun w h => by have e := Option.some.inj h; omega
theorem addi (x0 : Fin 32) (x1 : Fin 32) (x2 : Fin 32768) : Statement (.addi x0 x1 x2) := fun w h => by have e := Option.some.inj h; omega
theorem andi (x0 : Fin 32) (x1 : Fin 32) (x2 : Fin 32768) : Statement (.andi x0 x1 x2) := fun w h => by have e := Option.some.inj h; omega
theorem ori (x0 : Fin 32) (x1 : Fin 32) (x2 : Fin 32768) : Statement (.ori x0 x1 x2) := fun w h => by have e := Option.some.inj h; omega
theorem xori (x0 : Fin 32) (x1 : Fin 32) (x2 : Fin 32768) : Statement (.xori x0 x1 x2) := fun w h => by have e := Option.some.inj h; omega
theorem slti (x0 : Fin 32) (x1 : Fin 32) (x2 : Fin 32768) : Statement (.slti x0 x1 x2) := fun w h => by have e := Option.some.inj h; omega
theorem sltiu (x0 : Fin 32) (x1 : Fin 32) (x2 : Fin 32768) : Statement (.sltiu x0 x1 x2) := fun w h => by have e := Option.some.inj h; omega
theorem slli (x0 : Fin 32) (x1 : Fin 32) (x2 : Fin 64) : Statement (.slli x0 x1 x2) := fun w h => by have e := Option.some.inj h; omega
theorem srli (x0 : Fin 32) (x1 : Fin 32) (x2 : Fin 64) : Statement (.srli x0 x1 x2) := fun w h => by have e := Option.some.inj h; omega
theorem srai (x0 : Fin 32) (x1 : Fin 32) (x2 : Fin 64) : Statement (.srai x0 x1 x2) := fun w h => by have e := Option.some.inj h; omega
theorem lui (x0 : Fin 32) (x1 : Fin 1048576) : Statement (.lui x0 x1) := fun w h => by have e := Option.some.inj h; omega
theorem auipc (x0 : Fin 32) (x1 : Fin 1048576) : Statement (.auipc x0 x1) := fun w h => by have e := Option.some.inj h; omega
theorem ldb (x0 : Fin 32) (x1 : Fin 32) (x2 : Fin 4096) : Statement (.ldb x0 x1 x2) := fun w h => by have e := Option.some.inj h; omega
theorem ldh (x0 : Fin 32) (x1 : Fin 32) (x2 : Fin 4096) : Statement (.ldh x0 x1 x2) := fun w h => by have e := Option.some.inj h; omega
theorem ldw (x0 : Fin 32) (x1 : Fin 32) (x2 : Fin 4096) : Statement (.ldw x0 x1 x2) := fun w h => by have e := Option.some.inj h; omega
theorem ldd (x0 : Fin 32) (x1 : Fin 32) (x2 : Fin 4096) : Statement (.ldd x0 x1 x2) := fun w h => by have e := Option.some.inj h; omega
theorem ldbu (x0 : Fin 32) (x1 : Fin 32) (x2 : Fin 4096) : Statement (.ldbu x0 x1 x2) := fun w h => by have e := Option.some.inj h; omega
theorem ldhu (x0 : Fin 32) (x1 : Fin 32) (x2 : Fin 4096) : Statement (.ldhu x0 x1 x2) := fun w h => by have e := Option.some.inj h; omega
theorem ldwu (x0 : Fin 32) (x1 : Fin 32) (x2 : Fin 4096) : Statement (.ldwu x0 x1 x2) := fun w h => by have e := Option.some.inj h; omega
theorem stb (x0 : Fin 32) (x1 : Fin 32) (x2 : Fin 4096) : Statement (.stb x0 x1 x2) := fun w h => by have e := Option.some.inj h; omega
theorem sth (x0 : Fin 32) (x1 : Fin 32) (x2 : Fin 4096) : Statement (.sth x0 x1 x2) := fun w h => by have e := Option.some.inj h; omega
theorem stw (x0 : Fin 32) (x1 : Fin 32) (x2 : Fin 4096) : Statement (.stw x0 x1 x2) := fun w h => by have e := Option.some.inj h; omega
theorem std (x0 : Fin 32) (x1 : Fin 32) (x2 : Fin 4096) : Statement (.std x0 x1 x2) := fun w h => by have e := Option.some.inj h; omega
theorem beq (x0 : Fin 32) (x1 : Fin 32) (x2 : Fin 32768) : Statement (.beq x0 x1 x2) := fun w h => by have e := Option.some.inj h; omega
theorem bne (x0 : Fin 32) (x1 : Fin 32) (x2 : Fin 32768) : Statement (.bne x0 x1 x2) := fun w h => by have e := Option.some.inj h; omega
theorem blt (x0 : Fin 32) (x1 : Fin 32) (x2 : Fin 32768) : Statement (.blt x0 x1 x2) := fun w h => by have e := Option.some.inj h; omega
theorem bge (x0 : Fin 32) (x1 : Fin 32) (x2 : Fin 32768) : Statement (.bge x0 x1 x2) := fun w h => by have e := Option.some.inj h; omega
theorem bltu (x0 : Fin 32) (x1 : Fin 32) (x2 : Fin 32768) : Statement (.bltu x0 x1 x2) := fun w h => by have e := Option.some.inj h; omega
theorem bgeu (x0 : Fin 32) (x1 : Fin 32) (x2 : Fin 32768) : Statement (.bgeu x0 x1 x2) := fun w h => by have e := Option.some.inj h; omega
theorem jal (x0 : Fin 32) (x1 : Fin 1048576) : Statement (.jal x0 x1) := fun w h => by have e := Option.some.inj h; omega
theorem jalr (x0 : Fin 32) (x1 : Fin 32) (x2 : Fin 32768) : Statement (.jalr x0 x1 x2) := fun w h => by have e := Option.some.inj h; omega
theorem amoswap (x0 : Fin 32) (x1 : Fin 32) (x2 : Fin 32) (x3 : Bool) (x4 : Bool) (x5 : Bool) (x6 : Fin 8) : Statement (.amoswap x0 x1 x2 x3 x4 x5 x6) := fun w h => by have e := Option.some.inj h; have h3 := bit_lt x3; have h4 := bit_lt x4; have h5 := bit_lt x5; omega
theorem amoadd (x0 : Fin 32) (x1 : Fin 32) (x2 : Fin 32) (x3 : Bool) (x4 : Bool) (x5 : Bool) (x6 : Fin 8) : Statement (.amoadd x0 x1 x2 x3 x4 x5 x6) := fun w h => by have e := Option.some.inj h; have h3 := bit_lt x3; have h4 := bit_lt x4; have h5 := bit_lt x5; omega
theorem amoand (x0 : Fin 32) (x1 : Fin 32) (x2 : Fin 32) (x3 : Bool) (x4 : Bool) (x5 : Bool) (x6 : Fin 8) : Statement (.amoand x0 x1 x2 x3 x4 x5 x6) := fun w h => by have e := Option.some.inj h; have h3 := bit_lt x3; have h4 := bit_lt x4; have h5 := bit_lt x5; omega
theorem amoor (x0 : Fin 32) (x1 : Fin 32) (x2 : Fin 32) (x3 : Bool) (x4 : Bool) (x5 : Bool) (x6 : Fin 8) : Statement (.amoor x0 x1 x2 x3 x4 x5 x6) := fun w h => by have e := Option.some.inj h; have h3 := bit_lt x3; have h4 := bit_lt x4; have h5 := bit_lt x5; omega
theorem amoxor (x0 : Fin 32) (x1 : Fin 32) (x2 : Fin 32) (x3 : Bool) (x4 : Bool) (x5 : Bool) (x6 : Fin 8) : Statement (.amoxor x0 x1 x2 x3 x4 x5 x6) := fun w h => by have e := Option.some.inj h; have h3 := bit_lt x3; have h4 := bit_lt x4; have h5 := bit_lt x5; omega
theorem amomin (x0 : Fin 32) (x1 : Fin 32) (x2 : Fin 32) (x3 : Bool) (x4 : Bool) (x5 : Bool) (x6 : Fin 8) : Statement (.amomin x0 x1 x2 x3 x4 x5 x6) := fun w h => by have e := Option.some.inj h; have h3 := bit_lt x3; have h4 := bit_lt x4; have h5 := bit_lt x5; omega
theorem amomax (x0 : Fin 32) (x1 : Fin 32) (x2 : Fin 32) (x3 : Bool) (x4 : Bool) (x5 : Bool) (x6 : Fin 8) : Statement (.amomax x0 x1 x2 x3 x4 x5 x6) := fun w h => by have e := Option.some.inj h; have h3 := bit_lt x3; have h4 := bit_lt x4; have h5 := bit_lt x5; omega
theorem amominu (x0 : Fin 32) (x1 : Fin 32) (x2 : Fin 32) (x3 : Bool) (x4 : Bool) (x5 : Bool) (x6 : Fin 8) : Statement (.amominu x0 x1 x2 x3 x4 x5 x6) := fun w h => by have e := Option.some.inj h; have h3 := bit_lt x3; have h4 := bit_lt x4; have h5 := bit_lt x5; omega
theorem amomaxu (x0 : Fin 32) (x1 : Fin 32) (x2 : Fin 32) (x3 : Bool) (x4 : Bool) (x5 : Bool) (x6 : Fin 8) : Statement (.amomaxu x0 x1 x2 x3 x4 x5 x6) := fun w h => by have e := Option.some.inj h; have h3 := bit_lt x3; have h4 := bit_lt x4; have h5 := bit_lt x5; omega
theorem amocas (x0 : Fin 32) (x1 : Fin 32) (x2 : Fin 32) (x3 : Bool) (x4 : Bool) (x5 : Bool) (x6 : Fin 8) : Statement (.amocas x0 x1 x2 x3 x4 x5 x6) := fun w h => by have e := Option.some.inj h; have h3 := bit_lt x3; have h4 := bit_lt x4; have h5 := bit_lt x5; omega
theorem loop (x0 : Fin 2) (x1 : Fin 32) (x2 : Fin 32768) : Statement (.loop x0 x1 x2) := fun w h => by have e := Option.some.inj h; omega
theorem ecall : Statement (.ecall) := fun w h => by have e := Option.some.inj h; omega
theorem ebreak : Statement (.ebreak) := fun w h => by have e := Option.some.inj h; omega
theorem tret : Statement (.tret) := fun w h => by have e := Option.some.inj h; omega
theorem park : Statement (.park) := fun w h => by have e := Option.some.inj h; omega
theorem wsw (x0 : Fin 32) : Statement (.wsw x0) := fun w h => by have e := Option.some.inj h; omega
theorem mvlc (x0 : Fin 2) (x1 : Fin 32) : Statement (.mvlc x0 x1) := fun w h => by have e := Option.some.inj h; omega
theorem fenceSv (x0 : Fin 8) : Statement (.fenceSv x0) := fun w h => by have e := Option.some.inj h; omega
theorem fenceVs (x0 : Fin 8) : Statement (.fenceVs x0) := fun w h => by have e := Option.some.inj h; omega
theorem fenceVv (x0 : Fin 8) : Statement (.fenceVv x0) := fun w h => by have e := Option.some.inj h; omega
theorem fenceAll (x0 : Fin 8) : Statement (.fenceAll x0) := fun w h => by have e := Option.some.inj h; omega
theorem csrr (x0 : Fin 32) (x1 : Fin 4096) : Statement (.csrr x0 x1) := fun w h => by have e := Option.some.inj h; omega
theorem csrw (x0 : Fin 32) (x1 : Fin 32) (x2 : Fin 4096) : Statement (.csrw x0 x1 x2) := fun w h => by have e := Option.some.inj h; omega
theorem csrs (x0 : Fin 32) (x1 : Fin 32) (x2 : Fin 4096) : Statement (.csrs x0 x1 x2) := fun w h => by have e := Option.some.inj h; omega
theorem csrc (x0 : Fin 32) (x1 : Fin 32) (x2 : Fin 4096) : Statement (.csrc x0 x1 x2) := fun w h => by have e := Option.some.inj h; omega
theorem tlbinvAll (x0 : Bool) : Statement (.tlbinvAll x0) := fun _ h => nomatch h
theorem tlbinvPage (x0 : Nat) : Statement (.tlbinvPage x0) := fun _ h => nomatch h
theorem preqWrite (x0 : Fin 512) : Statement (.preqWrite x0) := fun _ h => nomatch h
theorem victqWrite (x0 : BitVec 64) : Statement (.victqWrite x0) := fun _ h => nomatch h
theorem ggroupWrite (x0 : Fin 4096) : Statement (.ggroupWrite x0) := fun _ h => nomatch h
theorem setvl (x0 : Fin 32) (x1 : Fin 32) (x2 : Fin 4096) : Statement (.setvl x0 x1 x2) := fun w h => by have e := Option.some.inj h; omega
theorem laneGroupGrant (x0 : Nat) : Statement (.laneGroupGrant x0) := fun _ h => nomatch h
theorem laneGroupScrubbed (x0 : Nat) (x1 : Fin 8) : Statement (.laneGroupScrubbed x0 x1) := fun _ h => nomatch h
theorem vbany (x0 : Fin 8) (x1 : Fin 32768) : Statement (.vbany x0 x1) := fun w h => by have e := Option.some.inj h; omega
theorem vbnone (x0 : Fin 8) (x1 : Fin 32768) : Statement (.vbnone x0 x1) := fun w h => by have e := Option.some.inj h; omega
theorem vbranchResolve (x0 : Nat) : Statement (.vbranchResolve x0) := fun _ h => nomatch h
theorem vadd (x0 : Bool) (x1 : Fin 32) (x2 : Fin 32) (x3 : Fin 32) (x4 : Fin 8) (x5 : Bool) : Statement (.vadd x0 x1 x2 x3 x4 x5) := fun w h => by have e := Option.some.inj h; have h0 := bit_lt x0; have h5 := bit_lt x5; omega
theorem vsub (x0 : Bool) (x1 : Fin 32) (x2 : Fin 32) (x3 : Fin 32) (x4 : Fin 8) (x5 : Bool) : Statement (.vsub x0 x1 x2 x3 x4 x5) := fun w h => by have e := Option.some.inj h; have h0 := bit_lt x0; have h5 := bit_lt x5; omega
theorem vrsub (x0 : Bool) (x1 : Fin 32) (x2 : Fin 32) (x3 : Fin 32) (x4 : Fin 8) (x5 : Bool) : Statement (.vrsub x0 x1 x2 x3 x4 x5) := fun w h => by have e := Option.some.inj h; have h0 := bit_lt x0; have h5 := bit_lt x5; omega
theorem vmul (x0 : Bool) (x1 : Fin 32) (x2 : Fin 32) (x3 : Fin 32) (x4 : Fin 8) (x5 : Bool) : Statement (.vmul x0 x1 x2 x3 x4 x5) := fun w h => by have e := Option.some.inj h; have h0 := bit_lt x0; have h5 := bit_lt x5; omega
theorem vmulh (x0 : Bool) (x1 : Fin 32) (x2 : Fin 32) (x3 : Fin 32) (x4 : Fin 8) (x5 : Bool) : Statement (.vmulh x0 x1 x2 x3 x4 x5) := fun w h => by have e := Option.some.inj h; have h0 := bit_lt x0; have h5 := bit_lt x5; omega
theorem vmulhu (x0 : Bool) (x1 : Fin 32) (x2 : Fin 32) (x3 : Fin 32) (x4 : Fin 8) (x5 : Bool) : Statement (.vmulhu x0 x1 x2 x3 x4 x5) := fun w h => by have e := Option.some.inj h; have h0 := bit_lt x0; have h5 := bit_lt x5; omega
theorem vand (x0 : Bool) (x1 : Fin 32) (x2 : Fin 32) (x3 : Fin 32) (x4 : Fin 8) (x5 : Bool) : Statement (.vand x0 x1 x2 x3 x4 x5) := fun w h => by have e := Option.some.inj h; have h0 := bit_lt x0; have h5 := bit_lt x5; omega
theorem vor (x0 : Bool) (x1 : Fin 32) (x2 : Fin 32) (x3 : Fin 32) (x4 : Fin 8) (x5 : Bool) : Statement (.vor x0 x1 x2 x3 x4 x5) := fun w h => by have e := Option.some.inj h; have h0 := bit_lt x0; have h5 := bit_lt x5; omega
theorem vxor (x0 : Bool) (x1 : Fin 32) (x2 : Fin 32) (x3 : Fin 32) (x4 : Fin 8) (x5 : Bool) : Statement (.vxor x0 x1 x2 x3 x4 x5) := fun w h => by have e := Option.some.inj h; have h0 := bit_lt x0; have h5 := bit_lt x5; omega
theorem vsll (x0 : Bool) (x1 : Fin 32) (x2 : Fin 32) (x3 : Fin 32) (x4 : Fin 8) (x5 : Bool) : Statement (.vsll x0 x1 x2 x3 x4 x5) := fun w h => by have e := Option.some.inj h; have h0 := bit_lt x0; have h5 := bit_lt x5; omega
theorem vsrl (x0 : Bool) (x1 : Fin 32) (x2 : Fin 32) (x3 : Fin 32) (x4 : Fin 8) (x5 : Bool) : Statement (.vsrl x0 x1 x2 x3 x4 x5) := fun w h => by have e := Option.some.inj h; have h0 := bit_lt x0; have h5 := bit_lt x5; omega
theorem vsra (x0 : Bool) (x1 : Fin 32) (x2 : Fin 32) (x3 : Fin 32) (x4 : Fin 8) (x5 : Bool) : Statement (.vsra x0 x1 x2 x3 x4 x5) := fun w h => by have e := Option.some.inj h; have h0 := bit_lt x0; have h5 := bit_lt x5; omega
theorem vmin (x0 : Bool) (x1 : Fin 32) (x2 : Fin 32) (x3 : Fin 32) (x4 : Fin 8) (x5 : Bool) : Statement (.vmin x0 x1 x2 x3 x4 x5) := fun w h => by have e := Option.some.inj h; have h0 := bit_lt x0; have h5 := bit_lt x5; omega
theorem vmax (x0 : Bool) (x1 : Fin 32) (x2 : Fin 32) (x3 : Fin 32) (x4 : Fin 8) (x5 : Bool) : Statement (.vmax x0 x1 x2 x3 x4 x5) := fun w h => by have e := Option.some.inj h; have h0 := bit_lt x0; have h5 := bit_lt x5; omega
theorem vminu (x0 : Bool) (x1 : Fin 32) (x2 : Fin 32) (x3 : Fin 32) (x4 : Fin 8) (x5 : Bool) : Statement (.vminu x0 x1 x2 x3 x4 x5) := fun w h => by have e := Option.some.inj h; have h0 := bit_lt x0; have h5 := bit_lt x5; omega
theorem vmaxu (x0 : Bool) (x1 : Fin 32) (x2 : Fin 32) (x3 : Fin 32) (x4 : Fin 8) (x5 : Bool) : Statement (.vmaxu x0 x1 x2 x3 x4 x5) := fun w h => by have e := Option.some.inj h; have h0 := bit_lt x0; have h5 := bit_lt x5; omega
theorem vsadd (x0 : Bool) (x1 : Fin 32) (x2 : Fin 32) (x3 : Fin 32) (x4 : Fin 8) (x5 : Bool) : Statement (.vsadd x0 x1 x2 x3 x4 x5) := fun w h => by have e := Option.some.inj h; have h0 := bit_lt x0; have h5 := bit_lt x5; omega
theorem vssub (x0 : Bool) (x1 : Fin 32) (x2 : Fin 32) (x3 : Fin 32) (x4 : Fin 8) (x5 : Bool) : Statement (.vssub x0 x1 x2 x3 x4 x5) := fun w h => by have e := Option.some.inj h; have h0 := bit_lt x0; have h5 := bit_lt x5; omega
theorem vsaddu (x0 : Bool) (x1 : Fin 32) (x2 : Fin 32) (x3 : Fin 32) (x4 : Fin 8) (x5 : Bool) : Statement (.vsaddu x0 x1 x2 x3 x4 x5) := fun w h => by have e := Option.some.inj h; have h0 := bit_lt x0; have h5 := bit_lt x5; omega
theorem vssubu (x0 : Bool) (x1 : Fin 32) (x2 : Fin 32) (x3 : Fin 32) (x4 : Fin 8) (x5 : Bool) : Statement (.vssubu x0 x1 x2 x3 x4 x5) := fun w h => by have e := Option.some.inj h; have h0 := bit_lt x0; have h5 := bit_lt x5; omega
theorem vmerge (x0 : Bool) (x1 : Fin 32) (x2 : Fin 32) (x3 : Fin 32) (x4 : Fin 8) (x5 : Bool) : Statement (.vmerge x0 x1 x2 x3 x4 x5) := fun w h => by have e := Option.some.inj h; have h0 := bit_lt x0; have h5 := bit_lt x5; omega
theorem vmv (x0 : Bool) (x1 : Fin 32) (x2 : Fin 32) (x3 : Fin 8) (x4 : Bool) : Statement (.vmv x0 x1 x2 x3 x4) := fun w h => by have e := Option.some.inj h; have h0 := bit_lt x0; have h4 := bit_lt x4; omega
theorem vid (x0 : Bool) (x1 : Fin 32) (x2 : Fin 8) : Statement (.vid x0 x1 x2) := fun w h => by have e := Option.some.inj h; have h0 := bit_lt x0; omega
theorem vcmpeq (x0 : Bool) (x1 : Fin 8) (x2 : Fin 32) (x3 : Fin 32) (x4 : Fin 8) (x5 : Bool) : Statement (.vcmpeq x0 x1 x2 x3 x4 x5) := fun w h => by have e := Option.some.inj h; have h0 := bit_lt x0; have h5 := bit_lt x5; omega
theorem vcmpne (x0 : Bool) (x1 : Fin 8) (x2 : Fin 32) (x3 : Fin 32) (x4 : Fin 8) (x5 : Bool) : Statement (.vcmpne x0 x1 x2 x3 x4 x5) := fun w h => by have e := Option.some.inj h; have h0 := bit_lt x0; have h5 := bit_lt x5; omega
theorem vcmplt (x0 : Bool) (x1 : Fin 8) (x2 : Fin 32) (x3 : Fin 32) (x4 : Fin 8) (x5 : Bool) : Statement (.vcmplt x0 x1 x2 x3 x4 x5) := fun w h => by have e := Option.some.inj h; have h0 := bit_lt x0; have h5 := bit_lt x5; omega
theorem vcmpltu (x0 : Bool) (x1 : Fin 8) (x2 : Fin 32) (x3 : Fin 32) (x4 : Fin 8) (x5 : Bool) : Statement (.vcmpltu x0 x1 x2 x3 x4 x5) := fun w h => by have e := Option.some.inj h; have h0 := bit_lt x0; have h5 := bit_lt x5; omega
theorem vcmple (x0 : Bool) (x1 : Fin 8) (x2 : Fin 32) (x3 : Fin 32) (x4 : Fin 8) (x5 : Bool) : Statement (.vcmple x0 x1 x2 x3 x4 x5) := fun w h => by have e := Option.some.inj h; have h0 := bit_lt x0; have h5 := bit_lt x5; omega
theorem vcmpleu (x0 : Bool) (x1 : Fin 8) (x2 : Fin 32) (x3 : Fin 32) (x4 : Fin 8) (x5 : Bool) : Statement (.vcmpleu x0 x1 x2 x3 x4 x5) := fun w h => by have e := Option.some.inj h; have h0 := bit_lt x0; have h5 := bit_lt x5; omega
theorem vfadd (x0 : Bool) (x1 : Fin 32) (x2 : Fin 32) (x3 : Fin 32) (x4 : Fin 8) (x5 : Bool) : Statement (.vfadd x0 x1 x2 x3 x4 x5) := fun w h => by have e := Option.some.inj h; have h0 := bit_lt x0; have h5 := bit_lt x5; omega
theorem vfsub (x0 : Bool) (x1 : Fin 32) (x2 : Fin 32) (x3 : Fin 32) (x4 : Fin 8) (x5 : Bool) : Statement (.vfsub x0 x1 x2 x3 x4 x5) := fun w h => by have e := Option.some.inj h; have h0 := bit_lt x0; have h5 := bit_lt x5; omega
theorem vfmul (x0 : Bool) (x1 : Fin 32) (x2 : Fin 32) (x3 : Fin 32) (x4 : Fin 8) (x5 : Bool) : Statement (.vfmul x0 x1 x2 x3 x4 x5) := fun w h => by have e := Option.some.inj h; have h0 := bit_lt x0; have h5 := bit_lt x5; omega
theorem vfma (x0 : Bool) (x1 : Fin 32) (x2 : Fin 32) (x3 : Fin 32) (x4 : Fin 8) (x5 : Bool) : Statement (.vfma x0 x1 x2 x3 x4 x5) := fun w h => by have e := Option.some.inj h; have h0 := bit_lt x0; have h5 := bit_lt x5; omega
theorem vfmin (x0 : Bool) (x1 : Fin 32) (x2 : Fin 32) (x3 : Fin 32) (x4 : Fin 8) (x5 : Bool) : Statement (.vfmin x0 x1 x2 x3 x4 x5) := fun w h => by have e := Option.some.inj h; have h0 := bit_lt x0; have h5 := bit_lt x5; omega
theorem vfmax (x0 : Bool) (x1 : Fin 32) (x2 : Fin 32) (x3 : Fin 32) (x4 : Fin 8) (x5 : Bool) : Statement (.vfmax x0 x1 x2 x3 x4 x5) := fun w h => by have e := Option.some.inj h; have h0 := bit_lt x0; have h5 := bit_lt x5; omega
theorem vfcmpeq (x0 : Bool) (x1 : Fin 8) (x2 : Fin 32) (x3 : Fin 32) (x4 : Fin 8) (x5 : Bool) : Statement (.vfcmpeq x0 x1 x2 x3 x4 x5) := fun w h => by have e := Option.some.inj h; have h0 := bit_lt x0; have h5 := bit_lt x5; omega
theorem vfcmplt (x0 : Bool) (x1 : Fin 8) (x2 : Fin 32) (x3 : Fin 32) (x4 : Fin 8) (x5 : Bool) : Statement (.vfcmplt x0 x1 x2 x3 x4 x5) := fun w h => by have e := Option.some.inj h; have h0 := bit_lt x0; have h5 := bit_lt x5; omega
theorem vfcmple (x0 : Bool) (x1 : Fin 8) (x2 : Fin 32) (x3 : Fin 32) (x4 : Fin 8) (x5 : Bool) : Statement (.vfcmple x0 x1 x2 x3 x4 x5) := fun w h => by have e := Option.some.inj h; have h0 := bit_lt x0; have h5 := bit_lt x5; omega
theorem vfcvtif (x0 : Bool) (x1 : Fin 32) (x2 : Fin 32) (x3 : Fin 8) : Statement (.vfcvtif x0 x1 x2 x3) := fun w h => by have e := Option.some.inj h; have h0 := bit_lt x0; omega
theorem vfcvtfi (x0 : Bool) (x1 : Fin 32) (x2 : Fin 32) (x3 : Fin 8) : Statement (.vfcvtfi x0 x1 x2 x3) := fun w h => by have e := Option.some.inj h; have h0 := bit_lt x0; omega
theorem vslideup (x0 : Bool) (x1 : Fin 32) (x2 : Fin 32) (x3 : Fin 32) (x4 : Fin 8) : Statement (.vslideup x0 x1 x2 x3 x4) := fun w h => by have e := Option.some.inj h; have h0 := bit_lt x0; omega
theorem vslidedn (x0 : Bool) (x1 : Fin 32) (x2 : Fin 32) (x3 : Fin 32) (x4 : Fin 8) : Statement (.vslidedn x0 x1 x2 x3 x4) := fun w h => by have e := Option.some.inj h; have h0 := bit_lt x0; omega
theorem vshuf (x0 : Bool) (x1 : Fin 32) (x2 : Fin 32) (x3 : Fin 32) (x4 : Fin 8) : Statement (.vshuf x0 x1 x2 x3 x4) := fun w h => by have e := Option.some.inj h; have h0 := bit_lt x0; omega
theorem vcompress (x0 : Bool) (x1 : Fin 32) (x2 : Fin 32) (x3 : Fin 8) (x4 : Fin 8) : Statement (.vcompress x0 x1 x2 x3 x4) := fun w h => by have e := Option.some.inj h; have h0 := bit_lt x0; omega
theorem vexpand (x0 : Bool) (x1 : Fin 32) (x2 : Fin 32) (x3 : Fin 8) (x4 : Fin 8) : Statement (.vexpand x0 x1 x2 x3 x4) := fun w h => by have e := Option.some.inj h; have h0 := bit_lt x0; omega
theorem vredsum (x0 : Bool) (x1 : Fin 32) (x2 : Fin 32) (x3 : Fin 32) (x4 : Fin 8) : Statement (.vredsum x0 x1 x2 x3 x4) := fun w h => by have e := Option.some.inj h; have h0 := bit_lt x0; omega
theorem vredmax (x0 : Bool) (x1 : Fin 32) (x2 : Fin 32) (x3 : Fin 32) (x4 : Fin 8) : Statement (.vredmax x0 x1 x2 x3 x4) := fun w h => by have e := Option.some.inj h; have h0 := bit_lt x0; omega
theorem vredmin (x0 : Bool) (x1 : Fin 32) (x2 : Fin 32) (x3 : Fin 32) (x4 : Fin 8) : Statement (.vredmin x0 x1 x2 x3 x4) := fun w h => by have e := Option.some.inj h; have h0 := bit_lt x0; omega
theorem vredand (x0 : Bool) (x1 : Fin 32) (x2 : Fin 32) (x3 : Fin 32) (x4 : Fin 8) : Statement (.vredand x0 x1 x2 x3 x4) := fun w h => by have e := Option.some.inj h; have h0 := bit_lt x0; omega
theorem vredor (x0 : Bool) (x1 : Fin 32) (x2 : Fin 32) (x3 : Fin 32) (x4 : Fin 8) : Statement (.vredor x0 x1 x2 x3 x4) := fun w h => by have e := Option.some.inj h; have h0 := bit_lt x0; omega
theorem vmfirst (x0 : Bool) (x1 : Fin 32) (x2 : Fin 8) (x3 : Fin 8) : Statement (.vmfirst x0 x1 x2 x3) := fun w h => by have e := Option.some.inj h; have h0 := bit_lt x0; omega
theorem vmpopc (x0 : Bool) (x1 : Fin 32) (x2 : Fin 8) (x3 : Fin 8) : Statement (.vmpopc x0 x1 x2 x3) := fun w h => by have e := Option.some.inj h; have h0 := bit_lt x0; omega
theorem vmand (x0 : Bool) (x1 : Fin 8) (x2 : Fin 8) (x3 : Fin 8) (x4 : Fin 8) : Statement (.vmand x0 x1 x2 x3 x4) := fun w h => by have e := Option.some.inj h; have h0 := bit_lt x0; omega
theorem vmor (x0 : Bool) (x1 : Fin 8) (x2 : Fin 8) (x3 : Fin 8) (x4 : Fin 8) : Statement (.vmor x0 x1 x2 x3 x4) := fun w h => by have e := Option.some.inj h; have h0 := bit_lt x0; omega
theorem vmxor (x0 : Bool) (x1 : Fin 8) (x2 : Fin 8) (x3 : Fin 8) (x4 : Fin 8) : Statement (.vmxor x0 x1 x2 x3 x4) := fun w h => by have e := Option.some.inj h; have h0 := bit_lt x0; omega
theorem vmnot (x0 : Bool) (x1 : Fin 8) (x2 : Fin 8) (x3 : Fin 8) : Statement (.vmnot x0 x1 x2 x3) := fun w h => by have e := Option.some.inj h; have h0 := bit_lt x0; omega
theorem vmvxs (x0 : Bool) (x1 : Fin 32) (x2 : Fin 32) (x3 : Fin 32) : Statement (.vmvxs x0 x1 x2 x3) := fun w h => by have e := Option.some.inj h; have h0 := bit_lt x0; omega
theorem vsplat (x0 : Bool) (x1 : Fin 32) (x2 : Fin 32) (x3 : Fin 8) : Statement (.vsplat x0 x1 x2 x3) := fun w h => by have e := Option.some.inj h; have h0 := bit_lt x0; omega
theorem vnarrow (x0 : Bool) (x1 : Fin 32) (x2 : Fin 32) (x3 : Fin 32) (x4 : Fin 8) : Statement (.vnarrow x0 x1 x2 x3 x4) := fun w h => by have e := Option.some.inj h; have h0 := bit_lt x0; omega
theorem vwiden (x0 : Bool) (x1 : Fin 32) (x2 : Fin 32) (x3 : Fin 32) (x4 : Fin 8) : Statement (.vwiden x0 x1 x2 x3 x4) := fun w h => by have e := Option.some.inj h; have h0 := bit_lt x0; omega
theorem vscale (x0 : Bool) (x1 : Fin 32) (x2 : Fin 32) (x3 : Fin 8) : Statement (.vscale x0 x1 x2 x3) := fun w h => by have e := Option.some.inj h; have h0 := bit_lt x0; omega
theorem vmadd (x0 : Bool) (x1 : Fin 32) (x2 : Fin 32) (x3 : Fin 32) (x4 : Fin 8) (x5 : Fin 4) : Statement (.vmadd x0 x1 x2 x3 x4 x5) := fun w h => by have e := Option.some.inj h; have h0 := bit_lt x0; omega
theorem vmsub (x0 : Bool) (x1 : Fin 32) (x2 : Fin 32) (x3 : Fin 32) (x4 : Fin 8) (x5 : Fin 4) : Statement (.vmsub x0 x1 x2 x3 x4 x5) := fun w h => by have e := Option.some.inj h; have h0 := bit_lt x0; omega
theorem vmmul (x0 : Bool) (x1 : Fin 32) (x2 : Fin 32) (x3 : Fin 32) (x4 : Fin 8) (x5 : Fin 4) : Statement (.vmmul x0 x1 x2 x3 x4 x5) := fun w h => by have e := Option.some.inj h; have h0 := bit_lt x0; omega
theorem vmmac (x0 : Bool) (x1 : Fin 32) (x2 : Fin 32) (x3 : Fin 32) (x4 : Fin 8) (x5 : Fin 4) : Statement (.vmmac x0 x1 x2 x3 x4 x5) := fun w h => by have e := Option.some.inj h; have h0 := bit_lt x0; omega
theorem vmneg (x0 : Bool) (x1 : Fin 32) (x2 : Fin 32) (x3 : Fin 8) (x4 : Fin 4) : Statement (.vmneg x0 x1 x2 x3 x4) := fun w h => by have e := Option.some.inj h; have h0 := bit_lt x0; omega
theorem vmred (x0 : Bool) (x1 : Fin 32) (x2 : Fin 32) (x3 : Fin 8) (x4 : Fin 4) : Statement (.vmred x0 x1 x2 x3 x4) := fun w h => by have e := Option.some.inj h; have h0 := bit_lt x0; omega
theorem vbfly (x0 : Bool) (x1 : Fin 32) (x2 : Fin 32) (x3 : Fin 32) (x4 : Fin 8) (x5 : Fin 4) : Statement (.vbfly x0 x1 x2 x3 x4 x5) := fun w h => by have e := Option.some.inj h; have h0 := bit_lt x0; omega
theorem vibfly (x0 : Bool) (x1 : Fin 32) (x2 : Fin 32) (x3 : Fin 32) (x4 : Fin 8) (x5 : Fin 4) : Statement (.vibfly x0 x1 x2 x3 x4 x5) := fun w h => by have e := Option.some.inj h; have h0 := bit_lt x0; omega
theorem vnegrot (x0 : Bool) (x1 : Fin 32) (x2 : Fin 32) (x3 : Fin 32) (x4 : Fin 8) (x5 : Fin 4) : Statement (.vnegrot x0 x1 x2 x3 x4 x5) := fun w h => by have e := Option.some.inj h; have h0 := bit_lt x0; omega
theorem vauto (x0 : Bool) (x1 : Fin 32) (x2 : Fin 32) (x3 : Fin 32) (x4 : Fin 8) (x5 : Fin 4) : Statement (.vauto x0 x1 x2 x3 x4 x5) := fun w h => by have e := Option.some.inj h; have h0 := bit_lt x0; omega
theorem vdecomp (x0 : Bool) (x1 : Fin 32) (x2 : Fin 32) (x3 : Fin 32) (x4 : Fin 8) (x5 : Fin 4) : Statement (.vdecomp x0 x1 x2 x3 x4 x5) := fun w h => by have e := Option.some.inj h; have h0 := bit_lt x0; omega
theorem vmswitch (x0 : Bool) (x1 : Fin 32) (x2 : Fin 32) (x3 : Fin 32) (x4 : Fin 8) (x5 : Fin 4) : Statement (.vmswitch x0 x1 x2 x3 x4 x5) := fun w h => by have e := Option.some.inj h; have h0 := bit_lt x0; omega
theorem vld (x0 : Bool) (x1 : Fin 32) (x2 : Fin 32) (x3 : Fin 8) (x4 : Bool) : Statement (.vld x0 x1 x2 x3 x4) := fun w h => by have e := Option.some.inj h; have h0 := bit_lt x0; have h4 := bit_lt x4; omega
theorem vlds (x0 : Bool) (x1 : Fin 32) (x2 : Fin 32) (x3 : Fin 32) (x4 : Fin 8) (x5 : Bool) : Statement (.vlds x0 x1 x2 x3 x4 x5) := fun w h => by have e := Option.some.inj h; have h0 := bit_lt x0; have h5 := bit_lt x5; omega
theorem vldx (x0 : Bool) (x1 : Fin 32) (x2 : Fin 32) (x3 : Fin 32) (x4 : Fin 8) (x5 : Bool) : Statement (.vldx x0 x1 x2 x3 x4 x5) := fun w h => by have e := Option.some.inj h; have h0 := bit_lt x0; have h5 := bit_lt x5; omega
theorem vldff (x0 : Bool) (x1 : Fin 32) (x2 : Fin 32) (x3 : Fin 8) (x4 : Bool) : Statement (.vldff x0 x1 x2 x3 x4) := fun w h => by have e := Option.some.inj h; have h0 := bit_lt x0; have h4 := bit_lt x4; omega
theorem vldb (x0 : Bool) (x1 : Fin 32) (x2 : Fin 32) (x3 : Fin 32) (x4 : Fin 8) (x5 : Bool) : Statement (.vldb x0 x1 x2 x3 x4 x5) := fun w h => by have e := Option.some.inj h; have h0 := bit_lt x0; have h5 := bit_lt x5; omega
theorem vst (x0 : Bool) (x1 : Fin 32) (x2 : Fin 32) (x3 : Fin 8) (x4 : Bool) : Statement (.vst x0 x1 x2 x3 x4) := fun w h => by have e := Option.some.inj h; have h0 := bit_lt x0; have h4 := bit_lt x4; omega
theorem vsts (x0 : Bool) (x1 : Fin 32) (x2 : Fin 32) (x3 : Fin 32) (x4 : Fin 8) (x5 : Bool) : Statement (.vsts x0 x1 x2 x3 x4 x5) := fun w h => by have e := Option.some.inj h; have h0 := bit_lt x0; have h5 := bit_lt x5; omega
theorem vstx (x0 : Bool) (x1 : Fin 32) (x2 : Fin 32) (x3 : Fin 32) (x4 : Fin 8) (x5 : Bool) : Statement (.vstx x0 x1 x2 x3 x4 x5) := fun w h => by have e := Option.some.inj h; have h0 := bit_lt x0; have h5 := bit_lt x5; omega
theorem vstb (x0 : Bool) (x1 : Fin 32) (x2 : Fin 32) (x3 : Fin 32) (x4 : Fin 8) (x5 : Bool) : Statement (.vstb x0 x1 x2 x3 x4 x5) := fun w h => by have e := Option.some.inj h; have h0 := bit_lt x0; have h5 := bit_lt x5; omega
theorem vspill (x0 : Fin 32) (x1 : Fin 32) : Statement (.vspill x0 x1) := fun w h => by have e := Option.some.inj h; omega
theorem vfill (x0 : Fin 32) (x1 : Fin 32) : Statement (.vfill x0 x1) := fun w h => by have e := Option.some.inj h; omega
theorem vamoadd (x0 : Fin 32) (x1 : Fin 32) (x2 : Fin 32) (x3 : Fin 8) (x4 : Bool) (x5 : Bool) (x6 : Fin 4) : Statement (.vamoadd x0 x1 x2 x3 x4 x5 x6) := fun w h => by have e := Option.some.inj h; have h4 := bit_lt x4; have h5 := bit_lt x5; omega
theorem vamoand (x0 : Fin 32) (x1 : Fin 32) (x2 : Fin 32) (x3 : Fin 8) (x4 : Bool) (x5 : Bool) (x6 : Fin 4) : Statement (.vamoand x0 x1 x2 x3 x4 x5 x6) := fun w h => by have e := Option.some.inj h; have h4 := bit_lt x4; have h5 := bit_lt x5; omega
theorem vamoor (x0 : Fin 32) (x1 : Fin 32) (x2 : Fin 32) (x3 : Fin 8) (x4 : Bool) (x5 : Bool) (x6 : Fin 4) : Statement (.vamoor x0 x1 x2 x3 x4 x5 x6) := fun w h => by have e := Option.some.inj h; have h4 := bit_lt x4; have h5 := bit_lt x5; omega
theorem vamoxor (x0 : Fin 32) (x1 : Fin 32) (x2 : Fin 32) (x3 : Fin 8) (x4 : Bool) (x5 : Bool) (x6 : Fin 4) : Statement (.vamoxor x0 x1 x2 x3 x4 x5 x6) := fun w h => by have e := Option.some.inj h; have h4 := bit_lt x4; have h5 := bit_lt x5; omega
theorem vamomin (x0 : Fin 32) (x1 : Fin 32) (x2 : Fin 32) (x3 : Fin 8) (x4 : Bool) (x5 : Bool) (x6 : Fin 4) : Statement (.vamomin x0 x1 x2 x3 x4 x5 x6) := fun w h => by have e := Option.some.inj h; have h4 := bit_lt x4; have h5 := bit_lt x5; omega
theorem vamomax (x0 : Fin 32) (x1 : Fin 32) (x2 : Fin 32) (x3 : Fin 8) (x4 : Bool) (x5 : Bool) (x6 : Fin 4) : Statement (.vamomax x0 x1 x2 x3 x4 x5 x6) := fun w h => by have e := Option.some.inj h; have h4 := bit_lt x4; have h5 := bit_lt x5; omega
theorem vamominu (x0 : Fin 32) (x1 : Fin 32) (x2 : Fin 32) (x3 : Fin 8) (x4 : Bool) (x5 : Bool) (x6 : Fin 4) : Statement (.vamominu x0 x1 x2 x3 x4 x5 x6) := fun w h => by have e := Option.some.inj h; have h4 := bit_lt x4; have h5 := bit_lt x5; omega
theorem vamoswap (x0 : Fin 32) (x1 : Fin 32) (x2 : Fin 32) (x3 : Fin 8) (x4 : Bool) (x5 : Bool) (x6 : Fin 4) : Statement (.vamoswap x0 x1 x2 x3 x4 x5 x6) := fun w h => by have e := Option.some.inj h; have h4 := bit_lt x4; have h5 := bit_lt x5; omega
theorem vamooadd (x0 : Fin 32) (x1 : Fin 32) (x2 : Fin 32) (x3 : Fin 8) (x4 : Bool) (x5 : Bool) (x6 : Fin 4) : Statement (.vamooadd x0 x1 x2 x3 x4 x5 x6) := fun w h => by have e := Option.some.inj h; have h4 := bit_lt x4; have h5 := bit_lt x5; omega
theorem vamooand (x0 : Fin 32) (x1 : Fin 32) (x2 : Fin 32) (x3 : Fin 8) (x4 : Bool) (x5 : Bool) (x6 : Fin 4) : Statement (.vamooand x0 x1 x2 x3 x4 x5 x6) := fun w h => by have e := Option.some.inj h; have h4 := bit_lt x4; have h5 := bit_lt x5; omega
theorem vamooor (x0 : Fin 32) (x1 : Fin 32) (x2 : Fin 32) (x3 : Fin 8) (x4 : Bool) (x5 : Bool) (x6 : Fin 4) : Statement (.vamooor x0 x1 x2 x3 x4 x5 x6) := fun w h => by have e := Option.some.inj h; have h4 := bit_lt x4; have h5 := bit_lt x5; omega
theorem vamooxor (x0 : Fin 32) (x1 : Fin 32) (x2 : Fin 32) (x3 : Fin 8) (x4 : Bool) (x5 : Bool) (x6 : Fin 4) : Statement (.vamooxor x0 x1 x2 x3 x4 x5 x6) := fun w h => by have e := Option.some.inj h; have h4 := bit_lt x4; have h5 := bit_lt x5; omega
theorem vamoomin (x0 : Fin 32) (x1 : Fin 32) (x2 : Fin 32) (x3 : Fin 8) (x4 : Bool) (x5 : Bool) (x6 : Fin 4) : Statement (.vamoomin x0 x1 x2 x3 x4 x5 x6) := fun w h => by have e := Option.some.inj h; have h4 := bit_lt x4; have h5 := bit_lt x5; omega
theorem vamoomax (x0 : Fin 32) (x1 : Fin 32) (x2 : Fin 32) (x3 : Fin 8) (x4 : Bool) (x5 : Bool) (x6 : Fin 4) : Statement (.vamoomax x0 x1 x2 x3 x4 x5 x6) := fun w h => by have e := Option.some.inj h; have h4 := bit_lt x4; have h5 := bit_lt x5; omega
theorem vamoominu (x0 : Fin 32) (x1 : Fin 32) (x2 : Fin 32) (x3 : Fin 8) (x4 : Bool) (x5 : Bool) (x6 : Fin 4) : Statement (.vamoominu x0 x1 x2 x3 x4 x5 x6) := fun w h => by have e := Option.some.inj h; have h4 := bit_lt x4; have h5 := bit_lt x5; omega
theorem vamooswap (x0 : Fin 32) (x1 : Fin 32) (x2 : Fin 32) (x3 : Fin 8) (x4 : Bool) (x5 : Bool) (x6 : Fin 4) : Statement (.vamooswap x0 x1 x2 x3 x4 x5 x6) := fun w h => by have e := Option.some.inj h; have h4 := bit_lt x4; have h5 := bit_lt x5; omega
theorem vwaiteq (x0 : Fin 32) (x1 : Fin 32) (x2 : Fin 32) (x3 : Fin 8) (x4 : Fin 4) : Statement (.vwaiteq x0 x1 x2 x3 x4) := fun w h => by have e := Option.some.inj h; omega
theorem vwaitne (x0 : Fin 32) (x1 : Fin 32) (x2 : Fin 32) (x3 : Fin 8) (x4 : Fin 4) : Statement (.vwaitne x0 x1 x2 x3 x4) := fun w h => by have e := Option.some.inj h; omega
theorem vwaitlt (x0 : Fin 32) (x1 : Fin 32) (x2 : Fin 32) (x3 : Fin 8) (x4 : Fin 4) : Statement (.vwaitlt x0 x1 x2 x3 x4) := fun w h => by have e := Option.some.inj h; omega
theorem vwaitltu (x0 : Fin 32) (x1 : Fin 32) (x2 : Fin 32) (x3 : Fin 8) (x4 : Fin 4) : Statement (.vwaitltu x0 x1 x2 x3 x4) := fun w h => by have e := Option.some.inj h; omega
theorem vwaitge (x0 : Fin 32) (x1 : Fin 32) (x2 : Fin 32) (x3 : Fin 8) (x4 : Fin 4) : Statement (.vwaitge x0 x1 x2 x3 x4) := fun w h => by have e := Option.some.inj h; omega
theorem vwaitgeu (x0 : Fin 32) (x1 : Fin 32) (x2 : Fin 32) (x3 : Fin 8) (x4 : Fin 4) : Statement (.vwaitgeu x0 x1 x2 x3 x4) := fun w h => by have e := Option.some.inj h; omega
theorem vwaitComplete (x0 : Nat) : Statement (.vwaitComplete x0) := fun _ h => nomatch h
theorem mmode (x0 : Fin 32) : Statement (.mmode x0) := fun w h => by have e := Option.some.inj h; omega
theorem matrixClaimGrant (x0 : Nat) : Statement (.matrixClaimGrant x0) := fun _ h => nomatch h
theorem mzero (x0 : Fin 2) : Statement (.mzero x0) := fun w h => by have e := Option.some.inj h; omega
theorem msave (x0 : Fin 2) (x1 : Fin 32) : Statement (.msave x0 x1) := fun w h => by have e := Option.some.inj h; omega
theorem mrstr (x0 : Fin 2) (x1 : Fin 32) : Statement (.mrstr x0 x1) := fun w h => by have e := Option.some.inj h; omega
theorem mopa (x0 : Fin 2) (x1 : Bool) (x2 : Fin 32) (x3 : Bool) (x4 : Fin 32) (x5 : Fin 16) (x6 : Bool) : Statement (.mopa x0 x1 x2 x3 x4 x5 x6) := fun w h => by have e := Option.some.inj h; have h1 := bit_lt x1; have h3 := bit_lt x3; have h6 := bit_lt x6; omega
theorem mops (x0 : Fin 2) (x1 : Bool) (x2 : Fin 32) (x3 : Bool) (x4 : Fin 32) (x5 : Fin 16) (x6 : Bool) : Statement (.mops x0 x1 x2 x3 x4 x5 x6) := fun w h => by have e := Option.some.inj h; have h1 := bit_lt x1; have h3 := bit_lt x3; have h6 := bit_lt x6; omega
theorem mdrain (x0 : Bool) (x1 : Fin 32) (x2 : Fin 2) (x3 : Fin 32) : Statement (.mdrain x0 x1 x2 x3) := fun w h => by have e := Option.some.inj h; have h0 := bit_lt x0; omega
theorem mdrainc (x0 : Bool) (x1 : Fin 32) (x2 : Fin 2) (x3 : Fin 32) : Statement (.mdrainc x0 x1 x2 x3) := fun w h => by have e := Option.some.inj h; have h0 := bit_lt x0; omega
theorem mfill (x0 : Fin 2) (x1 : Fin 32) (x2 : Fin 32) : Statement (.mfill x0 x1 x2) := fun w h => by have e := Option.some.inj h; omega
theorem pcfgBase (x0 : Fin 8) (x1 : Fin 32) : Statement (.pcfgBase x0 x1) := fun w h => by have e := Option.some.inj h; omega
theorem pcfgDim (x0 : Fin 8) (x1 : Fin 32) (x2 : Fin 32) : Statement (.pcfgDim x0 x1 x2) := fun w h => by have e := Option.some.inj h; omega
theorem pclr (x0 : Fin 8) : Statement (.pclr x0) := fun w h => by have e := Option.some.inj h; omega
theorem cload (x0 : Fin 16) (x1 : Fin 32) : Statement (.cload x0 x1) := fun w h => by have e := Option.some.inj h; omega
theorem cstore (x0 : Fin 16) (x1 : Fin 32) : Statement (.cstore x0 x1) := fun w h => by have e := Option.some.inj h; omega
theorem cadd (x0 : Fin 16) (x1 : Fin 16) (x2 : Fin 16) : Statement (.cadd x0 x1 x2) := fun w h => by have e := Option.some.inj h; omega
theorem csub (x0 : Fin 16) (x1 : Fin 16) (x2 : Fin 16) : Statement (.csub x0 x1 x2) := fun w h => by have e := Option.some.inj h; omega
theorem cneg (x0 : Fin 16) (x1 : Fin 16) : Statement (.cneg x0 x1) := fun w h => by have e := Option.some.inj h; omega
theorem cmulp (x0 : Fin 16) (x1 : Fin 16) (x2 : Fin 32) : Statement (.cmulp x0 x1 x2) := fun w h => by have e := Option.some.inj h; omega
theorem caddp (x0 : Fin 16) (x1 : Fin 16) (x2 : Fin 32) : Statement (.caddp x0 x1 x2) := fun w h => by have e := Option.some.inj h; omega
theorem cmacc (x0 : Fin 16) (x1 : Fin 16) (x2 : Fin 32) : Statement (.cmacc x0 x1 x2) := fun w h => by have e := Option.some.inj h; omega
theorem cmodsw (x0 : Fin 16) (x1 : Fin 16) : Statement (.cmodsw x0 x1) := fun w h => by have e := Option.some.inj h; omega
theorem ckeysw (x0 : Fin 16) (x1 : Fin 16) : Statement (.ckeysw x0 x1) := fun w h => by have e := Option.some.inj h; omega
theorem cbudget (x0 : Fin 16) (x1 : Fin 32) : Statement (.cbudget x0 x1) := fun w h => by have e := Option.some.inj h; omega
theorem chdrLo (x0 : Fin 16) (x1 : Fin 32) : Statement (.chdrLo x0 x1) := fun w h => by have e := Option.some.inj h; omega
theorem chdrHi (x0 : Fin 16) (x1 : Fin 32) : Statement (.chdrHi x0 x1) := fun w h => by have e := Option.some.inj h; omega
theorem cinv (x0 : Fin 16) : Statement (.cinv x0) := fun w h => by have e := Option.some.inj h; omega
theorem cmov (x0 : Fin 16) (x1 : Fin 16) : Statement (.cmov x0 x1) := fun w h => by have e := Option.some.inj h; omega
theorem cimport (x0 : Fin 16) (x1 : Fin 32) : Statement (.cimport x0 x1) := fun w h => by have e := Option.some.inj h; omega
theorem cref (x0 : Fin 16) (x1 : Fin 16) (x2 : Fin 4) : Statement (.cref x0 x1 x2) := fun w h => by have e := Option.some.inj h; omega
theorem crgo : Statement (.crgo) := fun w h => by have e := Option.some.inj h; omega
theorem crwait : Statement (.crwait) := fun w h => by have e := Option.some.inj h; omega
theorem passFormingEnd (x0 : Nat) (x1 : Nat) : Statement (.passFormingEnd x0 x1) := fun _ h => nomatch h
theorem halyardSubscribe (x0 : Nat) (x1 : Nat) : Statement (.halyardSubscribe x0 x1) := fun _ h => nomatch h
theorem halyardElementIssue (x0 : Nat) (x1 : Nat) : Statement (.halyardElementIssue x0 x1) := fun _ h => nomatch h
theorem keyElementArrival (x0 : Nat) (x1 : Nat) : Statement (.keyElementArrival x0 x1) := fun _ h => nomatch h
theorem keyPassEnd (x0 : Nat) (x1 : Nat) : Statement (.keyPassEnd x0 x1) := fun _ h => nomatch h
theorem kbind (x0 : Fin 4) (x1 : Fin 32) : Statement (.kbind x0 x1) := fun w h => by have e := Option.some.inj h; omega
theorem kunbind (x0 : Fin 4) : Statement (.kunbind x0) := fun w h => by have e := Option.some.inj h; omega
theorem tload (x0 : Fin 4) (x1 : Fin 32) (x2 : Fin 4) : Statement (.tload x0 x1 x2) := fun w h => by have e := Option.some.inj h; omega
theorem tclr (x0 : Fin 4) : Statement (.tclr x0) := fun w h => by have e := Option.some.inj h; omega
theorem qmset (x0 : Fin 4) (x1 : Fin 32) : Statement (.qmset x0 x1) := fun w h => by have e := Option.some.inj h; omega
theorem sopen (x0 : Fin 4) (x1 : Fin 32) : Statement (.sopen x0 x1) := fun w h => by have e := Option.some.inj h; omega
theorem srun (x0 : Fin 4) : Statement (.srun x0) := fun w h => by have e := Option.some.inj h; omega
theorem swait (x0 : Fin 4) : Statement (.swait x0) := fun w h => by have e := Option.some.inj h; omega
theorem ssave (x0 : Fin 4) (x1 : Fin 32) : Statement (.ssave x0 x1) := fun w h => by have e := Option.some.inj h; omega
theorem streamElementComplete (x0 : Nat) (x1 : Fin 4) : Statement (.streamElementComplete x0 x1) := fun _ h => nomatch h
theorem cpy (x0 : Fin 32) (x1 : Fin 32) (x2 : Fin 32) : Statement (.cpy x0 x1 x2) := fun w h => by have e := Option.some.inj h; omega
theorem cpy2d (x0 : Fin 32) (x1 : Fin 32) (x2 : Fin 32) : Statement (.cpy2d x0 x1 x2) := fun w h => by have e := Option.some.inj h; omega
theorem puts (x0 : Fin 32) (x1 : Fin 32) (x2 : Fin 32) : Statement (.puts x0 x1 x2) := fun w h => by have e := Option.some.inj h; omega
theorem cpyb (x0 : Fin 32) (x1 : Fin 32) (x2 : Fin 32) : Statement (.cpyb x0 x1 x2) := fun w h => by have e := Option.some.inj h; omega
theorem copyComplete (x0 : Nat) (x1 : Nat) : Statement (.copyComplete x0 x1) := fun _ h => nomatch h
theorem putsSignal (x0 : Nat) (x1 : Nat) : Statement (.putsSignal x0 x1) := fun _ h => nomatch h
theorem cpybDeposit (x0 : Nat) (x1 : Nat) : Statement (.cpybDeposit x0 x1) := fun _ h => nomatch h
theorem engineFault (x0 : Nat) : Statement (.engineFault x0) := fun _ h => nomatch h
theorem binit (x0 : Fin 32) (x1 : Fin 32) : Statement (.binit x0 x1) := fun w h => by have e := Option.some.inj h; omega
theorem barv (x0 : Fin 32) : Statement (.barv x0) := fun w h => by have e := Option.some.inj h; omega
theorem bard (x0 : Fin 32) : Statement (.bard x0) := fun w h => by have e := Option.some.inj h; omega
theorem bexp (x0 : Fin 32) (x1 : Fin 32) : Statement (.bexp x0 x1) := fun w h => by have e := Option.some.inj h; omega
theorem bwait (x0 : Fin 32) (x1 : Fin 32) : Statement (.bwait x0 x1) := fun w h => by have e := Option.some.inj h; omega
theorem btest (x0 : Fin 32) (x1 : Fin 32) : Statement (.btest x0 x1) := fun w h => by have e := Option.some.inj h; omega
theorem bwaitComplete (x0 : Nat) : Statement (.bwaitComplete x0) := fun _ h => nomatch h
theorem sbind (x0 : Fin 32) (x1 : Fin 32) : Statement (.sbind x0 x1) := fun w h => by have e := Option.some.inj h; omega
theorem sunbind (x0 : Fin 32) : Statement (.sunbind x0) := fun w h => by have e := Option.some.inj h; omega
theorem streamRegisterFetch (x0 : Nat) (x1 : Fin 32) : Statement (.streamRegisterFetch x0 x1) := fun _ h => nomatch h
theorem galloc (x0 : Fin 32) (x1 : Fin 32) (x2 : Fin 32) : Statement (.galloc x0 x1 x2) := fun w h => by have e := Option.some.inj h; omega
theorem gfree (x0 : Fin 32) (x1 : Fin 32) : Statement (.gfree x0 x1) := fun w h => by have e := Option.some.inj h; omega
theorem reef (x0 : Fin 32) : Statement (.reef x0) := fun w h => by have e := Option.some.inj h; omega
theorem wqry (x0 : Fin 32) (x1 : Fin 32) : Statement (.wqry x0 x1) := fun w h => by have e := Option.some.inj h; omega
theorem wpush (x0 : Fin 32) (x1 : Fin 32) : Statement (.wpush x0 x1) := fun w h => by have e := Option.some.inj h; omega
theorem wdone : Statement (.wdone) := fun w h => by have e := Option.some.inj h; omega
theorem farm (x0 : Fin 32) (x1 : Fin 32) (x2 : Fin 32) : Statement (.farm x0 x1 x2) := fun w h => by have e := Option.some.inj h; omega
theorem fstrip (x0 : Fin 32) (x1 : Fin 32) : Statement (.fstrip x0 x1) := fun w h => by have e := Option.some.inj h; omega
theorem wqryAnswer (x0 : Nat) (x1 : Fin 16) : Statement (.wqryAnswer x0 x1) := fun _ h => nomatch h
theorem apxb (x0 : Fin 8) (x1 : Fin 32768) : Statement (.apxb x0 x1) := fun w h => by have e := Option.some.inj h; omega
theorem apxe (x0 : Fin 8) : Statement (.apxe x0) := fun w h => by have e := Option.some.inj h; omega
theorem apxinv (x0 : Fin 8) : Statement (.apxinv x0) := fun w h => by have e := Option.some.inj h; omega
theorem fsave (x0 : Fin 32) : Statement (.fsave x0) := fun w h => by have e := Option.some.inj h; omega
theorem frstr (x0 : Fin 32) : Statement (.frstr x0) := fun w h => by have e := Option.some.inj h; omega
theorem pfx (x0 : Fin 8) (x1 : Fin 32) (x2 : Bool) : Statement (.pfx x0 x1 x2) := fun w h => by have e := Option.some.inj h; have h2 := bit_lt x2; omega
theorem pfxn (x0 : Fin 8) (x1 : Fin 32) (x2 : Bool) : Statement (.pfxn x0 x1 x2) := fun w h => by have e := Option.some.inj h; have h2 := bit_lt x2; omega
theorem vectorConvoyStart (x0 : Nat) : Statement (.vectorConvoyStart x0) := fun _ h => nomatch h
theorem replyWrite (x0 : Nat) : Statement (.replyWrite x0) := fun _ h => nomatch h
theorem vectorSideFault (x0 : Nat) (x1 : Fin 256) (x2 : BitVec 64) (x3 : Fin 4) : Statement (.vectorSideFault x0 x1 x2 x3) := fun _ h => nomatch h
theorem preemption (x0 : Nat) : Statement (.preemption x0) := fun _ h => nomatch h
theorem clockGroupEvent (x0 : Nat) : Statement (.clockGroupEvent x0) := fun _ h => nomatch h
theorem linkEvent (x0 : Nat) : Statement (.linkEvent x0) := fun _ h => nomatch h
theorem parkWake (x0 : Nat) : Statement (.parkWake x0) := fun _ h => nomatch h
theorem parkTimeout (x0 : Nat) : Statement (.parkTimeout x0) := fun _ h => nomatch h
theorem postLaunchRecord (x0 : Nat) (x1 : Nat) (x2 : Fin 16) (x3 : List (List (BitVec 8))) : Statement (.postLaunchRecord x0 x1 x2 x3) := fun _ h => nomatch h
theorem takeLaunchRecord (x0 : Nat) (x1 : Fin 16) : Statement (.takeLaunchRecord x0 x1) := fun _ h => nomatch h
theorem dependenceSatisfied (x0 : Nat) (x1 : Fin 16) : Statement (.dependenceSatisfied x0 x1) := fun _ h => nomatch h
theorem shadowSlotFill (x0 : Nat) (x1 : Fin 2) (x2 : Nat) : Statement (.shadowSlotFill x0 x1 x2) := fun _ h => nomatch h
theorem bindHart (x0 : Nat) : Statement (.bindHart x0) := fun _ h => nomatch h
theorem hartRetirement (x0 : Nat) : Statement (.hartRetirement x0) := fun _ h => nomatch h
theorem doneaddrResend (x0 : Nat) : Statement (.doneaddrResend x0) := fun _ h => nomatch h
theorem tokenBucketRefill (x0 : Nat) : Statement (.tokenBucketRefill x0) := fun _ h => nomatch h
theorem governorPeriod (x0 : Nat) : Statement (.governorPeriod x0) := fun _ h => nomatch h
theorem partitionBlockWrite (x0 : Nat) (x1 : Nat) (x2 : Nat) (x3 : List (BitVec 8)) : Statement (.partitionBlockWrite x0 x1 x2 x3) := fun _ h => nomatch h
theorem lockedLoadRedirect (x0 : Nat) : Statement (.lockedLoadRedirect x0) := fun _ h => nomatch h
theorem replicaLockTimeout (x0 : Nat) : Statement (.replicaLockTimeout x0) := fun _ h => nomatch h
theorem remoteTimeout (x0 : Nat) : Statement (.remoteTimeout x0) := fun _ h => nomatch h
theorem memoryLinkDown (x0 : Fin 24) : Statement (.memoryLinkDown x0) := fun _ h => nomatch h
theorem laneRetirement (x0 : Nat) (x1 : Fin 64) : Statement (.laneRetirement x0 x1) := fun _ h => nomatch h
theorem grottoSwitchLost (x0 : Fin 4) (x1 : Fin 64) : Statement (.grottoSwitchLost x0 x1) := fun _ h => nomatch h
theorem grottoSwitchReturn (x0 : Fin 4) (x1 : Fin 64) : Statement (.grottoSwitchReturn x0 x1) := fun _ h => nomatch h
theorem mirrorResyncComplete (x0 : Fin 4) (x1 : Fin 64) : Statement (.mirrorResyncComplete x0 x1) := fun _ h => nomatch h
theorem grottoUnitZero (x0 : Fin 4) (x1 : Nat) : Statement (.grottoUnitZero x0 x1) := fun _ h => nomatch h
theorem flitReceive (x0 : Fin 64) (x1 : List (BitVec 8)) : Statement (.flitReceive x0 x1) := fun _ h => nomatch h
theorem flitRetryRequest (x0 : Fin 64) (x1 : Nat) : Statement (.flitRetryRequest x0 x1) := fun _ h => nomatch h
theorem portRekey (x0 : Fin 64) : Statement (.portRekey x0) := fun _ h => nomatch h
theorem keySwitchoverRequest (x0 : Fin 64) : Statement (.keySwitchoverRequest x0) := fun _ h => nomatch h
theorem linkKeyInstall (x0 : Fin 64) (x1 : Bool) (x2 : Fin 2) (x3 : Nat) (x4 : Nat) : Statement (.linkKeyInstall x0 x1 x2 x3 x4) := fun _ h => nomatch h
theorem keyCounterExhausted (x0 : Fin 64) : Statement (.keyCounterExhausted x0) := fun _ h => nomatch h
theorem portUp (x0 : Fin 64) : Statement (.portUp x0) := fun _ h => nomatch h
theorem timeBeacon (x0 : Nat) : Statement (.timeBeacon x0) := fun _ h => nomatch h
theorem ownLimitChange (x0 : Nat) (x1 : Nat) : Statement (.ownLimitChange x0 x1) := fun _ h => nomatch h
theorem reefNotice (x0 : Nat) (x1 : Nat) (x2 : Nat) (x3 : Nat) : Statement (.reefNotice x0 x1 x2 x3) := fun _ h => nomatch h
theorem reefNoticeEffective (x0 : Nat) : Statement (.reefNoticeEffective x0) := fun _ h => nomatch h
theorem shakeoutProposal (x0 : Nat) (x1 : Nat) : Statement (.shakeoutProposal x0 x1) := fun _ h => nomatch h
theorem shakeoutAnswer (x0 : Nat) (x1 : Nat) (x2 : Nat) : Statement (.shakeoutAnswer x0 x1 x2) := fun _ h => nomatch h
theorem shakeoutCommit (x0 : Nat) (x1 : Nat) (x2 : List (Nat × Nat)) : Statement (.shakeoutCommit x0 x1 x2) := fun _ h => nomatch h
theorem shakeoutCommitEffective (x0 : Nat) : Statement (.shakeoutCommitEffective x0) := fun _ h => nomatch h
theorem heartbeatSend (x0 : Nat) : Statement (.heartbeatSend x0) := fun _ h => nomatch h
theorem heartbeat (x0 : Nat) (x1 : Nat) (x2 : Nat) : Statement (.heartbeat x0 x1 x2) := fun _ h => nomatch h
theorem joinRequest (x0 : Nat) (x1 : Nat) (x2 : Nat) : Statement (.joinRequest x0 x1 x2) := fun _ h => nomatch h
theorem joinAnswer (x0 : Nat) (x1 : Nat) (x2 : List (Nat × Nat)) (x3 : List (Nat × Nat × Nat)) (x4 : Option (Nat × List (Nat × Nat) × Option Nat)) : Statement (.joinAnswer x0 x1 x2 x3 x4) := fun _ h => nomatch h
theorem joinTimeout (x0 : Nat) : Statement (.joinTimeout x0) := fun _ h => nomatch h
theorem leaveMessage (x0 : Nat) (x1 : Nat) : Statement (.leaveMessage x0 x1) := fun _ h => nomatch h
theorem memberSilence (x0 : Nat) (x1 : Nat) : Statement (.memberSilence x0 x1) := fun _ h => nomatch h
theorem memberEviction (x0 : Nat) (x1 : Nat) : Statement (.memberEviction x0 x1) := fun _ h => nomatch h
theorem attest (x0 : Fin 16) : Statement (.attest x0) := fun _ h => nomatch h
theorem ctxopen (x0 : Fin 16) : Statement (.ctxopen x0) := fun _ h => nomatch h
theorem ctxshare (x0 : Fin 16) : Statement (.ctxshare x0) := fun _ h => nomatch h
theorem ctxend (x0 : Fin 16) : Statement (.ctxend x0) := fun _ h => nomatch h
theorem contextErase (x0 : Nat) : Statement (.contextErase x0) := fun _ h => nomatch h
theorem wbind (x0 : Fin 16) : Statement (.wbind x0) := fun _ h => nomatch h
theorem ctxexport (x0 : Fin 16) : Statement (.ctxexport x0) := fun _ h => nomatch h
theorem ctxaccept (x0 : Fin 16) : Statement (.ctxaccept x0) := fun _ h => nomatch h
theorem migrationConfirmation (x0 : Nat) (x1 : List (BitVec 8)) : Statement (.migrationConfirmation x0 x1) := fun _ h => nomatch h
theorem confirmationResend (x0 : Nat) : Statement (.confirmationResend x0) := fun _ h => nomatch h
theorem fwstage (x0 : Fin 16) : Statement (.fwstage x0) := fun _ h => nomatch h
theorem fwact (x0 : Fin 16) : Statement (.fwact x0) := fun _ h => nomatch h
theorem fwActivationComplete (x0 : Bool) : Statement (.fwActivationComplete x0) := fun _ h => nomatch h
theorem deviceReset : Statement (.deviceReset) := fun _ h => nomatch h
theorem solitaryLimitEffective (x0 : Nat) : Statement (.solitaryLimitEffective x0) := fun _ h => nomatch h
theorem pageMigration (x0 : Nat) (x1 : Nat) (x2 : Nat) (x3 : List (Nat × BitVec 8)) : Statement (.pageMigration x0 x1 x2 x3) := fun _ h => nomatch h
theorem remoteEndpointAccess (x0 : Nat × Fin 96) (x1 : Fin 16) (x2 : Nat) (x3 : List (BitVec 8)) : Statement (.remoteEndpointAccess x0 x1 x2 x3) := fun _ h => nomatch h

end Sys2Proof.Laws.EncodeFits
end

