-- ==== Sys2Proof/Laws/Registers.lean ====
section
/-!
SUPPORT. X registers, completion and waiting: what each shared operation of the scalar side can do, said once.
-/
namespace Sys2Proof.Machine

/-! ### Reading and writing (R157) -/

@[simp] theorem rx_zero (s : State) : rx 0 s = 0 := rfl

@[simp] theorem wx_zero (v : Word) (s : State) : wx 0 v s = s := rfl

theorem rx_wx_of_ne_zero {d : Fin 32} (h : d ≠ 0) (v : Word) (s : State) : rx d (wx d v s) = v := by
  simp [rx, wx, h, State.onHart]

theorem rx_wx_of_ne {r d : Fin 32} (h : r ≠ d) (v : Word) (s : State) : rx r (wx d v s) = rx r s := by
  unfold rx wx
  split
  · rfl
  · split
    · rfl
    · have : d.val ≠ r.val := fun e => h (Fin.ext e.symm)
      simp [State.onHart, Vector.getElem_set_ne, this]

theorem rx_of_x_eq {s t : State} (h : t.hart.x = s.hart.x) (r : Fin 32) : rx r t = rx r s := by simp [rx, h]

/-! ### Pending registers (R38) -/

@[simp] theorem pendingX_zero (s : State) : pendingX s 0 = false := rfl

theorem pendingX_of_no_replies {s : State} (h : s.hart.replies = []) (b : s.hart.sbuf = []) (r : Fin 32) : pendingX s r = false := by
  simp [pendingX, h, b]

theorem Settled.of_no_replies {s : State} (h : s.hart.replies = []) (b : s.hart.sbuf = []) (rs : List (Fin 32)) : Settled s rs :=
  fun r _ => pendingX_of_no_replies h b r

theorem scalar_settled {s : State} {rs : List (Fin 32)} (h : Settled s rs) (f : State → State) : scalar rs f s = f s := by
  have : rs.any (pendingX s) = false := List.any_eq_false.2 fun r hr => by simp [h r hr]
  simp [scalar, this]

theorem scalar_pending {s : State} {rs : List (Fin 32)} {r : Fin 32} (hr : r ∈ rs) (h : pendingX s r = true) (f : State → State) :
    scalar rs f s = wait s := by
  have : rs.any (pendingX s) = true := List.any_eq_true.2 ⟨r, hr, h⟩
  simp [scalar, this]

/-- A scalar instruction waits or has its effect. -/
theorem scalar_cases (rs : List (Fin 32)) (f : State → State) (s : State) : scalar rs f s = wait s ∨ scalar rs f s = f s := by
  unfold scalar; split <;> simp

/-! ### Hardware loops (R43) -/

/-- With no live loop that ends at a word, completing it makes no test. -/
theorem test_of_no_end {l : Loops} {a : Word} (h0 : l.lc0.endsAt a = false) (h1 : l.lc1.endsAt a = false) : l.test a = (none, l) := by
  simp [Loops.test, h0, h1]

theorem endsAt_of_dead {l : HwLoop} (h : l.live = false) (a : Word) : l.endsAt a = false := by simp [HwLoop.endsAt, h]

/-- A convoy that ends no loop continues at the following word. -/
theorem advance_pc_plain {n : Nat} {s : State} (h0 : s.hart.loops.lc0.live = false) (h1 : s.hart.loops.lc1.live = false) :
    (advance n s).hart.pc = s.hart.pc + BitVec.ofNat 64 (4 * (n - 1)) + 4 := by
  simp [advance, test_of_no_end (endsAt_of_dead h0 _) (endsAt_of_dead h1 _), forget, State.onHart]

/-! ### What two states share -/

theorem SameHart.refl (h : Hart) : SameHart h h := rfl

theorem SameRest.refl (s : State) : SameRest s s := ⟨rfl, rfl, rfl, rfl, rfl, rfl⟩

theorem SameXBut.refl (ds : List (Fin 32)) (s : State) : SameXBut ds s s := fun _ _ => rfl

theorem sameXBut_wx (d : Fin 32) (v : Word) (s : State) : SameXBut [d] s (wx d v s) :=
  fun _ h => rx_wx_of_ne (by simpa using h) v s

theorem sameXBut_of_x_eq {s t : State} (h : t.hart.x = s.hart.x) (ds : List (Fin 32)) : SameXBut ds s t := fun r _ => rx_of_x_eq h r

theorem SameXBut.trans {ds : List (Fin 32)} {s t u : State} (h : SameXBut ds s t) (k : SameXBut ds t u) : SameXBut ds s u :=
  fun r hr => (k r hr).trans (h r hr)

theorem sameHart_wx (d : Fin 32) (v : Word) (s : State) : SameHart s.hart (wx d v s).hart := by
  unfold wx; split <;> rfl

theorem sameHart_advance (n : Nat) (s : State) : SameHart s.hart (advance n s).hart := rfl

theorem sameHart_jump (a : Word) (s : State) : SameHart s.hart (jump a s).hart := rfl

theorem sameHart_wait (s : State) : SameHart s.hart (wait s).hart := rfl

theorem sameRest_advance (n : Nat) (s : State) : SameRest s (advance n s) := ⟨rfl, rfl, rfl, rfl, rfl, rfl⟩

theorem sameRest_jump (a : Word) (s : State) : SameRest s (jump a s) := ⟨rfl, rfl, rfl, rfl, rfl, rfl⟩

theorem sameRest_wait (s : State) : SameRest s (wait s) := ⟨rfl, rfl, rfl, rfl, rfl, rfl⟩

theorem sameRest_wx (d : Fin 32) (v : Word) (s : State) : SameRest s (wx d v s) := by
  unfold wx; split <;> exact ⟨rfl, rfl, rfl, rfl, rfl, rfl⟩

end Sys2Proof.Machine
end

