-- ==== Sys2Proof/Laws/Traps.lean ====
section
/-!
SUPPORT. Taking an exception and returning from one: what each of the shared operations leaves alone, and the two ways in
which a precise trap is delivered.
-/
namespace Sys2Proof.Machine

@[simp] theorem delegated_dropLend (h : Hart) (t : Trap) : delegated (dropLend h) t = delegated h t := rfl

/-- R381, R383: a precise trap is taken at S or M, or delivered to the hart's own U handler; nothing is lent any more. -/
theorem raise_cases (t : Trap) (s : State) :
    (delegated s.hart t = false ∧ raise t s = takeTrap t (convoyPc s.hart) [] (s.onHart dropLend))
      ∨ (delegated s.hart t = true ∧ raise t s = takeDelegated t (convoyPc s.hart) (s.onHart dropLend)) := by
  unfold raise trapTo
  cases h : delegated s.hart t <;> simp [h]

theorem raise_not_delegated {t : Trap} {s : State} (h : delegated s.hart t = false) :
    raise t s = takeTrap t (convoyPc s.hart) [] (s.onHart dropLend) := by simp [raise, trapTo, h]

/-- R378: only a trap raised at U, or at S but ECALL, goes to S. -/
theorem trapTarget_ne_u (h : Hart) (t : Trap) : trapTarget h t ≠ .u := by
  unfold trapTarget; split
  · simp
  · split <;> simp

/-- R421: a stale mark changes only memory and its versions. -/
theorem marked_keep {α : Type} (f : State → α) (h : ∀ a bs s, f (poke a bs s) = f s) (o : Option (Nat × Nat)) (s : State) :
    f (o.elim s fun x => markStale x.1 x.2 s) = f s := by
  cases o with
  | none => rfl
  | some x =>
    simp only [Option.elim_some]
    exact markStale_inv (P := fun u => f u = f s) (fun a bs u hu => (h a bs u).trans hu) x.1 x.2 rfl

/-- R318: a packet that leaves changes the device, and nothing else. -/
theorem sendPacket_onDev (d : Nat) (v : Fin 4) (key : Nat) (s : State) : ∃ g, sendPacket d v key s = s.onDev g := by
  unfold sendPacket queuePacket
  exact ⟨_, rfl⟩

/-- R421, R315: what a failed access has done keeps all that pokes and changes of the device keep. -/
theorem failedAccess_keep {α : Type} (f : State → α) (hp : ∀ a bs s, f (poke a bs s) = f s)
    (hd : ∀ g s, f (State.onDev g s) = f s) (t : Trap) (s : State) : f (failedAccess t s) = f s := by
  unfold failedAccess
  rw [marked_keep f hp]
  cases t.sent with
  | none => rfl
  | some x =>
    obtain ⟨g, e⟩ := sendPacket_onDev x.1 x.2.1 x.2.2 s
    exact (congrArg f e).trans (hd g s)

/-- What a failed access has done keeps the canonical form of memory. -/
theorem failedAccess_wf (t : Trap) {s : State} (h : Memory.wf s.mem = true) : Memory.wf (failedAccess t s).mem = true := by
  have k : Memory.wf (t.sent.elim s fun x => sendPacket x.1 x.2.1 x.2.2 s).mem = true := by
    cases t.sent with
    | none => exact h
    | some x => obtain ⟨g, e⟩ := sendPacket_onDev x.1 x.2.1 x.2.2 s; rw [Option.elim_some, e]; exact h
  simp only [failedAccess]
  generalize (t.sent.elim s fun x => sendPacket x.1 x.2.1 x.2.2 s) = u at k ⊢
  cases t.stale with
  | none => exact k
  | some y => rw [Option.elim_some]; exact markStale_wf y.1 y.2 k

/-- R421: a failed access that leaves no stale mark touches no memory. -/
theorem failedAccess_mem_none {t : Trap} (h : t.stale = none) (s : State) : (failedAccess t s).mem = s.mem := by
  unfold failedAccess
  rw [h]
  cases t.sent with
  | none => rfl
  | some x => obtain ⟨g, e⟩ := sendPacket_onDev x.1 x.2.1 x.2.2 s; simp [e]

/-- Taking a trap keeps all that pokes and changes of the device, of the hart and of the core in focus keep. -/
theorem takeTrap_keep {α : Type} (f : State → α) (hp : ∀ a bs s, f (poke a bs s) = f s)
    (hd : ∀ g s, f (State.onDev g s) = f s) (hh : ∀ g s, f (State.onHart g s) = f s)
    (hc : ∀ g s, f (State.onCore g s) = f s) (t : Trap) (pc : Word) (q : List QEntry) (s : State) : f (takeTrap t pc q s) = f s := by
  unfold takeTrap
  rw [hh, hc, failedAccess_keep f hp hd]
  split
  · exact hc _ _
  · rfl

/-- R421: memory after a trap is taken: as after what the failed access has done. -/
theorem takeTrap_mem (t : Trap) (pc : Word) (q : List QEntry) (s : State) : (takeTrap t pc q s).mem =
    (failedAccess t (if stops t.cause then s.onCore (emptyShadows s.hart.launch.doneaddr) else s)).mem := rfl
theorem takeTrap_mem_none {t : Trap} (h : t.stale = none) (pc : Word) (q : List QEntry) (s : State) : (takeTrap t pc q s).mem = s.mem := by
  rw [takeTrap_mem, failedAccess_mem_none h]; split <;> rfl
/-- Taking a trap keeps the canonical form of memory. -/
theorem takeTrap_wf (t : Trap) (pc : Word) (q : List QEntry) {s : State} (h : Memory.wf s.mem = true) :
    Memory.wf (takeTrap t pc q s).mem = true := by
  rw [takeTrap_mem]
  exact failedAccess_wf t (by split <;> exact h)
theorem takeTrap_dev {t : Trap} (h : t.sent = none) (pc : Word) (q : List QEntry) (s : State) : (takeTrap t pc q s).dev = s.dev := by
  unfold takeTrap
  rw [onHart_dev, onCore_dev]
  unfold failedAccess
  rw [h]
  simp only [Option.elim_none]
  rw [marked_keep State.dev (fun _ _ _ => rfl)]
  split <;> rfl
@[simp] theorem takeTrap_harts (t : Trap) (pc : Word) (q : List QEntry) (s : State) : (takeTrap t pc q s).harts = s.harts :=
  takeTrap_keep State.harts (fun _ _ _ => rfl) (fun _ _ => rfl) (fun _ _ => rfl) (fun _ _ => rfl) t pc q s
@[simp] theorem takeTrap_die (t : Trap) (pc : Word) (q : List QEntry) (s : State) : (takeTrap t pc q s).die = s.die :=
  takeTrap_keep State.die (fun _ _ _ => rfl) (fun _ _ => rfl) (fun _ _ => rfl) (fun _ _ => rfl) t pc q s
@[simp] theorem takeTrap_cores (t : Trap) (pc : Word) (q : List QEntry) (s : State) : (takeTrap t pc q s).cores = s.cores :=
  takeTrap_keep State.cores (fun _ _ _ => rfl) (fun _ _ => rfl) (fun _ _ => rfl) (fun _ _ => rfl) t pc q s
@[simp] theorem takeTrap_agenda (t : Trap) (pc : Word) (q : List QEntry) (s : State) : (takeTrap t pc q s).agenda = s.agenda :=
  takeTrap_keep State.agenda (fun _ _ _ => rfl) (fun _ _ => rfl) (fun _ _ => rfl) (fun _ _ => rfl) t pc q s
@[simp] theorem takeTrap_priv (t : Trap) (pc : Word) (q : List QEntry) (s : State) :
    (takeTrap t pc q s).hart.priv = trapTarget s.hart t := rfl
@[simp] theorem takeTrap_ie (t : Trap) (pc : Word) (q : List QEntry) (s : State) : (takeTrap t pc q s).hart.ie = false := rfl

@[simp] theorem takeDelegated_mem (t : Trap) (pc : Word) (s : State) : (takeDelegated t pc s).mem = s.mem := by
  unfold takeDelegated; split <;> rfl
@[simp] theorem takeDelegated_dev (t : Trap) (pc : Word) (s : State) : (takeDelegated t pc s).dev = s.dev := by
  unfold takeDelegated; split <;> rfl
@[simp] theorem takeDelegated_pc (t : Trap) (pc : Word) (s : State) : (takeDelegated t pc s).hart.pc = s.hart.utvec := by
  unfold takeDelegated; split <;> rfl
@[simp] theorem takeDelegated_priv (t : Trap) (pc : Word) (s : State) : (takeDelegated t pc s).hart.priv = s.hart.priv := by
  unfold takeDelegated; split <;> rfl

/-- Raising a trap that marks no copy stale touches no memory. -/
theorem raise_mem {t : Trap} (e : t.stale = none) (s : State) : (raise t s).mem = s.mem := by
  rcases raise_cases t s with ⟨_, h⟩ | ⟨_, h⟩ <;> simp [h, takeTrap_mem_none e]

/-- Raising a trap keeps the canonical form of memory. -/
theorem raise_wf (t : Trap) {s : State} (w : Memory.wf s.mem = true) : Memory.wf (raise t s).mem = true := by
  rcases raise_cases t s with ⟨_, h⟩ | ⟨_, h⟩
  · rw [h]; exact takeTrap_wf t _ _ w
  · rw [h]; simpa using w

theorem raise_dev {t : Trap} (e : t.sent = none) (s : State) : (raise t s).dev = s.dev := by
  rcases raise_cases t s with ⟨_, h⟩ | ⟨_, h⟩ <;> simp [h, takeTrap_dev e]

/-- A strip that may be fetched ahead makes an event due, and nothing else (R273). -/
theorem fetchSoon_cases (v : Fin 32) (s : State) :
    fetchSoon v s = s ∨ fetchSoon v s = due [Instr.streamRegisterFetch s.hart.id v] s := by
  unfold fetchSoon; split <;> simp

/-- What an event made due leaves alone, strips that may be fetched leave alone. -/
theorem foldl_fetchSoon {β : Type} (f : State → β) (h : ∀ es s, f (due es s) = f s) (vs : List (Fin 32)) (s : State) :
    f (vs.foldl (fun s v => fetchSoon v s) s) = f s := by
  induction vs generalizing s with
  | nil => rfl
  | cons v vs ih =>
    rw [List.foldl_cons, ih]
    rcases fetchSoon_cases v s with e | e <;> rw [e]
    exact h _ _

@[simp] theorem returnTrap_mem (s : State) : (returnTrap s).mem = s.mem :=
  (foldl_fetchSoon State.mem (fun _ _ => rfl) _ _).trans rfl
@[simp] theorem returnTrap_dev (s : State) : (returnTrap s).dev = s.dev :=
  (foldl_fetchSoon State.dev (fun _ _ => rfl) _ _).trans rfl
@[simp] theorem returnTrap_core (s : State) : (returnTrap s).core = s.core :=
  (foldl_fetchSoon State.core (fun _ _ => rfl) _ _).trans rfl

/-- R379: the hart after a return, whatever strips may be fetched. -/
theorem returnTrap_hart (s : State) : (returnTrap s).hart =
    (let r := trapRegs s.hart.priv s.hart
     let h' := resumeHeld { s.hart with ie := r.tcause.getLsbD 17, priv := Priv.ofCode (bitsOf r.tcause.toNat 19 18) }
     { h' with pc := r.tpc, yield := false, engBusy := false }) :=
  (foldl_fetchSoon State.hart (fun _ _ => rfl) _ _).trans rfl

end Sys2Proof.Machine
end

