-- ==== Sys2Proof/Laws/Steps.lean ====
section
/-!
SUPPORT. What a step can be, said once, and which shared operations keep a safe state safe.
-/
namespace Sys2Proof.Machine

/-! ### A step -/

/-- A timer whose TIME has come once the clock has moved goes before all else. -/
theorem step_rung {s u : State} {e : Instr} (r : rung (clockTick s) = some (e, u)) : step s = exec e (chargeEvent e u) := by
  simp [step, act, r]

/-- With no timer come due, a step is what acts next. -/
theorem step_actNext {s : State} (r : rung (clockTick s) = none) : step s = actNext (clockTick s) := by simp [step, act, r]

/-- With an event due once the clock has moved and no timer come due, a step is that event, charged to whom it is done for. -/
theorem step_event {s : State} {e : Instr} {es : List Instr} (r : rung (clockTick s) = none) (h : (clockTick s).agenda = e :: es)
    (d : (clockTick s).defer = 0) : step s = exec e (chargeEvent e { clockTick s with agenda := es }) := by
  simp [step_actNext r, actNext, h, d]

/-- With nothing due once the clock has moved, a step is a hart's turn. -/
theorem step_turn {s : State} (r : rung (clockTick s) = none) (h : (clockTick s).agenda = []) : step s = hartStep (clockTick s) := by
  simp [step_actNext r, actNext, h]

/-- A step is a timer that has come due, the oldest due event, or a hart's turn. -/
theorem step_cases (s : State) :
    (∃ e u, rung (clockTick s) = some (e, u) ∧ step s = exec e (chargeEvent e u))
    ∨ (∃ e es, (clockTick s).agenda = e :: es ∧ (clockTick s).defer = 0
      ∧ step s = exec e (chargeEvent e { clockTick s with agenda := es })) ∨ step s = hartStep (clockTick s) := by
  cases r : rung (clockTick s) with
  | some x => exact .inl ⟨x.1, x.2, rfl, step_rung r⟩
  | none =>
    rw [step_actNext r]
    unfold actNext
    split
    · rename_i e es h
      split
      · rename_i d
        exact .inr (.inl ⟨e, es, h, d, rfl⟩)
      · exact .inr (.inr rfl)
    · exact .inr (.inr rfl)

/-- The hart in focus named next by the round has its turn. -/
theorem hartStep_self {s : State} {ts : List Nat} (h : s.turns = s.hart.id :: ts) (b : s.hart.bound = true) (r : s.hart.retiring = false) :
    hartStep s = turn (coreTick { s with turns := ts, defer := s.defer - 1 }) := by
  have e : focus s.hart.id { s with turns := ts } = some { s with turns := ts } := by simp [focus]
  simp [hartStep, pick, nextTurn, h, e, b, r, Option.filter]

/-! ### The clock and the charges of energy (R311, R312) -/

/-- Energy charged for one hart after another leaves alone what one charge leaves alone. -/
theorem foldl_addEnergy {α β : Type} (f : State → β) (h : ∀ p q n s, f (addEnergy p q n s) = f s) (g : α → Nat × Nat × Nat)
    (l : List α) (s : State) : f (l.foldl (fun t x => addEnergy (g x).1 (g x).2.1 (g x).2.2 t) s) = f s := by
  induction l generalizing s with
  | nil => rfl
  | cons x xs ih => rw [List.foldl_cons, ih, h]

/-- What a charge of energy leaves alone is as before the static charge. -/
theorem chargeStatic_inv {β : Type} (f : State → β) (h : ∀ p q n s, f (addEnergy p q n s) = f s) (s : State) :
    f (chargeStatic s) = f s :=
  foldl_addEnergy f h (fun x : Hart => (x.part, x.launch.queue, Config.staticEnergy s.tick (coreOf x.id))) (boundHarts s) s

@[simp] theorem linkTick_mem (s : State) : (linkTick s).mem = s.mem := by simp only [linkTick, due_mem, onDev_mem]
@[simp] theorem linkTick_hart (s : State) : (linkTick s).hart = s.hart := by simp only [linkTick, due_hart, onDev_hart]
@[simp] theorem latchPending_mem (s : State) : (latchPending s).mem = s.mem := rfl

/-- A timer that has come due leaves memory and the harts as they are. -/
theorem rung_frame {s u : State} {e : Instr} (h : rung s = some (e, u)) :
    u.mem = s.mem ∧ u.hart = s.hart ∧ u.harts = s.harts ∧ u.agenda = s.agenda := by
  unfold rung at h
  split at h
  · split at h
    · cases h; exact ⟨rfl, rfl, rfl, rfl⟩
    · cases h
  · cases h

/-- R175: a pending event or pre-emption request of the hart in focus sets its wake latch; nothing else of it changes. -/
theorem latchPending_hart (s : State) :
    (latchPending s).hart = { s.hart with latch :=
      s.hart.latch || (s.hart.bound && s.hart.ie && (s.hart.preq || (eventFor s s.hart.id).isSome)) } := rfl

@[simp] theorem clockTick_mem (s : State) : (clockTick s).mem = s.mem := chargeStatic_inv State.mem (fun _ _ _ _ => rfl) s
@[simp] theorem clockTick_core (s : State) : (clockTick s).core = s.core := chargeStatic_inv State.core (fun _ _ _ _ => rfl) s
@[simp] theorem clockTick_die (s : State) : (clockTick s).die = s.die := chargeStatic_inv State.die (fun _ _ _ _ => rfl) s
@[simp] theorem clockTick_turns (s : State) : (clockTick s).turns = s.turns := chargeStatic_inv State.turns (fun _ _ _ _ => rfl) s

@[simp] theorem coreTick_mem (s : State) : (coreTick s).mem = s.mem := rfl
@[simp] theorem coreTick_hart (s : State) :
    (coreTick s).hart = { s.hart with
      ahead := decide (1 < s.tick) && Config.runAhead s.tick
      late := decide (1 < s.tick) && Config.runAhead s.tick && Config.putsOff s.tick } := rfl

@[simp] theorem charge_mem (s : State) : (charge s).mem = s.mem := by unfold charge; split <;> simp

theorem mapNext_next {f : State → State} {o : Out} {t : State} (h : mapNext f o = .next t) : ∃ u, o = .next u ∧ t = f u := by
  cases o with
  | next u => exact ⟨u, rfl, by simpa [mapNext] using h.symm⟩
  | fault r => simp [mapNext] at h
  | refused r => simp [mapNext] at h

/-! ### Safe states -/

/-- A state with the same memory is as safe. -/
theorem State.Safe.of_mem_eq {s t : State} (h : s.Safe) (e : t.mem = s.mem) : t.Safe := by unfold State.Safe; rw [e]; exact h

theorem State.Safe.poke {s : State} (h : s.Safe) (a : Nat) (bs : List Byte) : (poke a bs s).Safe := poke_wf a bs h

theorem State.Safe.clearMem {s : State} (h : s.Safe) (lo hi : Nat) : (clearMem lo hi s).Safe := clearMem_wf lo hi h

theorem State.Safe.raise {s : State} (h : s.Safe) (t : Trap) : (raise t s).Safe := raise_wf t h

theorem State.Safe.advance {s : State} (h : s.Safe) (n : Nat) : (advance n s).Safe := h.of_mem_eq rfl

theorem State.Safe.wait {s : State} (h : s.Safe) : (wait s).Safe := h.of_mem_eq rfl

theorem State.Safe.wx {s : State} (h : s.Safe) (d : Fin 32) (v : Word) : (wx d v s).Safe :=
  h.of_mem_eq (by simp)

theorem State.Safe.scalar {s : State} (h : s.Safe) (rs : List (Fin 32)) {f : State → State} (hf : (f s).Safe) : (scalar rs f s).Safe := by
  unfold Machine.scalar; split
  · exact h.wait
  · exact hf

theorem State.Safe.asHart {s : State} (hs : s.Safe) (h : Nat) {f : State → State} (hf : ∀ u : State, u.Safe → (f u).Safe) : (asHart h f s).Safe :=
  asHart_mem_inv (P := fun m => Memory.wf m = true) hs hf

theorem State.Safe.asCore {s : State} (hs : s.Safe) (c : Nat) {f : State → State} (hf : ∀ u : State, u.Safe → (f u).Safe) : (asCore c f s).Safe :=
  asCore_mem_inv (P := fun m => Memory.wf m = true) hs hf

theorem State.Safe.asDie {s : State} (hs : s.Safe) (d : Nat) {f : State → State} (hf : ∀ u : State, u.Safe → (f u).Safe) : (asDie d f s).Safe :=
  asDie_mem_inv (P := fun m => Memory.wf m = true) hs hf

end Sys2Proof.Machine
end

