-- ==== Sys2Proof/Laws/Vector.lean ====
section
/-!
SUPPORT. Vector results and the dispatch of a vector instruction: which elements of a register a write changes, and what
dispatching comes to when the instruction runs at once.
-/
namespace Sys2Proof.Machine

/-! ### Results (R185) -/

/-- R185: a result written element by element: the elements listed and active hold it, the others are as before. -/
theorem getField_mapElems (act : Nat → Bool) (w : Nat) (f : Nat → Nat) (idx : List Nat) (img j : Nat) :
    getField (mapElems act w f idx img) w j = if j ∈ idx ∧ act j = true then f j % 2 ^ w else getField img w j := by
  induction idx generalizing img with
  | nil => simp [mapElems]
  | cons i is ih =>
    have e : mapElems act w f (i :: is) img = mapElems act w f is (if act i then setField img w i (f i) else img) := rfl
    rw [e, ih]
    by_cases hm : j ∈ is ∧ act j = true
    · rw [if_pos hm, if_pos ⟨List.mem_cons_of_mem _ hm.1, hm.2⟩]
    · rw [if_neg hm]
      by_cases hij : j = i
      · subst hij
        by_cases ha : act j = true
        · simp [ha, getField_setField]
        · simp [ha]
      · have : ¬(j ∈ i :: is ∧ act j = true) := by
          rintro ⟨h1, h2⟩
          rcases List.mem_cons.1 h1 with h | h
          · exact hij h
          · exact hm ⟨h, h2⟩
        rw [if_neg this]
        split
        · exact getField_setField_ne img w (f i) hij
        · rfl

theorem elemAt_setV (v : Fin 32) (img : Nat) (s : State) (r : Fin 32) (w i : Nat) :
    elemAt (setV v img s).hart r w i = if r = v then getField img w i else elemAt s.hart r w i := by
  unfold elemAt setV State.onHart
  by_cases h : r = v
  · subst h; simp
  · have : v.val ≠ r.val := fun e => h (Fin.ext e.symm)
    simp [h, this]

@[simp] theorem setV_m (v : Fin 32) (img : Nat) (s : State) : (setV v img s).hart.m = s.hart.m := rfl
@[simp] theorem healV_v (d : Fin 32) (act : Nat → Bool) (w : Nat) (idx : List Nat) (s : State) :
    (healV d act w idx s).hart.v = s.hart.v := rfl
@[simp] theorem healV_m (d : Fin 32) (act : Nat → Bool) (w : Nat) (idx : List Nat) (s : State) :
    (healV d act w idx s).hart.m = s.hart.m := rfl
@[simp] theorem healV_mem (d : Fin 32) (act : Nat → Bool) (w : Nat) (idx : List Nat) (s : State) :
    (healV d act w idx s).mem = s.mem := rfl

@[simp] theorem elemAt_healV (d : Fin 32) (act : Nat → Bool) (w : Nat) (idx : List Nat) (s : State) (r : Fin 32) (w' i : Nat) :
    elemAt (healV d act w idx s).hart r w' i = elemAt s.hart r w' i := rfl

/-- R35, R185: a result reaches its destination and the lent copy, and no other register. -/
theorem elemAt_writeElems (d : Fin 32) (l : Option Lend) (act : Nat → Bool) (w : Nat) (f : Nat → Nat) (idx : List Nat) (s : State)
    (r : Fin 32) (j : Nat) :
    elemAt (writeElems d l act w f idx s).hart r w j =
      if (r = d ∨ lentCopy l = some r) ∧ j ∈ idx ∧ act j = true then f j % 2 ^ w else elemAt s.hart r w j := by
  unfold writeElems
  cases hc : lentCopy l with
  | none =>
    simp only [elemAt_healV, elemAt_setV, getField_mapElems]
    by_cases hr : r = d
    · subst hr; simp [elemAt]
    · simp [hr]
  | some c =>
    simp only [elemAt_healV, elemAt_setV, getField_mapElems]
    by_cases hr : r = c
    · subst hr; simp [elemAt]
    · have hr' : ¬c = r := fun e => hr e.symm
      by_cases hd : r = d
      · subst hd; simp [hr, elemAt]
      · simp [hr, hr', hd]

@[simp] theorem writeElems_m (d : Fin 32) (l : Option Lend) (act : Nat → Bool) (w : Nat) (f : Nat → Nat) (idx : List Nat) (s : State) :
    (writeElems d l act w f idx s).hart.m = s.hart.m := by
  unfold writeElems; cases lentCopy l <;> simp only [healV_m, setV_m]
@[simp] theorem writeElems_mem (d : Fin 32) (l : Option Lend) (act : Nat → Bool) (w : Nat) (f : Nat → Nat) (idx : List Nat) (s : State) :
    (writeElems d l act w f idx s).mem = s.mem := by
  unfold writeElems; cases lentCopy l <;> simp only [healV_mem, setV_mem]

/-! ### Dispatch (R37) -/

/-- In a quiet state an instruction that runs through completes at once: its replies are written and its convoy is left. -/
theorem dispatch_done {n : Nat} {ops : List (VOp × Option Lend)} {ov : State → Bool} {s t : State} {rs : List (List Word)} (q : Quiet s)
    (few : (replyDests ops).length ≤ 8) (stay : ops.any (·.1.jumps) = false)
    (run : runConvoy (convoyPc s.hart) (captured (capture ops s)) ops ov s = .done t rs) :
    dispatch n ops ov s = advance n (sendReplies (replyDests ops) rs (forget .vector t)) := by
  obtain ⟨held, reps, vq, defer, -, -, -, -, -, -, ahead, -, buf⟩ := q
  have noFrame : framesQueued s.hart = false := by simp [framesQueued, vq]
  have pend : ((ops.flatMap fun o => o.1.xsrc ++ o.1.xdst).any (pendingX s)) = false :=
    List.any_eq_false.2 fun r _ => by simp [pendingX_of_no_replies reps buf]
  have few' : ¬8 < s.hart.replies.length + (replyDests ops).length := by rw [reps]; simpa using few
  unfold dispatch
  simp only [held, pend, few', noFrame, vq, defer, ahead, run, stay]
  simp

/-- The same where the instruction traps. -/
theorem dispatch_trap {n : Nat} {ops : List (VOp × Option Lend)} {ov : State → Bool} {s t : State} {tr : Trap} (q : Quiet s)
    (few : (replyDests ops).length ≤ 8)
    (run : runConvoy (convoyPc s.hart) (captured (capture ops s)) ops ov s = .trap tr t) :
    dispatch n ops ov s =
      vectorTrap tr { pc := convoyPc s.hart, members := ops.map fun o => (o.2, o.1.i), x := capture ops s } n ops s t := by
  obtain ⟨held, reps, vq, defer, -, -, -, -, -, -, ahead, -, buf⟩ := q
  have noFrame : framesQueued s.hart = false := by simp [framesQueued, vq]
  have pend : ((ops.flatMap fun o => o.1.xsrc ++ o.1.xdst).any (pendingX s)) = false :=
    List.any_eq_false.2 fun r _ => by simp [pendingX_of_no_replies reps buf]
  have few' : ¬8 < s.hart.replies.length + (replyDests ops).length := by rw [reps]; simpa using few
  unfold dispatch
  simp only [held, pend, few', noFrame, vq, defer, ahead, run]
  simp

end Sys2Proof.Machine
end

