-- ==== Sys2Proof/Tests/Slice0.lean ====
section
/-!
SUPPORT. Tests: terms that well-formedness refuses, words written out from the encodings of the spec, single steps with the
results the spec works out, and for every claim a state and operands that meet its hypotheses.
-/
set_option Elab.async false

namespace Sys2Proof.Machine.Tests

theorem ok_of {ε α : Type} {r : Except ε α} {x : α} (h : r.toOption = some x) : r = .ok x := by
  cases r with
  | error e => cases h
  | ok y => simpa [Except.toOption] using h

theorem error_of {ε α : Type} [DecidableEq ε] {r : Except ε α} {e : ε}
    (h : (match r with | .error x => decide (x = e) | .ok _ => false) = true) : r = .error e := by
  cases r with
  | error x => simpa using h
  | ok y => cases h

/-! ### Ill-formed terms -/

/-- R146: scope 7. -/
theorem test_refuses_scope : ∀ i ∈ [Instr.amoswap 1 2 3 false false false 7, .amoadd 1 2 3 false false false 7, .amoand 1 2 3 true false false 7,
    .amoor 1 2 3 true false false 7, .amoxor 1 2 3 true false false 7, .amomin 1 2 3 true false false 7, .amomax 1 2 3 true false false 7,
    .amominu 1 2 3 true false false 7, .amomaxu 1 2 3 true false false 7, .amocas 1 2 3 true true true 7, .fenceSv 7, .fenceVs 7,
    .fenceVv 7, .fenceAll 7], i.wellFormed = false := by decide

/-- R146, R152: a body of no words. -/
theorem test_refuses_empty_body : ∀ i ∈ [Instr.loop 0 1 0, .apxb 3 0], i.wellFormed = false := by decide

/-- R147: W of 17 (and of 31). -/
theorem test_refuses_width : ∀ i ∈ [Instr.setvl 1 2 (17 * 4), .setvl 1 2 (31 * 4 + 2)], i.wellFormed = false := by decide

/-- R150: a port operand past P7. -/
theorem test_refuses_port : ∀ i ∈ [Instr.mopa 0 true 8 false 1 0 false, .mopa 0 false 1 true 31 0 true, .mops 1 true 9 true 1 3 false],
    i.wellFormed = false := by decide

/-- R141: a group of X registers past X31, and FSTRIP of X0 (R152). -/
theorem test_refuses_group : ∀ i ∈ [Instr.cpy2d 30 1 2, .puts 31 1 2, .cpyb 31 1 2, .fstrip 31 1, .fstrip 0 1], i.wellFormed = false := by decide

/-- R12: a HARTID, a COREID and a die past the last. -/
theorem test_refuses_place : ∀ i ∈ [Instr.laneGroupGrant 384, .vbranchResolve 384, .vwaitComplete 384, .matrixClaimGrant 384,
    .streamElementComplete 384 0, .copyComplete 384 0, .putsSignal 384 0, .cpybDeposit 384 0, .engineFault 384, .bwaitComplete 384,
    .streamRegisterFetch 384 0, .vectorConvoyStart 384, .replyWrite 384, .vectorSideFault 384 7 0 0, .preemption 384, .clockGroupEvent 384,
    .linkEvent 384, .parkWake 384, .parkTimeout 384, .hartRetirement 384, .lockedLoadRedirect 384, .replicaLockTimeout 384, .remoteTimeout 384,
    .pageMigration 384 0 0 [], .laneGroupScrubbed 96 0, .passFormingEnd 96 0, .halyardSubscribe 96 0, .keyElementArrival 96 0, .keyPassEnd 96 0,
    .shadowSlotFill 96 0 0, .tokenBucketRefill 96, .laneRetirement 96 0, .halyardElementIssue 4 0, .ownLimitChange 4 0, .reefNotice 4 0 0 0,
    .reefNoticeEffective 4, .shakeoutProposal 4 0, .shakeoutAnswer 4 0 0, .shakeoutCommit 4 0 [], .shakeoutCommitEffective 4, .heartbeatSend 4,
    .heartbeat 4 0 0, .joinRequest 4 0 0, .joinAnswer 4 0 [] [] none, .joinTimeout 4, .leaveMessage 4 0, .memberSilence 4 0, .memberEviction 4 0,
    .solitaryLimitEffective 4], i.wellFormed = false := by decide

/-- R301: a partition past the last. -/
theorem test_refuses_partition : ∀ i ∈ [Instr.wqryAnswer 96 0, .postLaunchRecord 0 96 0 [], .takeLaunchRecord 96 0, .dependenceSatisfied 96 0,
    .shadowSlotFill 0 0 96, .bindHart 96, .governorPeriod 96, .partitionBlockWrite 0 96 0 []], i.wellFormed = false := by decide

/-! ### Words written out from R137 to R152 -/

theorem test_decode_addi : decode (bytesOfWord 4 0b10000100010100100111111111111101) = .ok (.addi 5 4 0x7FFD, []) := ok_of (by decide +kernel)
theorem test_decode_bne : decode (bytesOfWord 4 0b10011100010100000111111111110000) = .ok (.bne 5 0 0x7FF0, []) := ok_of (by decide +kernel)
theorem test_decode_fence : decode (bytesOfWord 4 0b10101110000000000000000100001001) = .ok (.fenceVs 1, []) := ok_of (by decide +kernel)
theorem test_decode_cmulp : decode (bytesOfWord 4 0b11101000010000100000011100000101) = .ok (.cmulp 2 1 7, []) := ok_of (by decide +kernel)
theorem test_decode_mopa : decode (bytesOfWord 4 0b11100011000100100010011100000000) = .ok (.mopa 1 false 4 true 2 7 false, []) := ok_of (by decide +kernel)
theorem test_decode_alu : decode (bytesOfWord 4 0b10000010010100110001110000010010) = .ok (.mulhu 5 6 7, []) := ok_of (by decide +kernel)
theorem test_decode_shift : decode (bytesOfWord 4 0b10010000100101010100000000100001) = .ok (.srai 9 10 33, []) := ok_of (by decide +kernel)
theorem test_decode_lui : decode (bytesOfWord 4 0b10010011111010000000000000000001) = .ok (.lui 30 0x80001, []) := ok_of (by decide +kernel)
theorem test_decode_load : decode (bytesOfWord 4 0b10010110001100100001111111111110) = .ok (.ldh 3 4 0xFFE, []) := ok_of (by decide +kernel)
theorem test_decode_store : decode (bytesOfWord 4 0b10011000100000010011000000010000) = .ok (.std 8 2 0x010, []) := ok_of (by decide +kernel)
theorem test_decode_jal : decode (bytesOfWord 4 0b10100110000111111111111111111111) = .ok (.jal 1 0xFFFFF, []) := ok_of (by decide +kernel)
theorem test_decode_amo : decode (bytesOfWord 4 0b10101010010100110001110001101011) = .ok (.amoadd 5 6 7 true false true 3, []) := ok_of (by decide +kernel)
theorem test_decode_loop : decode (bytesOfWord 4 0b10101100000101001000000001100100) = .ok (.loop 1 9 100, []) := ok_of (by decide +kernel)
theorem test_decode_sys : decode (bytesOfWord 4 0b10101110000001011000000000000100) = .ok (.wsw 11, []) := ok_of (by decide +kernel)
theorem test_decode_csr : decode (bytesOfWord 4 0b10110000010100110001000010100000) = .ok (.csrw 5 6 0x0A0, []) := ok_of (by decide +kernel)
theorem test_decode_setvl : decode (bytesOfWord 4 0b11000000010100110000000010100010) = .ok (.setvl 5 6 0x0A2, []) := ok_of (by decide +kernel)
theorem test_decode_vbany : decode (bytesOfWord 4 0b11000010001100000111111111111100) = .ok (.vbany 3 0x7FFC, []) := ok_of (by decide +kernel)
theorem test_decode_valu : decode (bytesOfWord 4 0b01000110010000101001100011000000) = .ok (.vadd false 4 5 6 1 true, []) := ok_of (by decide +kernel)
theorem test_decode_vfp : decode (bytesOfWord 4 0b11001000010000101001100000000011) = .ok (.vfma true 4 5 6 0 false, []) := ok_of (by decide +kernel)
theorem test_decode_vperm : decode (bytesOfWord 4 0b01001010010000101001100100000101) = .ok (.vredsum false 4 5 6 2, []) := ok_of (by decide +kernel)
theorem test_decode_vnar : decode (bytesOfWord 4 0b11001100010000101001100000000000) = .ok (.vnarrow true 4 5 6 0, []) := ok_of (by decide +kernel)
theorem test_decode_vmod : decode (bytesOfWord 4 0b11001110010000101001100001000010) = .ok (.vmmul true 4 5 6 0 2, []) := ok_of (by decide +kernel)
theorem test_decode_vld : decode (bytesOfWord 4 0b01010000010000101000000110001000) = .ok (.vld false 4 5 3 true, []) := ok_of (by decide +kernel)
theorem test_decode_vst : decode (bytesOfWord 4 0b11010010010000101000000000000000) = .ok (.vst true 4 5 0 false, []) := ok_of (by decide +kernel)
theorem test_decode_vspill : decode (bytesOfWord 4 0b11010100010000101000000000000001) = .ok (.vfill 4 5, []) := ok_of (by decide +kernel)
theorem test_decode_vamo : decode (bytesOfWord 4 0b11010110010000101001100010001010) = .ok (.vamoadd 4 5 6 1 true false 2, []) := ok_of (by decide +kernel)
theorem test_decode_vwait : decode (bytesOfWord 4 0b11011010010000101001100000000011) = .ok (.vwaiteq 4 5 6 0 3, []) := ok_of (by decide +kernel)
theorem test_decode_mctl : decode (bytesOfWord 4 0b11100000000001100000000000000000) = .ok (.mmode 12, []) := ok_of (by decide +kernel)
theorem test_decode_mrow : decode (bytesOfWord 4 0b01100100010000001010010000000000) = .ok (.mdrain false 4 1 9, []) := ok_of (by decide +kernel)
theorem test_decode_pcfg : decode (bytesOfWord 4 0b11100110011001100000000000000000) = .ok (.pcfgBase 6 12, []) := ok_of (by decide +kernel)
theorem test_decode_ciph : decode (bytesOfWord 4 0b11101000011111011110000000000010) = .ok (.cadd 3 14 15, []) := ok_of (by decide +kernel)
theorem test_decode_cref : decode (bytesOfWord 4 0b11101010011111000100000000000000) = .ok (.cref 3 14 2, []) := ok_of (by decide +kernel)
theorem test_decode_ckey : decode (bytesOfWord 4 0b11101100001001001000000000000000) = .ok (.kbind 2 9, []) := ok_of (by decide +kernel)
theorem test_decode_strm : decode (bytesOfWord 4 0b11101110001101001000000000000000) = .ok (.sopen 3 9, []) := ok_of (by decide +kernel)
theorem test_decode_copy : decode (bytesOfWord 4 0b11110000010100110001110000000000) = .ok (.cpy 5 6 7, []) := ok_of (by decide +kernel)
theorem test_decode_bar : decode (bytesOfWord 4 0b11110010000000110001110000000100) = .ok (.bwait 6 7, []) := ok_of (by decide +kernel)
theorem test_decode_fab : decode (bytesOfWord 4 0b11110100010100110001110000000010) = .ok (.galloc 5 6 7, []) := ok_of (by decide +kernel)
theorem test_decode_work : decode (bytesOfWord 4 0b11110110000000110001110000000001) = .ok (.wpush 6 7, []) := ok_of (by decide +kernel)
theorem test_decode_apxb : decode (bytesOfWord 4 0b11111000010100000000000001001101) = .ok (.apxb 5 77, []) := ok_of (by decide +kernel)
theorem test_decode_ctl2 : decode (bytesOfWord 4 0b11111010000000110000000000000010) = .ok (.fsave 6, []) := ok_of (by decide +kernel)
theorem test_decode_pfx : decode (bytesOfWord 4 0b01111111011100011000000000000000) = .ok (.pfxn 5 17 true, []) := ok_of (by decide +kernel)
/-- R143: the all-zero word. -/
theorem test_refuses_zero_word : decode (bytesOfWord 4 0b00000000000000000000000000000000) = .error .reservedMajor := error_of (by decide +kernel)
/-- R143. -/
theorem test_refuses_major_19 : decode (bytesOfWord 4 0b10110010000000000000000000000000) = .error .reservedMajor := error_of (by decide +kernel)
/-- R143. -/
theorem test_refuses_major_3e : decode (bytesOfWord 4 0b11111100000000000000000000000000) = .error .reservedMajor := error_of (by decide +kernel)
/-- R153: the worked counterexample. -/
theorem test_refuses_mopa_low_bit : decode (bytesOfWord 4 0b11100011000100100010011100000001) = .error .fieldNotZero := error_of (by decide +kernel)
/-- R144. -/
theorem test_refuses_alu_fn : decode (bytesOfWord 4 0b10000010010100110001110000001110) = .error .reservedFunction := error_of (by decide +kernel)
/-- R144, R141. -/
theorem test_refuses_clz_b : decode (bytesOfWord 4 0b10000010010100110001110000100000) = .error .fieldNotZero := error_of (by decide +kernel)
/-- R146. -/
theorem test_refuses_fence_scope : decode (bytesOfWord 4 0b10101110000000000000000100000111) = .error .illFormed := error_of (by decide +kernel)
/-- R29. -/
theorem test_refuses_scalar_without_end : decode (bytesOfWord 4 0b00000010010100110001110000000000) = .error .endBitClear := error_of (by decide +kernel)
/-- R153. -/
theorem test_refuses_pfx_end : decode (bytesOfWord 4 0b11111110010000101000000000000000) = .error .prefixEndsConvoy := error_of (by decide +kernel)
/-- R141, R34. -/
theorem test_refuses_pfx_unused_copy : decode (bytesOfWord 4 0b01111110010000100000000000000000) = .error .illFormed := error_of (by decide +kernel)

/-- The word and the bytes: encode gives the words back (R137). -/
theorem test_encode : encode (.addi 5 4 0x7FFD) = some 0x84527FFD ∧ encode (.cmulp 2 1 7) = some 0xE8420705 ∧ encode (.mopa 1 false 4 true 2 7 false) = some 0xE3122700 := by
  decide
/-! ### Small states -/

/-- X registers set. -/
def xs (l : List (Fin 32 × Word)) (s : State) : State := l.foldl (fun s p => wx p.1 p.2 s) s

/-- A bound hart with one lane group, VL 4 at SEW 32, at an address of its scratchpad. -/
def hart0 : Hart := { Hart.fresh 0 with bound := true, pc := 0xFF00000000001000, vl := 4, groups := 1, lanes := 0xFF }

/-- The machine with that hart. -/
def s0 : State := { State.reset with hart := hart0 }

/-- The hart changed. -/
def h0 (f : Hart → Hart) : State := s0.onHart f

/-- A queue entry with one member. -/
def entry1 (pc : Word) (i : Instr) (x : List (Nat × Word)) : QEntry := { pc := pc, members := [(none, i)], x := x }

/-- A check of the state that an outcome answers. -/
def after (o : Out) (p : State → Bool) : Bool :=
  match o with
  | .next t => p t
  | _ => false

/-! ### Single steps, with results from the spec -/

/-- R62: a quotient by zero and the overflowing quotient. -/
theorem test_div_corners : after (exec (.div 5 1 2) (xs [(1, 7)] s0)) (fun t => rx 5 t == 0xFFFFFFFFFFFFFFFF) = true
    ∧ after (exec (.div 5 1 2) (xs [(1, 0x8000000000000000), (2, 0xFFFFFFFFFFFFFFFF)] s0)) (fun t => rx 5 t == 0x8000000000000000) = true := by
  decide +kernel

/-- R158: the high half of a signed product, and an arithmetic shift by the low six bits. -/
theorem test_mulh_sra : after (exec (.mulh 5 1 2) (xs [(1, 0xFFFFFFFFFFFFFFFF), (2, 3)] s0)) (fun t => rx 5 t == 0xFFFFFFFFFFFFFFFF) = true
    ∧ after (exec (.sra 5 1 2) (xs [(1, 0x8000000000000000), (2, 67)] s0)) (fun t => rx 5 t == 0xF000000000000000) = true := by decide +kernel

/-- R159: the immediates of ADDI and ANDI differ in their extension. -/
theorem test_immediates : after (exec (.addi 5 1 0x7FFD) (xs [(1, 2)] s0)) (fun t => rx 5 t == 0xFFFFFFFFFFFFFFFF) = true
    ∧ after (exec (.andi 5 1 0x7FFD) (xs [(1, 0xFFFFFFFFFFFFFFFF)] s0)) (fun t => rx 5 t == 0x7FFD) = true := by decide +kernel

/-- R157: X0 discards a write. -/
theorem test_x0 : after (exec (.addi 0 0 5) s0) (fun t => rx 0 t == 0 && t.hart.pc == 0xFF00000000001004) = true := by decide +kernel

/-- R164, R140: `bne x5, x0, top` of the worked example goes back 16 words. -/
theorem test_branch : after (exec (.bne 5 0 0x7FF0) (xs [(5, 1)] s0)) (fun t => t.hart.pc == 0xFF00000000000FC0) = true
    ∧ after (exec (.bne 5 0 0x7FF0) s0) (fun t => t.hart.pc == 0xFF00000000001004) = true := by decide +kernel

/-- R165: JALR reads Xa before it writes Xd. -/
theorem test_jalr : after (exec (.jalr 5 5 6) (xs [(5, 0x1001)] s0)) (fun t => t.hart.pc == 0x1004 && rx 5 t == 0xFF00000000001004) = true := by
  decide +kernel

/-- R162, R161: a stored halfword reads back with its sign. -/
theorem test_store_load : after (exec (.sth 6 1 4) (xs [(1, 0xFF00000000000000), (6, 0x1F234)] s0)) (fun t =>
    after (exec (.ldh 7 1 4) t) (fun u => rx 7 u == 0xFFFFFFFFFFFFF234) && after (exec (.ldhu 7 1 4) t) (fun u => rx 7 u == 0xF234)) = true := by
  decide +kernel

/-- R166: AMOCAS compares with Xd and writes on a match. -/
theorem test_amocas : after (exec (.amocas 5 1 6 true false false 0) (xs [(1, 0xFF00000000000008), (5, 0), (6, 9)] s0)) (fun t =>
    rx 5 t == 0 && peek (scratchAt s0 0xFF00000000000008) 8 t == 9) = true := by decide +kernel

/-- R112, R386: a misaligned access traps with its address. -/
theorem test_misaligned : after (exec (.ldw 5 1 0) (xs [(1, 0xFF00000000000002)] s0)) (fun t =>
    t.hart.sTrap.tcause.toNat % 256 == 3 && t.hart.sTrap.tval == 0xFF00000000000002 && t.hart.priv == .s && !t.hart.ie) = true := by decide +kernel

/-- R42, R43: LOOP with a count of 2 runs its one-word body twice. -/
theorem test_loop : after (exec (.loop 0 1 1) (xs [(1, 2)] s0)) (fun t =>
    after (exec (.add 5 5 5) t) (fun u => u.hart.pc == 0xFF00000000001004 && u.hart.loops.lc0.count == 0 &&
      after (exec (.add 5 5 5) u) (fun v => v.hart.pc == 0xFF00000000001008 && !v.hart.loops.lc0.live))) = true := by decide +kernel

/-- R173, R174: ECALL and the return from it. -/
theorem test_ecall_tret : after (exec .ecall (h0 fun h => { h with sTrap := { tvec := 0x4000 } })) (fun t => t.hart.pc == 0x4000
    && t.hart.sTrap.tcause.toNat % 256 == 0x18 && t.hart.sTrap.tpc == 0xFF00000000001004
    && after (exec .tret t) (fun u => u.hart.pc == 0xFF00000000001004 && u.hart.priv == .u && u.hart.ie)) = true := by decide +kernel

/-- R170: CSRRS-style reads and writes at S; R388: the same at U. -/
theorem test_csr : after (exec (.csrw 5 1 0x005) (xs [(1, 0x77)] (h0 fun h => { h with priv := .s }))) (fun t => t.hart.sTrap.tscratch == 0x77) = true
    ∧ after (exec (.csrw 5 1 0x005) (xs [(1, 0x77)] s0)) (fun t => t.hart.sTrap.tcause.toNat % 256 == 2) = true := by decide +kernel

/-- R183, R46: SETVL of 100 elements at SEW 32 takes one group of 512 and replies 100. -/
theorem test_setvl : after (exec (.setvl 5 1 2) (xs [(1, 100)] (h0 fun h => { h with groups := 0, lanes := 0, vl := 0 }))) (fun t =>
    rx 5 t == 100 && t.hart.vl == 100 && popN 8 t.hart.groups.toNat == 1 && vlmaxr t.hart == 512) = true := by decide +kernel

/-- R185: VADD wraps at its width, in the active elements alone. -/
theorem test_vadd : after (exec (.vadd true 4 1 2 1 false) (h0 fun h =>
    { h with v := (h.v.set 1 0x00000001FFFFFFFF).set 2 0x0000000500000001, m := h.m.set 1 0b0001 })) (fun t => t.hart.v[4] == 0) = true
    ∧ after (exec (.vadd true 4 1 2 0 false) (h0 fun h =>
    { h with v := (h.v.set 1 0x00000001FFFFFFFF).set 2 0x0000000500000001 })) (fun t => t.hart.v[4] == 0x0000000600000000) = true := by decide +kernel

/-- R64, R66: an inexact sum rounds to even, and a NaN is canonical. -/
theorem test_fp : fadd 0x3F800000 0x33800000 = 0x3F800000 ∧ fadd 0x3F800001 0x33800000 = 0x3F800002 ∧ fadd 0x7F800000 0xFF800000 = 0x7FC00000
    ∧ fmul 0x40490FDB 0x40000000 = 0x40C90FDB := by decide +kernel

/-- R205: a product modulo QM0. -/
theorem test_vmmul : after (exec (.vmmul true 4 1 2 0 0) (h0 fun h => { h with vl := 1, qm := h.qm.set 0 97, v := (h.v.set 1 50).set 2 60 })) (fun t =>
    t.hart.v[4] == 3000 % 97) = true := by decide +kernel

/-- R190: a sum reduction starts from element 0 of Vb. -/
theorem test_vredsum : after (exec (.vredsum true 4 1 2 0) (h0 fun h => { h with v := (h.v.set 1 0x00000004000000030000000200000001).set 2 10 })) (fun t =>
    t.hart.v[4] == 20) = true := by decide +kernel

/-- R197: a unit-stride load and store in the scratchpad. -/
theorem test_vld_vst : after (exec (.vst true 3 1 0 false) (xs [(1, 0xFF00000000000040)] (h0 fun h => { h with v := h.v.set 3 0x44444444333333332222222211111111 })))
    (fun t => after (exec (.vld true 7 1 0 false) t) (fun u => u.hart.v[7] == 0x44444444333333332222222211111111)) = true := by decide +kernel

/-- R34, R36: a PFX lends its predicate to the following word alone. -/
theorem test_pfx : after (exec (.pfx 1 0 false) (h0 fun h => { h with m := h.m.set 1 0b0010, v := h.v.set 1 0x0000000700000007 })) (fun t =>
    after (exec (.vmv true 4 1 0 false) t) (fun u => u.hart.v[4] == 0x0000000700000000 && u.hart.lend == none)) = true := by decide +kernel

/-- R238: MMODE claims the unit with MVL 2 and 8-bit codes. -/
theorem test_mmode : after (exec (.mmode 1) (xs [(1, 0x0000000000010802 + 2 ^ 20 + 2 ^ 21)] s0)) (fun t => t.core.matrix.owner == some 0 && t.core.matrix.mvl == 2) = true := by
  decide +kernel

/-- R267, R268: an arrival at a barrier of one completes it. -/
theorem test_barrier : after (exec (.binit 1 2) (xs [(1, 0xFF00000000000040), (2, 1)] s0)) (fun t =>
    after (exec (.barv 1) t) (fun u => peek (scratchAt s0 0xFF0000000000004C) 4 u == 1 && peek (scratchAt s0 0xFF00000000000044) 4 u == 1)) = true := by
  decide +kernel

/-- R262, R263: a copy lands its bytes. -/
theorem test_cpy : after (exec (.cpy 1 2 3) (xs [(1, 0xFF00000000000100), (2, 0xFF00000000000200), (3, 2)] (poke (scratchAt s0 0xFF00000000000200) [7, 8] s0))) (fun t =>
    after (exec (.copyComplete 0 0) t) (fun u => peek (scratchAt s0 0xFF00000000000100) 2 u == 0x807 && u.hart.xfers.isEmpty)) = true := by decide +kernel

/-- R326, R327: a late reef notice lowers the ceiling on arrival. -/
theorem test_reef_notice : after (exec (.reefNotice 0 1 1500 0) { s0 with die := { s0.die with clock :=
    { gid := 3, members := [{ num := 0, limit := 2250 }, { num := 1, limit := 2250 }] } } }) (fun t => t.die.clock.freq == 1500) = true := by decide +kernel

/-- R443, R57: the word placed at the pc is the one a step runs: `addi x5, x4, -3`. -/
theorem test_step_addi : after (step (State.reset.withFetchWord 32 0x84527FFD)) (fun t => rx 5 t == 0xFFFFFFFFFFFFFFFD && t.hart.pc == 4) = true := by
  decide +kernel

/-- R387: a non-instruction at the pc raises cause 0x01. -/
theorem test_step_illegal : after (step (State.reset.withFetchWord 32 0)) (fun t => t.hart.sTrap.tcause.toNat % 256 == 1) = true := by decide +kernel

/-! ### States that meet the hypotheses of the claims -/

/-- An access that `reach` lets through to a plain target. -/
theorem passes_of {k : AccKind} {a : Agent} {u : Use} {n : Nat} {va : Word} {s : State}
    (h : (match reach { reqOf s k a u with bytes := n } va s with | .ok (t, _) => decide (t.e2e = []) | .error _ => false) = true) :
    ∃ t s', Passes k a u n va s t s' ∧ t.plain := by
  cases e : reach { reqOf s k a u with bytes := n } va s with
  | error x => rw [e] at h; cases h
  | ok r =>
    rw [e] at h
    exact ⟨r.1, r.2, e, of_decide_eq_true (p := r.1.e2e = []) h⟩

/-- Claims that ask only for registers that await nothing. -/
theorem test_meets_ScalarResults : Settled s0 [31, 30, 1, 0] := by unfold Settled; decide +kernel

/-- A live loop that ends at the pc of `s0`. -/
def loopAt (n : Nat) : HwLoop := { live := true, count := n, start := 0x40, last := 0xFF00000000001000 }

/-- CompletionMakesTheBackEdgeTest: one clause each, with counters 0 and 1. -/
theorem test_meets_CompletionMakesTheBackEdgeTest :
    let ends : HwLoop → Bool := fun k => k.live && k.last == hart0.pc + BitVec.ofNat 64 (4 * (1 - 1))
    (ends {} = false) ∧ (ends (loopAt 0) = true ∧ (loopAt 0).count = 0) ∧ (ends (loopAt 1) = true ∧ (loopAt 1).count ≠ 0) := by decide +kernel

/-- PendingRegisterMakesScalarWait: X5 awaits a reply. -/
theorem test_meets_PendingRegisterMakesScalarWait : pendingX (h0 fun h => { h with replies := [{ dests := [5], vals := none }] }) 5 = true := by
  decide +kernel

/-- BranchesTakeTheirTarget: operands that are equal, less as signed and greater as unsigned numbers. -/
theorem test_meets_BranchesTakeTheirTarget :
    let s := xs [(1, 7), (2, 7), (3, 0xFFFFFFFFFFFFFFFF)] s0
    Settled s [1, 2] ∧ Settled s [3, 1] ∧ rx 1 s = rx 2 s ∧ rx 3 s ≠ rx 1 s ∧ (rx 3 s).toInt < (rx 1 s).toInt ∧ ¬(rx 1 s).toInt < (rx 3 s).toInt
      ∧ (rx 1 s).toNat < (rx 3 s).toNat ∧ ¬(rx 3 s).toNat < (rx 1 s).toNat := by unfold Settled; decide +kernel

/-- JumpsLinkAndContinue. -/
theorem test_meets_JumpsLinkAndContinue : Settled s0 [5] ∧ Settled s0 [5, 5] := by unfold Settled; decide +kernel

/-- HardwareLoopsStartAndChange: counts 0 (also of a value whose low 24 bits are 0) and 1, a live and a dead loop. -/
theorem test_meets_HardwareLoopsStartAndChange :
    Settled (xs [(1, 0x1000000), (2, 1)] s0) [1, 2] ∧ (rx 1 (xs [(1, 0x1000000), (2, 1)] s0)).toNat % 2 ^ 24 = 0
      ∧ (rx 2 (xs [(1, 0x1000000), (2, 1)] s0)).toNat % 2 ^ 24 ≠ 0 ∧ (({ lc0 := loopAt 3 } : Loops).get 0).live = true ∧ (({} : Loops).get 1).live = false := by
  unfold Settled; decide +kernel

/-- A turn in which the scalar side puts its accesses off. -/
def lateTurn (s : State) : State := s.onHart fun h => { h with late := true }

/-- ScalarLoadsReadTheirBytes: the last doubleword of the scratchpad, aligned for every width, in a turn of either kind. -/
theorem test_meets_ScalarLoadsReadTheirBytes :
    let s := xs [(1, 0xFF000000000FFFF8)] s0
    (s.hart.late = false ∧ (lateTurn s).hart.late = true ∧ s.hart.sbuf = []) ∧
    Settled s [5, 1] ∧ (∃ t u, Passes .load .scalar .clears 8 0xFF000000000FFFF8 (inOrder (reqOf s .load .scalar .clears) 0xFF000000000FFFF8 8 s) t u ∧ t.plain)
      ∧ (∃ t u, Passes .load .scalar .clears 8 0xFF000000000FFFF8 (lateTurn s) t u ∧ t.plain)
      ∧ Word.ofInt ((rx 1 s).toNat + if (0 : Nat) < 2048 then ((0 : Nat) : Int) else ((0 : Nat) : Int) - 4096) = 0xFF000000000FFFF8
      ∧ (0xFF000000000FFFF8 : Word).toNat % 8 = 0 :=
  ⟨by decide +kernel, by unfold Settled; decide +kernel, passes_of (by decide +kernel), passes_of (by decide +kernel), by decide +kernel, by decide +kernel⟩

/-- ScalarStoresWriteTheirBytes: by a negative offset, in a turn of either kind; nothing put off. -/
theorem test_meets_ScalarStoresWriteTheirBytes :
    let s := xs [(1, 0xFF00000000000008)] s0
    let late : SAccess := { req := reqOf s .store .scalar .clears, target := { rd := 2 ^ 56, wr := [2 ^ 56], attr := 0 }, va := 0xFF00000000000000, act := .store (leBytes 8 7) }
    (s.hart.late = false ∧ (lateTurn s).hart.late = true ∧ s.hart.sbuf = [] ∧ hasPlace s late = true) ∧
    Settled s [5, 1] ∧ (∃ t u, Passes .store .scalar .clears 8 0xFF00000000000000 (inOrder (reqOf s .store .scalar .clears) 0xFF00000000000000 8 s) t u ∧ t.plain)
      ∧ (∃ t u, Passes .store .scalar .clears 8 0xFF00000000000000 (lateTurn s) t u ∧ t.plain)
      ∧ Word.ofInt ((rx 1 s).toNat + if (4088 : Nat) < 2048 then ((4088 : Nat) : Int) else ((4088 : Nat) : Int) - 4096) = 0xFF00000000000000
      ∧ (0xFF00000000000000 : Word).toNat % 8 = 0 :=
  ⟨by decide +kernel, by unfold Settled; decide +kernel, passes_of (by decide +kernel), passes_of (by decide +kernel), by decide +kernel, by decide +kernel⟩

/-- ScalarAtomicsReadAndWrite: a word in the scalar data memory, which a doubleword access also fits, in a turn of either kind. -/
theorem test_meets_ScalarAtomicsReadAndWrite :
    let s := xs [(1, 0xFF00000000100010)] s0
    let late : SAccess := { req := reqOf s .atomic .scalar .clears, target := { rd := 2 ^ 56, wr := [2 ^ 56], attr := 0 }, va := rx 1 s
                            act := .rmw { kind := .add, n := 4, b := 1, e := 0 } 5 }
    (s.hart.late = false ∧ (lateTurn s).hart.late = true ∧ s.hart.sbuf = [] ∧ hasPlace s late = true ∧ late.target.wr.headD late.target.rd = late.target.rd) ∧
    Settled s [5, 1, 6] ∧ (∃ t u, Passes .atomic .scalar .clears 4 (rx 1 s) (inOrder (reqOf s .atomic .scalar .clears) (rx 1 s) 4 s) t u ∧ t.plain)
      ∧ (∃ t u, Passes .atomic .scalar .clears 4 (rx 1 s) (lateTurn s) t u ∧ t.plain) ∧ (rx 1 s).toNat % 4 = 0 ∧ (rx 1 s).toNat % 8 = 0 :=
  ⟨by decide +kernel, by unfold Settled; decide +kernel, passes_of (by decide +kernel), passes_of (by decide +kernel), by decide +kernel, by decide +kernel⟩

/-- MisalignedScalarAccessTraps: an odd address. -/
theorem test_meets_MisalignedScalarAccessTraps :
    let s := xs [(1, 0x1001)] s0
    Settled s [5, 1, 6] ∧ (rx 1 s).toNat % 2 ≠ 0 ∧ (rx 1 s).toNat % 4 ≠ 0 ∧ (rx 1 s).toNat % 8 ≠ 0 := by unfold Settled; decide +kernel

/-- A hart whose pc is mapped by page tables of its own, for execution only. -/
noncomputable def mapped : State := State.reset.withFetchWord 32 0x84527FFD

/-- The leaf of the page of the pc. -/
noncomputable def leafFacts (p : Leaf → Bool → Bool) : Bool :=
  match findLeaf mapped (reqOf mapped .fetch .scalar .neither) 0 with
  | .ok (l, b) => p l b
  | .error _ => false

theorem leaf_of {p : Leaf → Bool → Bool} (h : leafFacts p = true) :
    ∃ l b, findLeaf mapped (reqOf mapped .fetch .scalar .neither) 0 = .ok (l, b) ∧ p l b = true := by
  unfold leafFacts at h
  cases e : findLeaf mapped (reqOf mapped .fetch .scalar .neither) 0 with
  | error x => rw [e] at h; cases h
  | ok r => rw [e] at h; exact ⟨r.1, r.2, rfl, h⟩

/-- TranslatedAccessSetsItsMarks: a fetch through the page tables. -/
theorem test_meets_TranslatedAccessSetsItsMarks :
    mapped.Safe ∧ (reqOf mapped .fetch .scalar .neither).use ≠ .sweep ∧ canonical (0 : Word).toNat = true ∧ inWindow (0 : Word).toNat = false
      ∧ inAperture (0 : Word).toNat = false
      ∧ (∃ l b, findLeaf mapped (reqOf mapped .fetch .scalar .neither) 0 = .ok (l, b) ∧ (b && !bitAt l.pte 12) = true)
      ∧ ∃ t u, Passes .fetch .scalar .neither 4 0 mapped t u ∧ t.plain :=
  ⟨by unfold State.Safe; decide +kernel, by decide +kernel, by decide +kernel, by decide +kernel, by decide +kernel, leaf_of (by decide +kernel),
    passes_of (by decide +kernel)⟩

/-- AddressesReachTheirRegions: the first and last address of every region, and the agents. -/
theorem test_meets_AddressesReachTheirRegions :
    let off : Word → Nat := fun va => va.toNat - 0xFF00000000000000
    let inside : Word → Prop := fun va => 0xFF00000000000000 ≤ va.toNat ∧ va.toNat ≤ 0xFF000000FFFFFFFF
    (inside 0xFF00000000000000 ∧ inside 0xFF000000000FFFFF ∧ off 0xFF000000000FFFFF < 0x100000)
    ∧ (inside 0xFF00000000100000 ∧ 0x100000 ≤ off 0xFF00000000100000 ∧ inside 0xFF0000000010FFFF ∧ off 0xFF0000000010FFFF < 0x110000)
    ∧ (inside 0xFF00000000110000 ∧ 0x110000 ≤ off 0xFF00000000110000 ∧ inside 0xFF000000FFFFFFFF)
    ∧ (reqOf s0 .load .scalar .clears).agent = .scalar ∧ (reqOf s0 .load .engine .neither).agent = .engine
    ∧ (reqOf s0 .load .vector .neither).agent = .vector ∧ (reqOf s0 .load .port .neither).agent = .port
    ∧ (0x0200000000000000 : Word).getLsbD 57 ≠ (0x0200000000000000 : Word).getLsbD 56
    ∧ (0xFD00000000000000 : Word).getLsbD 57 ≠ (0xFD00000000000000 : Word).getLsbD 56
    ∧ (0x8000000000000000 : Word).getLsbD 63 ≠ (0x8000000000000000 : Word).getLsbD 56 := by decide +kernel

/-- AddressesReachTheirRegions: the leaf of `mapped` lacks RD and WR, so that loads, waits, stores and atomics are refused. -/
theorem test_meets_AddressesReachTheirRegions_permission :
    ∃ l b, findLeaf mapped (reqOf mapped .fetch .scalar .neither) 0 = .ok (l, b) ∧ (!bitAt l.pte 1 && !bitAt l.pte 2 && bitAt l.pte 3) = true :=
  leaf_of (by decide +kernel)

/-- TrapEntryWritesItsRegisters: every cause is below 256; the three privileges, ECALL at S among them; a trap without and with a stale replica. -/
theorem test_meets_TrapEntryWritesItsRegisters : ({ cause := 0x19, tval := 0 } : Trap).cause < 256 ∧ ({ cause := 255, tval := 0 } : Trap).cause < 256
    ∧ ({ cause := 0x19, tval := 0 } : Trap).stale = none ∧ ({ cause := 8, tval := 0, stale := some (0x2000, 3) } : Trap).stale = some (0x2000, 3) := by decide

/-- TrapEntryMakesTheHeldContext: with and without a held context, with a queue and a running stream. -/
theorem test_meets_TrapEntryMakesTheHeldContext :
    (h0 fun h => { h with held := some {} }).hart.held = some {} ∧ s0.hart.held = none
      ∧ (h0 fun h => { h with streams := h.streams.set 2 { state := .running } }).hart.streams[(2 : Fin 4)].state = .running
      ∧ ([] : List QEntry) ++ (h0 fun h => { h with vq := [{ pc := 8, members := [], x := [] }] }).hart.vq = { pc := 8, members := [], x := [] } :: [] := by
  decide +kernel

/-- TretReturnsOrEndsTheTask: its four clauses. -/
theorem test_meets_TretReturnsOrEndsTheTask :
    let del := h0 fun h => { h with inDeleg := true }
    let top := h0 fun h => { h with priv := .s, held := some {} }
    (del.hart.priv = .u ∧ del.hart.inDeleg = true)
    ∧ (s0.hart.priv = .u ∧ s0.hart.inDeleg = false ∧ (∀ a ∈ s0.core.accs, a.hart ≠ s0.hart.id) ∧ (∀ d : Fin 16, s0.hart.crerr[d] = 0) ∧ s0.hart.vq = [])
    ∧ (∃ e ∈ (top.onHart fun h => { h with vq := [entry1 0 (.fsave 6) []] }).hart.vq, ∃ l a, (l, Instr.fsave a) ∈ e.members ∨ (l, Instr.frstr a) ∈ e.members)
    ∧ (top.hart.priv ≠ .u ∧ framesQueued top.hart = false ∧ bitsOf (trapRegs top.hart.priv top.hart).tcause.toNat 31 24 = top.hart.world.val ∧ (∀ c ∈ top.hart.held, c.regrant = none)) :=
  ⟨by decide +kernel, by decide +kernel, ⟨_, List.mem_singleton.2 rfl, none, 6, .inl (List.mem_singleton.2 rfl)⟩, by decide +kernel⟩

/-- PrivilegedUsesTrapAtU: U, and the CSRs at the ends of both ranges. -/
theorem test_meets_PrivilegedUsesTrapAtU : s0.hart.priv = .u
    ∧ ∀ c ∈ [0x001, 0x007, 0x0A0, 0x0A6], (1 ≤ c ∧ c ≤ 7) ∨ (0xA0 ≤ c ∧ c ≤ 0xA6) := by decide +kernel

/-- CsrInstructionsReadAndWrite: a CSR of the vector side, a system CSR at S, and one that does not exist. -/
theorem test_meets_CsrInstructionsReadAndWrite :
    let s := h0 fun h => { h with priv := .s }
    Settled s [5] ∧ Settled s [5, 1] ∧ csrExists 0x012 = true ∧ (csrSystem 0x012 = true → s.hart.priv ≠ .u)
      ∧ (csrQueue 0x012 = true → s.hart.held = none → s.hart.vq = []) ∧ csrExists 0x001 = true ∧ csrSystem 0x001 = true ∧ s.hart.priv ≠ .u
      ∧ csrExists 0x7FF = false := by unfold Settled; decide +kernel

/-- CsrFieldsKeepTheirWidth: S and M, outside a constant-time world. -/
theorem test_meets_CsrFieldsKeepTheirWidth : (h0 fun h => { h with priv := .s }).hart.priv ≠ .u ∧ (h0 fun h => { h with priv := .m }).hart.priv ≠ .u
    ∧ s0.hart.ct = false
    ∧ (let own : State := { s0 with core := { s0.core with matrix := { s0.core.matrix with owner := some 0 } } }
       own.core.matrix.owner = some own.hart.id ∧ s0.core.matrix.owner ≠ some s0.hart.id)
    ∧ bitsOf (0x40000 : Word).toNat 19 18 < 2 ∧ bitsOf (0xC0000 : Word).toNat 19 18 = 3 ∧ ¬bitsOf (0x80000 : Word).toNat 19 18 < 2 := by decide +kernel

/-- WorldSwitchSealsAndScrubs: to the current world, a number past 255, to world 0 with a free place for the shroud, and to a world that no context holds. -/
theorem test_meets_WorldSwitchSealsAndScrubs :
    let s := xs [(1, 3), (2, 0), (3, 9), (4, 0x100)] (h0 fun h => { h with priv := .s, world := 3 })
    s.hart.priv ≠ .u ∧ Settled s [1] ∧ s.hart.vq = [] ∧ (∀ x ∈ s.core.accs, x.hart ≠ s.hart.id) ∧ (rx 1 s).toNat = s.hart.world.val ∧ 256 ≤ (rx 4 s).toNat
      ∧ ((rx 2 s).toNat < 256 ∧ (rx 2 s).toNat ≠ s.hart.world.val ∧ worldOk s 0 = true
        ∧ (0 < 4 ∧ (4 * s.hart.id + 0 + 1) * 0x88100 ≤ s.dev.shroudArea
          ∧ ∀ k ∈ s.dev.shrouds, k.hart = s.hart.id → k.world ≠ s.hart.world.val → k.place ≠ 0) ∧ (∀ k ∈ s.dev.shrouds, k.hart = s.hart.id → k.world ≠ 0))
      ∧ ((rx 3 s).toNat < 256 ∧ (rx 3 s).toNat ≠ s.hart.world.val ∧ worldOk s 9 = false ∧ s.hart.switching = none) := by unfold Settled; decide +kernel

/-- SystemRegisterEvents: the group the die is in and another, and a hart of the writer's partition, of another, and none. -/
theorem test_meets_SystemRegisterEvents :
    (0 : Fin 4096).val = s0.die.clock.gid ∧ (4095 : Fin 4096).val ≠ s0.die.clock.gid
    ∧ (∃ h ∈ s0.hart :: s0.harts, h.bound = true ∧ h.id = (0 : Fin 512).val ∧ (h.part = s0.hart.part ∨ s0.hart.priv = .m))
    ∧ (∀ h ∈ s0.hart :: s0.harts, h.id = (511 : Fin 512).val → h.bound = true → h.part ≠ s0.hart.part ∧ s0.hart.priv ≠ .m) := by decide +kernel

/-- AsynchronousCausesAreTaken: a pre-emption, IE 0, and an event of the die for the hart. -/
theorem test_meets_AsynchronousCausesAreTaken :
    let p := h0 fun h => { h with preq := true }
    let e := s0.onDie fun d => { d with evhart := 0x8000, events := [(true, 5), (false, 6)] }
    (p.hart.bound = true ∧ p.hart.ie = true ∧ p.hart.preq = true ∧ ∀ a ∈ p.core.accs, a.hart ≠ p.hart.id)
    ∧ (h0 fun h => { h with ie := false }).hart.ie = false
    ∧ (e.hart.bound = true ∧ e.hart.ie = true ∧ e.die.id < 4 ∧ e.die.evhart.getLsbD 15 = true ∧ bitsOf e.die.evhart.toNat 8 0 = e.hart.id
      ∧ e.die.events = (true, 5) :: [(false, 6)]) := by decide +kernel

/-- AsynchronousCausesAreTaken: the other dies of that state have no event. -/
theorem test_meets_AsynchronousCausesAreTaken_alone : ∀ d ≠ s0.die.id, (dieAt d (s0.onDie fun d => { d with evhart := 0x8000, events := [(true, 5)] })).events = [] := by
  intro d h
  have h' : ¬(0 = d) := fun e => h e.symm
  simp [dieAt, State.onDie, s0, State.reset, h']

/-- SoftwareTrapsAndDelegation: EBREAK delegated and not, and the causes at the ends of the delegable ones. -/
theorem test_meets_SoftwareTrapsAndDelegation :
    let s := h0 fun h => { h with tdeleg := 0x04083C00 }
    (s.hart.priv = .u ∧ s.hart.tdeleg.getLsbD 26 = true ∧ s.hart.inDeleg = false ∧ s.hart.held = none ∧ s.hart.vq = [])
    ∧ (s.onHart fun h => { h with vq := [entry1 0 (.fenceSv 0) []] }).hart.vq ≠ []
    ∧ ¬(s0.hart.priv = .u ∧ s0.hart.tdeleg.getLsbD 26 = true ∧ s0.hart.inDeleg = false ∧ s0.hart.held = none)
    ∧ (∀ c ∈ [0x0A, 0x0D, 0x13, 0x1A], ({ cause := c, tval := 0 } : Trap).cause < 64 ∧ delegated s.hart { cause := c, tval := 0 } = true)
    ∧ delegated s.hart { cause := 7, tval := 0 } = false := by decide +kernel

/-- ParkAndFencesWait: the latch set, an interrupt pending, neither; every access performed, and a transfer under way; queues of 1 and of 16
entries, with no store put off. -/
theorem test_meets_ParkAndFencesWait :
    let full := fun n => h0 fun h => { h with vq := List.replicate n (entry1 0 (.fenceSv 0) []) }
    (performBuffered (full 1) = full 1 ∧ (full 1).hart.held = none ∧ (full 1).hart.lend = none ∧ (full 1).hart.replies.length ≤ 8 ∧ (full 1).hart.vq ≠ []
      ∧ (full 1).hart.vq.length < 16 ∧ 16 ≤ (full 16).hart.vq.length ∧ performBuffered s0 = s0
      ∧ framesQueued (full 1).hart = false ∧ framesQueued (h0 fun h => { h with vq := [entry1 0 (.frstr 1) []] }).hart = true) ∧
    (h0 fun h => { h with latch := true, parked := true }).hart.latch = true ∧ (h0 fun h => { h with latch := true, parked := true }).hart.parked = true
    ∧ ((h0 fun h => { h with preq := true }).hart.ie = true ∧ (h0 fun h => { h with preq := true }).hart.preq = true)
    ∧ ¬(s0.hart.latch = true ∨ (s0.hart.ie = true ∧ (s0.hart.preq = true ∨ (eventFor s0 s0.hart.id).isSome = true)))
    ∧ (s0.hart.vq = [] ∧ s0.hart.xfers = [] ∧ s0.hart.queries = [] ∧ ∀ k : Fin 4, s0.hart.streams[k].state ≠ .running)
    ∧ ¬((h0 fun h => { h with vq := [{ pc := 0, members := [], x := [] }] }).hart.vq = []) := by decide +kernel

/-! ### Vector claims -/

/-- A quiet state, stated so that it can be decided. -/
theorem quiet_of {s : State} (h : (s.hart.held = none ∧ s.hart.replies = [] ∧ s.hart.vq = [] ∧ s.defer = 0 ∧ s.hart.binds = [] ∧ s.hart.vbad = []
    ∧ s.hart.mbad = [] ∧ (∀ d : Fin 16, hdrKind s.hart.chdr[d] ≠ 2 ∧ s.hart.crerr[d] = 0) ∧ s.hart.vl ≤ 2 ^ 17
    ∧ s.hart.stopAt = none ∧ s.hart.ahead = false ∧ s.hart.releasedOnce = false
    ∧ s.hart.sbuf = [])) : Quiet s := h

/-- The elements an instruction computes lie below VL. -/
theorem lt_of_computes {h : Hart} {p : Fin 8} {i : Nat} (c : computes h p i = true) : i < h.vl := by
  simp only [computes, active, Bool.and_eq_true, decide_eq_true_eq] at c; exact c.1.2

/-- A lent predicate, negated, with a copy. -/
def lent : State := h0 fun h => { h with lend := some { pm := 1, neg := true, dc := 9, cen := true } }

/-- VectorIntegerResults, VectorComparesWriteMasks, PermutationsAndReductions, VectorRepliesReachX: a quiet state, and one with a lent state. -/
theorem test_meets_Quiet : Quiet s0 ∧ Quiet lent := ⟨quiet_of (by decide +kernel), quiet_of (by decide +kernel)⟩

/-- A state with a VTYPE. -/
def typed (v : BitVec 12) : State := h0 fun h => { h with vtype := v }

/-- VectorComparesWriteMasks, VectorFloatResults: SEW 32 with W 0, SEW 64, and W 8. -/
theorem test_meets_VectorFloatResults : (Quiet (typed 2) ∧ bitsOf (typed 2).hart.vtype.toNat 6 0 = 2) ∧ (Quiet (typed 3) ∧ bitsOf (typed 3).hart.vtype.toNat 6 0 ≠ 2)
    ∧ (Quiet (typed 0x22) ∧ bitsOf (typed 0x22).hart.vtype.toNat 6 0 ≠ 2) :=
  ⟨⟨quiet_of (by decide +kernel), by decide +kernel⟩, ⟨quiet_of (by decide +kernel), by decide +kernel⟩, ⟨quiet_of (by decide +kernel), by decide +kernel⟩⟩

/-- FloatSpecialValues: NaNs of both signs, infinities, zeros of both signs, and a finite number that is none of them. -/
theorem test_meets_FloatSpecialValues :
    (0x7F800001 : F32).toNat % 2 ^ 31 > 0x7F800000 ∧ (0xFFC00000 : F32).toNat % 2 ^ 31 > 0x7F800000 ∧ (0xFF800000 : F32).toNat % 2 ^ 31 = 0x7F800000
    ∧ (0x80000000 : F32).toNat % 2 ^ 31 = 0 ∧ ¬(0x80000001 : F32).toNat % 2 ^ 31 > 0x7F800000 ∧ ¬(0x80000001 : F32).toNat % 2 ^ 31 = 0x7F800000
    ∧ ¬(0x80000001 : F32).toNat % 2 ^ 31 = 0 ∧ (0x80000001 : F32) ≠ 0x80000000
    ∧ (∀ n ∈ [0, 0x80000000, 1, 0x3F800000, 0xFF7FFFFF], (BitVec.ofNat 32 n).toNat % 2 ^ 31 < 0x7F800000) := by decide +kernel

/-- R63: 2^24 + 1 lies half way and goes to the even neighbour, and half the least subnormal to zero; one more in the sum
that VFMA makes exactly decides. -/
theorem test_rounding : fadd 0x4B800000 0x3F800000 = 0x4B800000 ∧ fadd 0x4B800001 0x3F800000 = 0x4B800002 ∧ fmul 1 0x3F000000 = 0
    ∧ fmul 3 0x3F000000 = 2 ∧ ffma 0x4B800000 0x3F800000 0x3F800001 = 0x4B800001 ∧ fadd 0x7F7FFFFF 0x73000000 = 0x7F800000
    ∧ fadd 0x7F7FFFFF 0x72FFFFFF = 0x7F7FFFFF := by decide +kernel

/-- NarrowConversions: W 1 and W 16, with three registers apart. -/
theorem test_meets_NarrowConversions : (Quiet (typed 0x06) ∧ narrowW (typed 0x06).hart.vtype = 1) ∧ (Quiet (typed 0x42) ∧ narrowW (typed 0x42).hart.vtype = 16)
    ∧ (4 : Fin 32) ≠ 5 ∧ (4 : Fin 32) ≠ 6 :=
  ⟨⟨quiet_of (by decide +kernel), by decide +kernel⟩, ⟨quiet_of (by decide +kernel), by decide +kernel⟩, by decide, by decide⟩

/-- A state with a modulus. -/
def modular (q : Nat) : State := h0 fun h => { h with qm := h.qm.set 0 q }

/-- ModularResults: no modulus, the least and the greatest, with a destination that is not the source and no lent copy of it. -/
theorem test_meets_ModularResults : (Quiet (modular 0) ∧ (modular 0).hart.qm[(0 : Fin 4)] = 0) ∧ Quiet (modular 2) ∧ Quiet (modular 0xFFFFFFFF) ∧ bitsOf s0.hart.vtype.toNat 6 0 = 2
    ∧ 2 ≤ (modular 2).hart.qm[(0 : Fin 4)] ∧ (modular 0xFFFFFFFF).hart.qm[(0 : Fin 4)] < 2 ^ 32 ∧ (4 : Fin 32) ≠ 5
    ∧ lentCopy (modular 2).hart.lend ≠ some 5 :=
  ⟨⟨quiet_of (by decide +kernel), by decide +kernel⟩, quiet_of (by decide +kernel), quiet_of (by decide +kernel), by decide +kernel, by decide +kernel,
    by decide +kernel, by decide, by decide +kernel⟩

/-- SetvlSetsLengthAndReplies. -/
theorem test_meets_SetvlSetsLengthAndReplies : Alone s0 ∧ s0.core.lanemap = 0 ∧ s0.core.scrubbing = 0 ∧ s0.hart.bound = true ∧ coreOf s0.hart.id = s0.core.id
    ∧ (∀ h ∈ s0.harts, h.bound = true → coreOf h.id = s0.core.id → h.groups = 0 ∧ h.groupWait = false) ∧ s0.hart.groupWait = false :=
  ⟨⟨quiet_of (by decide +kernel), by decide +kernel⟩, by decide +kernel⟩

/-- VBANY M1 at the pc of `s0`, with a bit of M1 set below VL. -/
noncomputable def anyAt : State := poke (scratchAt s0 0xFF00000000001000) (leBytes 4 ((encode (.vbany 1 4)).getD 0)) (h0 fun h => { h with m := h.m.set 1 0b1000 })

/-- What a framed convoy of one instruction, with no change of the state, shows. -/
def framesOne (s : State) (i : Instr) : Framed → Bool
  | .convoy [m] _ _ u => decide (m.i = i) && decide (m.lend = none) && decide (u.hart = s.hart)
  | _ => false

theorem framed_of {s : State} {i : Instr} {f : Framed} (h : framesOne s i f = true) :
    ∃ word n pfx u, f = .convoy [{ word := word, i := i, lend := none }] n pfx u ∧ u.hart = s.hart := by
  unfold framesOne at h
  split at h
  · rename_i m n pfx u
    rw [Bool.and_eq_true, Bool.and_eq_true, decide_eq_true_eq, decide_eq_true_eq, decide_eq_true_eq] at h
    have e : m = { word := m.word, i := i, lend := none } := by rw [← h.1.1, ← h.1.2]
    exact ⟨m.word, n, pfx, u, by rw [← e], h.2⟩
  · cases h

/-- MaskBranchesResolve: queued, a bit set at VL - 1, none below VL, and the branch at the pc. -/
theorem test_meets_MaskBranchesResolve :
    (s0.hart.vq.length < 16 ∧ framesQueued s0.hart = false ∧ 16 ≤ (h0 fun h => { h with vq := List.replicate 16 (entry1 0 (.fenceSv 0) []) }).hart.vq.length ∧ s0.hart.held = none) ∧ (∀ b ∈ s0.hart.mbad, b.1 = 1 → s0.hart.vl ≤ 32 * b.2)
    ∧ (∀ b ∈ (h0 fun h => { h with mbad := [(1, 1)] }).hart.mbad, b.1 = 1 → s0.hart.vl ≤ 32 * b.2)
    ∧ (∀ e ∈ [entry1 0 (.vadd true 1 2 3 0 false) []], holdsBranch 1 e = false)
    ∧ (∀ e ∈ [entry1 0 (.setvl 1 2 2) [], entry1 0 (.vcmpeq true 1 2 3 0 false) []], holdsBranch 1 e = true)
    ∧ (∃ i < anyAt.hart.vl, (anyAt.hart.m[(1 : Fin 8)]).testBit i = true)
    ∧ ¬(∃ i < (h0 fun h => { h with m := h.m.set 1 0b10000 }).hart.vl, ((h0 fun h => { h with m := h.m.set 1 0b10000 }).hart.m[(1 : Fin 8)]).testBit i = true)
    ∧ anyAt.hart.bound = true ∧ anyAt.hart.vq = [] ∧ ∃ word n pfx u, frameConvoy anyAt = .convoy [{ word := word, i := .vbany 1 4, lend := none }] n pfx u ∧ u.hart = anyAt.hart :=
  ⟨by decide +kernel, by decide +kernel, by decide +kernel, by decide +kernel, by decide +kernel, by decide +kernel, by decide +kernel, by decide +kernel, by decide +kernel,
    framed_of (by decide +kernel)⟩

/-- A base at 0x40 of the scratchpad in X1, a stride of 8 in X2, and offsets 0, 4, 8, 12 in V2. -/
def places : State := xs [(1, 0xFF00000000000040), (2, 8)] (h0 fun h => { h with v := h.v.set 2 0x0000000C000000080000000400000000 })

theorem calm_of {s : State} (h : s.dev.bad = [] ∧ s.dev.linksDown = [] ∧ s.dev.locks = [] ∧ s.hart.id < 384 ∧ s.dev.devid < 1024)
    (k : s.hart.xfers = [] ∧ s.hart.queries = [] ∧ ∀ k : Fin 4, s.hart.streams[k].state ≠ .running) : CalmMemory s := ⟨h, k⟩

theorem places_below {s : State} {p : Fin 8} {P : Nat → Prop} (h : ∀ i < s.hart.vl, P i) : ∀ i, computes s.hart p i = true → P i :=
  fun i c => h i (lt_of_computes c)

/-- VectorLoadsReadTheirElements, VectorStoresWriteTheirElements, VectorAtomicsReadAndWrite: the states. -/
theorem test_meets_VectorMemory : Quiet places ∧ CalmMemory places ∧ places.Safe ∧ Alone places ∧ narrowW places.hart.vtype = 0 ∧ 2 ≤ places.hart.vtype.toNat % 4 :=
  ⟨quiet_of (by decide +kernel), calm_of (by decide +kernel) (by decide +kernel), by unfold State.Safe; decide +kernel,
    ⟨quiet_of (by decide +kernel), by decide +kernel⟩, by decide +kernel, by decide +kernel⟩

/-- The unit-stride, strided and indexed places of the four elements are aligned and inside the scratchpad. -/
theorem test_meets_VectorMemory_places :
    (rx 1 places).toNat % (elemW places.hart.vtype / 8) = 0
    ∧ (∀ i, computes places.hart 0 i = true → inScratch (rx 1 places + BitVec.ofNat 64 ((0 + i * 32) / 8)) (((0 + i * 32) % 8 + 32 + 7) / 8))
    ∧ (∀ i, computes places.hart 0 i = true → inScratch (rx 1 places + BitVec.ofNat 64 i * rx 2 places) 4 ∧ (rx 1 places + BitVec.ofNat 64 i * rx 2 places).toNat % 4 = 0)
    ∧ (∀ i, computes places.hart 0 i = true → inScratch (rx 1 places + BitVec.ofNat 64 (elemAt places.hart 2 32 i)) 4
        ∧ (rx 1 places + BitVec.ofNat 64 (elemAt places.hart 2 32 i)).toNat % 4 = 0) :=
  ⟨by decide +kernel, places_below (by unfold inScratch; decide +kernel), places_below (by unfold inScratch; decide +kernel),
    places_below (by unfold inScratch; decide +kernel)⟩

/-- A bit stream of 5-bit elements that begins at bit 7 (X3) of the base. -/
def stream5 : State := xs [(1, 0xFF00000000000040), (3, 7)] (typed 0x16)

/-- VLDB, VSTB. -/
theorem test_meets_VectorMemory_stream : Quiet stream5 ∧ CalmMemory stream5 ∧ stream5.Safe ∧ elemW stream5.hart.vtype = 5
    ∧ ∀ i, computes stream5.hart 0 i = true →
      inScratch (rx 1 stream5 + BitVec.ofNat 64 (((rx 3 stream5).toNat % 8 + i * 5) / 8)) ((((rx 3 stream5).toNat % 8 + i * 5) % 8 + 5 + 7) / 8) :=
  ⟨quiet_of (by decide +kernel), calm_of (by decide +kernel) (by decide +kernel), by unfold State.Safe; decide +kernel, by decide +kernel,
    places_below (by unfold inScratch; decide +kernel)⟩

/-- A frame of VL 3 at SEW 32 at the base, for VFILL; the same place for VSPILL. -/
def frame3 : State := poke (scratchAt places 0xFF00000000000040) [3, 0, 0, 0, 0, 0, 0, 0, 2] places

/-- VFILL and VSPILL. -/
theorem test_meets_VectorMemory_frame : Alone frame3 ∧ CalmMemory frame3 ∧ frame3.Safe ∧ frame3.hart.vstart < frame3.hart.vl ∧ (rx 1 frame3).toNat % 64 = 0
    ∧ peek (scratchAt frame3 (rx 1 frame3)) 8 frame3 = 3 ∧ narrowW (BitVec.ofNat 12 (peek (scratchAt frame3 (rx 1 frame3 + 8)) 8 frame3)) ≤ 16
    ∧ 3 ≤ laneCount frame3.hart.lanes * 2048 / elemW (BitVec.ofNat 12 (peek (scratchAt frame3 (rx 1 frame3 + 8)) 8 frame3))
    ∧ inScratch (rx 1 frame3) (64 + (3 * 32 + 7) / 8) ∧ inScratch (rx 1 frame3) (64 + (frame3.hart.vl * 32 + 7) / 8) :=
  ⟨⟨quiet_of (by decide +kernel), by decide +kernel⟩, calm_of (by decide +kernel) (by decide +kernel), by unfold State.Safe; decide +kernel, by unfold inScratch; decide +kernel⟩

/-- VAMO: the four locations are apart. -/
theorem test_meets_VectorAtomics_apart : ∀ i j, computes places.hart 0 i = true → computes places.hart 0 j = true → i ≠ j →
    rx 1 places + BitVec.ofNat 64 (elemAt places.hart 2 32 i) ≠ rx 1 places + BitVec.ofNat 64 (elemAt places.hart 2 32 j) := by
  intro i j hi hj
  have h : ∀ i < 4, ∀ j < 4, i ≠ j →
      rx 1 places + BitVec.ofNat 64 (elemAt places.hart 2 32 i) ≠ rx 1 places + BitVec.ofNat 64 (elemAt places.hart 2 32 j) := by decide +kernel
  exact h i (lt_of_computes hi) j (lt_of_computes hj)

/-- VWAIT: with V0 zero, EQ is satisfied everywhere and NE nowhere. -/
theorem test_meets_VectorAtomics_wait : places.hart.satisfied = [] ∧ places.hart.vstart < places.hart.vl ∧ places.hart.lend = none
    ∧ (∀ j < 4, (peek (scratchAt places (rx 1 places + BitVec.ofNat 64 (elemAt places.hart 2 32 j))) 4 places == elemAt places.hart 0 32 j) = true)
    ∧ ¬(∀ j < 4, (peek (scratchAt places (rx 1 places + BitVec.ofNat 64 (elemAt places.hart 2 32 j))) 4 places != elemAt places.hart 0 32 j) = true) := by
  decide +kernel

/-! ### Queue, matrix and ciphertext claims -/

/-- A state in which the next instruction runs alone and nothing of the hart is under way, stated so that it can be decided. -/
theorem alone_of {s : State} (h : (s.hart.held = none ∧ s.hart.replies = [] ∧ s.hart.vq = [] ∧ s.defer = 0 ∧ s.hart.binds = [] ∧ s.hart.vbad = []
    ∧ s.hart.mbad = [] ∧ (∀ d : Fin 16, hdrKind s.hart.chdr[d] ≠ 2 ∧ s.hart.crerr[d] = 0) ∧ s.hart.vl ≤ 2 ^ 17
    ∧ s.hart.stopAt = none ∧ s.hart.ahead = false ∧ s.hart.releasedOnce = false
    ∧ s.hart.sbuf = []) ∧ s.hart.lend = none) : Alone s :=
  ⟨quiet_of h.1, h.2⟩

/-- What the vector queue asks of a hart, a queue apart. -/
def Idle (h : Hart) : Prop :=
  h.held = none ∧ h.binds = [] ∧ h.vbad = [] ∧ h.mbad = [] ∧ (∀ d : Fin 16, hdrKind h.chdr[d] ≠ 2 ∧ h.crerr[d] = 0) ∧ h.stopAt = none

/-- PfxAndQueueEvents: a queued VSPLAT, a ready reply to X0 and to X5, a group being scrubbed, a queued SETVL of a hart alone on its core, and a
queued convoy whose fault goes to the handler at U or to S. -/
theorem test_meets_PfxAndQueueEvents :
    let splat := h0 fun h => { h with vq := [entry1 0x40 (.vsplat false 4 1 0) [(1, 9)]] }
    let ready (r : Fin 32) := h0 fun h => { h with replies := [{ dests := [r], vals := some [9] }] }
    let scrub : State := { s0 with core := { s0.core with scrubbing := 0x80 } }
    let grant := h0 fun h => { h with groupWait := true, groups := 0, lanes := 0, replies := [{ dests := [5], vals := none }]
                                      vq := [entry1 h.pc (.setvl 5 1 2) [(1, 100)]] }
    let low := h0 fun h => { h with tdeleg := 0x400, vq := [entry1 0x40 (.vsplat false 4 1 0) [(1, 9)]] }
    let fault : Trap := { cause := 0x0A, tval := 0, vside := true, member := 3, memerr := faultMemerr 0x0A 0 low }
    (delegated low.hart fault = true ∧ delegated splat.hart fault = false ∧ low.hart.vq = entry1 0x40 (.vsplat false 4 1 0) [(1, 9)] :: [])
    ∧ (Idle splat.hart ∧ splat.hart.vl ≤ 2 ^ 17 ∧ splat.hart.vq = [{ pc := 0x40, members := [(none, .vsplat false 4 1 0)], x := [(1, 9)] }])
    ∧ (ready 0).hart.replies = [{ dests := [0], vals := some [9] }] ∧ (ready 5).hart.replies = [{ dests := [5], vals := some [9] }]
    ∧ scrub.core.scrubbing.getLsbD 7 = true
    ∧ (Idle grant.hart ∧ grant.hart.groupWait = true ∧ grant.hart.bound = true ∧ coreOf grant.hart.id = grant.core.id ∧ grant.hart.groups = 0
      ∧ grant.hart.lanes = 0 ∧ livePwords grant.hart = 0
      ∧ (∀ k ∈ grant.harts, k.bound = true → coreOf k.id = grant.core.id → k.groups = 0 ∧ k.groupWait = false)
      ∧ grant.core.scrubbing = 0 ∧ grant.core.lanemap = 0 ∧ grant.hart.replies = [{ dests := [5], vals := none }]
      ∧ grant.hart.vq = [{ pc := grant.hart.pc, members := [(none, .setvl 5 1 2)], x := [(1, 100)] }]) := by
  unfold Idle; decide +kernel

/-- An accepted MODE word: W_A 8, W_B 8, MVL 128, and the mode. -/
def mmode (mode wb : Nat) : Word := BitVec.ofNat 64 (128 + 8 * 2 ^ 8 + wb * 2 ^ 13 + mode * 2 ^ 18)

/-- A word that MMODE accepts (R238). -/
def GoodMode (X : Nat) : Prop :=
  bitsOf X 63 34 = 0 ∧ 1 ≤ bitsOf X 12 8 ∧ bitsOf X 12 8 ≤ 16 ∧ ((1 ≤ bitsOf X 17 13 ∧ bitsOf X 17 13 ≤ 16) ∨ (bitsOf X 17 13 = 31 ∧ bitsOf X 19 18 = 1))
    ∧ bitsOf X 19 18 ≠ 3 ∧ 1 ≤ bitsOf X 7 0 ∧ bitsOf X 7 0 ≤ 128

/-- The hart holds a matrix unit configured by a MODE word, with 7 in the first cell of tile 0. -/
def claimed (mode : Nat) (pos : Nat) : State :=
  let s := xs [(1, 0xFF00000000000040)] s0
  { s with core := { s.core with matrix := { owner := some 0, cfg := BitVec.ofNat 64 ((mmode mode 8).toNat / 256 * 256), mvl := 128
                                             tile0 := { cells := 7, pos := pos } } } }

/-- MatrixClaimAndPorts: a free unit; held units with the word of its mode, of another mode and of block-scaled mode; a queued MMODE. -/
theorem test_meets_MatrixClaimAndPorts :
    let free := xs [(1, mmode 1 31)] s0
    let waits := xs [(1, mmode 0 8)] (h0 fun h => { h with claimWait := true, vq := [entry1 h.pc (.mmode 1) [(1, mmode 0 8)]] })
    (coreOf s0.hart.id = s0.core.id ∧ s0.hart.bound = true ∧ ∀ k ∈ s0.harts, k.bound = true → coreOf k.id = s0.core.id → k.claimWait = false)
    ∧ (Alone free ∧ GoodMode (rx 1 free).toNat ∧ free.core.matrix.owner = none)
    ∧ (Alone (claimed 0 0) ∧ (claimed 0 0).core.matrix.owner = some (claimed 0 0).hart.id ∧ mMode (claimed 0 0).core.matrix = 0
        ∧ mMode (claimed 2 0).core.matrix = 2 ∧ GoodMode (mmode 0 8).toNat ∧ GoodMode (mmode 2 8).toNat ∧ bitsOf (mmode 2 8).toNat 19 18 = 2)
    ∧ (waits.hart.held = none ∧ waits.hart.claimWait = true ∧ waits.core.matrix.owner = none ∧ GoodMode (rx 1 waits).toNat
        ∧ (∀ d : Fin 16, hdrKind waits.hart.chdr[d] ≠ 2 ∧ waits.hart.crerr[d] = 0)
        ∧ waits.hart.vq = [{ pc := waits.hart.pc, members := [(none, .mmode 1)], x := [(1, rx 1 waits)] }]) :=
  ⟨by decide +kernel, ⟨alone_of (by decide +kernel), by unfold GoodMode; decide +kernel, by decide +kernel⟩,
    ⟨alone_of (by decide +kernel), by decide +kernel, by decide +kernel, by decide +kernel, by unfold GoodMode; decide +kernel,
      by unfold GoodMode; decide +kernel, by decide +kernel⟩,
    by decide +kernel, by decide +kernel, by decide +kernel, by unfold GoodMode; decide +kernel, by decide +kernel, by decide +kernel⟩

/-- MatrixProductsAndRows: the three modes, block position 0 and 31; the last vectors that four steps can read, port strips at the base; an aligned area. -/
theorem test_meets_MatrixProductsAndRows :
    (∀ mode < 3, ∀ pos ∈ [0, 31], let s := claimed mode pos
      s.core.matrix.owner = some s.hart.id ∧ s.hart.mstart = 0 ∧ (s.core.matrix.tile 0).bad = [] ∧ s.core.matrix.mvl ≤ 128 ∧ mMode s.core.matrix = mode
        ∧ modulus s.hart (mQsel s.core.matrix) ≤ 2 ^ 32 ∧ (s.core.matrix.tile 0).pos = pos)
    ∧ Alone (claimed 0 0) ∧ Alone (claimed 2 31) ∧ CalmMemory (claimed 0 0) ∧ CalmMemory (claimed 2 31) ∧ (claimed 0 0).Safe
    ∧ (28 : Fin 32).val + (3 : Fin 16).val ≤ 31 ∧ bitsOf s0.hart.vtype.toNat 6 0 = 2
    ∧ (let P : Port := { base := 0xFF00000000000100, counts := [5, 1, 1, 1], strides := [128, 0, 0, 0] }
       ∀ k < 6, inScratch (P.addr (P.pos + k)) (stripBytes 128 8))
    ∧ (rx 1 (claimed 0 0)).toNat % 64 = 0 ∧ inScratch (rx 1 (claimed 0 0)) 0x10040 ∧ inScratch (rx 1 (claimed 2 0)) 0x30040 :=
  ⟨by decide +kernel, alone_of (by decide +kernel), alone_of (by decide +kernel), calm_of (by decide +kernel) (by decide +kernel),
    calm_of (by decide +kernel) (by decide +kernel), by unfold State.Safe; decide +kernel, by decide, by decide +kernel,
    by unfold inScratch; decide +kernel, by decide +kernel, by unfold inScratch; decide +kernel, by unfold inScratch; decide +kernel⟩

/-- A parameter set of two levels with polynomials of one coefficient. -/
def params : ParamSet :=
  { ktag := 5, psid := 6, valid := 1, logn := 3, logp := 2, n := 1, l := 2, beta := 4, ell := 2, betaks := 4, ellks := 2, primes := [17, 97]
    nvFresh := 10, nvBoot := 100, nvKs := 5, nvMax := 0x100000, nvInmax := 0x1000, dms := [2], nvms := [1] }

/-- Key slot 0 bound with that set; C1, C2 and C3 hold ciphertexts of level 2 with noise 100, C4 one of level 1. -/
def sealed : State := h0 fun h => { h with
  keys := h.keys.set 0 { h.keys[0] with bound := true, set := params }
  chdr := (((h.chdr.set 1 (mkHdr 1 2 6 0 5 100 0 4)).set 2 (mkHdr 1 2 6 0 5 100 0 4)).set 3 (mkHdr 1 2 6 0 5 100 0 4)).set 4 (mkHdr 1 1 6 0 5 100 0 2) }

/-- CiphertextArithmetic: a key slot that governs the sources, results within the noise and the grant, both ends of the range of a plain factor. -/
theorem test_meets_CiphertextArithmetic :
    Alone sealed ∧ governing sealed.hart 5 6 = some 0 ∧ governing sealed.hart (hdrKtag sealed.hart.chdr[1]) (hdrPsid sealed.hart.chdr[1]) = some 0
    ∧ (∀ c : Fin 16, 1 ≤ c.val → c.val ≤ 3 → hdrKind sealed.hart.chdr[c] = 1 ∧ hdrKtag sealed.hart.chdr[c] = 5 ∧ hdrPsid sealed.hart.chdr[c] = 6
      ∧ hdrLevel sealed.hart.chdr[c] = 2 ∧ hdrPwords sealed.hart.chdr[c] = (params.n + 1) * 2)
    ∧ sealed.hart.keys[0].set = params ∧ (params.n + 1) * 2 ≤ vlmaxr sealed.hart ∧ livePwords sealed.hart ≤ vlmaxr sealed.hart
    ∧ fitsAll sealed ((params.n + 1) * 2) = true ∧ fitsAll sealed ((params.n + 1) * 1) = true ∧ 100 + 100 ≤ params.nvMax ∧ 5 ^ 2 * 100 ≤ params.nvMax
    ∧ (∀ W ∈ [(-32768 : Int), 32767], (BitVec.ofInt 64 W).toInt = W)
    ∧ (2 ≤ hdrLevel sealed.hart.chdr[1] ∧ hdrLevel sealed.hart.chdr[1] = params.l)
    ∧ keyBad sealed (keyPlaces sealed (dieOfCore sealed.core.id) params.kskLoc 0 (4 * 1 * 2 * 2 * 2)) = false :=
  ⟨alone_of (by decide +kernel), by decide +kernel⟩

/-- The parts of an image: 56 bytes of header, the MAC over them and the payload, and the payload. -/
theorem image_parts (K A P : List Byte) (h : A.length = 56) :
    let I := A ++ imageMac K A P ++ P
    I.take 64 = A ++ imageMac K A P ∧ I.drop 64 = P ∧ (A ++ imageMac K A P).take 56 = A
      ∧ ((A ++ imageMac K A P).drop 56).take 8 = imageMac K A P ∧ imageMac K (A ++ imageMac K A P) P = imageMac K A P := by
  have m : (imageMac K A P).length = 8 := by simp [imageMac, Config.hmacSm3]
  have t : (A ++ imageMac K A P).take 56 = A := by rw [List.take_append_of_le_length (by omega), List.take_of_length_le (by omega)]
  have u : (A ++ imageMac K A P).length = 64 := by simp [h, m]
  refine ⟨?_, ?_, t, ?_, ?_⟩
  · rw [List.take_append_of_le_length (by omega), List.take_of_length_le (by omega)]
  · rw [List.drop_append_of_le_length (by omega), List.drop_of_length_le (by omega), List.nil_append]
  · rw [List.drop_append_of_le_length (by omega), List.drop_of_length_le (by omega), List.nil_append, List.take_of_length_le (by omega)]
  · unfold imageMac at t ⊢
    rw [t, show 0x38 = A.length from h.symm, List.take_length]

/-- Four payload words, each below its prime. -/
def words4 : List Byte := [1, 2, 3, 4].flatMap (leBytes 4)

/-- The first 56 bytes of an image of C1's header, with the context id. -/
def head56 (id : Nat) : List Byte := leBytes 16 sealed.hart.chdr[1].toNat ++ leBytes 8 id ++ leBytes 32 0

/-- The scratchpad's first bytes are an image with its MAC; X1 names it. -/
def imaged (K : List Byte) (id : Nat) (s : State) : State :=
  poke (scratchAt s 0xFF00000000000000) (head56 id ++ imageMac K (head56 id) words4 ++ words4) (xs [(1, 0xFF00000000000000)] s)

/-- World 1 belongs to an open context with a share of the data owner. -/
def world1 : State :=
  let s := sealed.onHart fun h => { h with world := 1 }
  { s with dev := { s.dev with
      worlds := [{ world := 1, ctx := 7, ct := false }]
      ctxs := [{ id := 7, modelOwner := [], dataOwner := [], leaves := [], peers := [], shareM := none, shareD := some [3], state := .opened
                 dest := [], unconfirmed := false }] } }

theorem image_read (K : List Byte) (id : Nat) {s : State} (h : Memory.wf s.mem = true) (n : Nat) (hn : n ≤ 80) :
    Memory.reads (imaged K id s).mem (scratchAt s 0xFF00000000000000) n = (head56 id ++ imageMac K (head56 id) words4 ++ words4).take n := by
  have m : (imageMac K (head56 id) words4).length = 8 := by simp [imageMac, Config.hmacSm3]
  have w : words4.length = 16 := rfl
  have a : (head56 id).length = 56 := by simp [head56]
  have e : (imaged K id s).mem = Memory.writes s.mem (scratchAt s 0xFF00000000000000)
      (head56 id ++ imageMac K (head56 id) words4 ++ words4) := by
    have x : (xs [(1, 0xFF00000000000000)] s).mem = s.mem := by simp [xs, wx, State.onHart]
    simp only [imaged, poke, x]
  rw [e]
  exact Memory.reads_writes _ _ h (by rw [List.length_append, List.length_append, m, w, a]; exact hn)

theorem header1 : BitVec.ofNat 128 (leNat (leBytes 16 sealed.hart.chdr[1].toNat)) = sealed.hart.chdr[1] := by decide +kernel

/-- What an image read from `imaged` is. -/
theorem image_of (K : List Byte) (id : Nat) {s : State} (h : Memory.wf s.mem = true) :
    let bytes := Memory.reads (imaged K id s).mem (scratchAt s 0xFF00000000000000)
    let head := bytes 64
    BitVec.ofNat 128 (fieldAt head 0 16) = sealed.hart.chdr[1] ∧ (bytes 80).drop 64 = words4 ∧ fieldAt head 0x10 8 = fieldAt (head56 id) 0x10 8
      ∧ imageMac K head words4 = (head.drop 0x38).take 8 := by
  intro bytes head
  have a : (head56 id).length = 56 := by simp [head56]
  have hp := image_parts K (head56 id) words4 a
  have eh : head = head56 id ++ imageMac K (head56 id) words4 := (image_read K id h 64 (by decide)).trans hp.1
  refine ⟨?_, ?_, ?_, ?_⟩
  · rw [eh]; simp only [fieldAt, List.drop_zero]; rw [List.take_append_of_le_length (by omega)]
    have : (head56 id).take 16 = leBytes 16 sealed.hart.chdr[1].toNat := by simp [head56]
    rw [this]; exact header1
  · have e : bytes 80 = _ := image_read K id h 80 (by decide)
    rw [e, List.take_of_length_le (by simp [imageMac, Config.hmacSm3, a, words4]), hp.2.1]
  · rw [eh]; simp only [fieldAt]
    rw [List.drop_append_of_le_length (by omega), List.take_append_of_le_length (by simp [a])]
  · rw [eh, hp.2.2.2.1]; exact hp.2.2.2.2

/-- The tests of CLOAD, one by one. -/
theorem imageTests_of {s : State} {head pay : List Byte} {ih : BitVec 128} {k : Fin 4} (e : BitVec.ofNat 128 (fieldAt head 0 16) = ih)
    (g : governing s.hart (hdrKtag ih) (hdrPsid ih) = some k)
    (a : ¬(hdrKind ih ≠ 1 ∨ hdrLevel ih = 0 ∨ (s.hart.keys[k]).set.l < hdrLevel ih ∨ hdrPwords ih ≠ ((s.hart.keys[k]).set.n + 1) * hdrLevel ih))
    (b : ¬(hdrWorld ih ≠ s.hart.world.val ∨ fieldAt head 0x10 8 ≠ (worldCtxId s s.hart.world.val).toNat))
    (c : ¬(keysErased s s.hart.world.val ∨ imageMac (worldCtxKey s s.hart.world.val) head pay ≠ (head.drop 0x38).take 8))
    (d : rangeBad (s.hart.keys[k]).set (payWords pay) = none) : imageTests s head pay = .ok (s.hart.keys[k]).set := by
  unfold imageTests imageTestsBy
  simp only [e, governingSet, g, Option.map_some]
  rw [if_neg a, if_neg b, if_neg c, d]

/-- The tests of CIMPORT, one by one. -/
theorem importTests_of {s : State} {head pay : List Byte} {ih : BitVec 128} {k : Fin 4} {key : List Byte}
    (e : BitVec.ofNat 128 (fieldAt head 0 16) = ih) (g : governing s.hart (hdrKtag ih) (hdrPsid ih) = some k)
    (a : hdrPwords ih = ((s.hart.keys[k]).set.n + 1) * (s.hart.keys[k]).set.l) (b : importKey s s.hart.world.val = some key)
    (c : ¬(keysErased s s.hart.world.val ∨ imageMac key head pay ≠ (head.drop 0x38).take 8))
    (d : rangeBad (s.hart.keys[k]).set (payWords pay) = none) : importTests s head pay = .ok (s.hart.keys[k]).set := by
  unfold importTests
  simp only [e, g]
  rw [if_neg (by simp [a])]
  simp only [b]
  rw [if_neg c, d]

/-- World 1's import key. -/
noncomputable def key1 : List Byte := (importKey world1 1).getD []

/-- CiphertextImagesAndHeaders: an image that passes the tests of CLOAD. -/
theorem test_meets_CiphertextImages_load :
    let s := imaged (worldCtxKey sealed 0) 0 sealed
    let bytes := Memory.reads s.mem (scratchAt s (rx 1 s))
    let head := bytes 64
    let ih := BitVec.ofNat 128 (fieldAt head 0 16)
    ih = sealed.hart.chdr[1] ∧ imageTests s head ((bytes 80).drop 64) = .ok params := by
  intro s bytes head ih
  obtain ⟨p, q, r, t⟩ := image_of (worldCtxKey sealed 0) 0 (s := sealed) rfl
  refine ⟨p, imageTests_of (k := 0) p (by decide +kernel) (by decide +kernel) ?_ ?_ ?_⟩
  · rintro (x | x)
    · exact x (by decide +kernel)
    · exact x (r.trans (by decide +kernel))
  · rintro (x | x)
    · cases x
    · rw [show (bytes 80).drop 64 = words4 from q] at x; exact x t
  · rw [show (bytes 80).drop 64 = words4 from q]; decide +kernel

/-- CiphertextImagesAndHeaders: in world 1, an image that passes the tests of CIMPORT. -/
theorem test_meets_CiphertextImages_import :
    let s := imaged key1 7 world1
    let bytes := Memory.reads s.mem (scratchAt s (rx 1 s))
    let head := bytes 64
    let ih := BitVec.ofNat 128 (fieldAt head 0 16)
    ih = sealed.hart.chdr[1] ∧ importTests s head ((bytes 80).drop 64) = .ok params := by
  intro s bytes head ih
  obtain ⟨p, q, r, t⟩ := image_of key1 7 (s := world1) rfl
  refine ⟨p, importTests_of (k := 0) (key := key1) p (by decide +kernel) (by decide +kernel) rfl ?_ ?_⟩
  · rintro (x | x)
    · revert x; decide +kernel
    · rw [show (bytes 80).drop 64 = words4 from q] at x; exact x t
  · rw [show (bytes 80).drop 64 = words4 from q]; decide +kernel

/-- CiphertextImagesAndHeaders: what else the claim asks of the states. -/
theorem test_meets_CiphertextImagesAndHeaders :
    Alone sealed ∧ CalmMemory sealed ∧ sealed.Safe ∧ hdrPwords sealed.hart.chdr[1] = 4 ∧ inScratch 0xFF00000000000000 (64 + 4 * 4)
    ∧ hdrKind sealed.hart.chdr[1] = 1 ∧ (governing sealed.hart 5 6).isSome = true ∧ (params.n + 1) * 2 = 4 ∧ 4 ≤ vlmaxr sealed.hart
    ∧ livePwords sealed.hart ≤ vlmaxr sealed.hart ∧ fitsAll sealed 4 = true ∧ 100 ≤ params.nvMax ∧ params.nvFresh ≤ params.nvMax
    ∧ Alone ((sealed.onHart fun g => { g with crerr := g.crerr.set 1 3 }).onHart fun g => { g with crerr := g.crerr.set 1 0 }) :=
  ⟨alone_of (by decide +kernel), calm_of (by decide +kernel) (by decide +kernel), by unfold State.Safe; decide +kernel, by decide +kernel,
    by unfold inScratch; decide +kernel, by decide +kernel, by decide +kernel, by decide +kernel, by decide +kernel, by decide +kernel,
    by decide +kernel, by decide +kernel, by decide +kernel, alone_of (by decide +kernel)⟩

/-! ### Key, refresh, stream, copy and barrier claims -/

/-- The 256 bytes of a table entry with the set of `params`. -/
def entryBytes : List Byte :=
  leBytes 2 5 ++ [6, 1] ++ leBytes 2 0 ++ [3, 2] ++ leBytes 2 1 ++ [2, 4, 2, 4, 2, 0] ++ leBytes 4 17 ++ leBytes 4 97 ++ leBytes 8 0
    ++ leBytes 4 10 ++ leBytes 4 100 ++ leBytes 4 5 ++ leBytes 4 0x100000 ++ leBytes 4 0x1000 ++ leBytes 4 2 ++ leBytes 8 0 ++ leBytes 4 1

/-- Handle 255, the last of the key table, with an entry; X1 names it, X2 a place for function values, X3 the least and X4 the greatest modulus. -/
def keyed : State :=
  poke (entryPlace s0 0 255) entryBytes (xs [(1, 255), (2, 0xFF00000000000040), (3, 17), (4, 0x7FFFFFFF)] sealed)

/-- A hart at S in a handler that holds a context. -/
def handler : State := xs [(1, 0xFF00000000000000)] (h0 fun h => { h with priv := .s, held := some {} })

/-- The parts of a frame's bytes. -/
theorem frame_parts (A I M : List Byte) (hA : A.length = 256) (hI : I.length = 0xEE0) (hM : M.length = 32) :
    (((A ++ I ++ M).take 4096).drop 256).take 0xEE0 = I ∧ ((A ++ I ++ M).take 4096).drop 0xFE0 = M := by
  have u : (A ++ I).length = 0xFE0 := by rw [List.length_append, hA, hI]
  have v : (A ++ I ++ M).length = 4096 := by rw [List.length_append, u, hM]
  have w : (A ++ I ++ M).take 4096 = A ++ I ++ M := List.take_of_length_le (by omega)
  have x : (A ++ I ++ M).drop 256 = I ++ M := by
    rw [List.append_assoc, List.drop_append_of_le_length (by omega), List.drop_of_length_le (by omega), List.nil_append]
  have y : (A ++ I ++ M).drop 0xFE0 = M := by
    rw [List.drop_append_of_le_length (by omega), List.drop_of_length_le (by omega), List.nil_append]
  rw [w, x, y, List.take_append_of_le_length (by omega), List.take_of_length_le (by omega)]
  exact ⟨rfl, rfl⟩

/-- A frame with its MAC at the start of the scratchpad, for a hart at S. -/
def framed (A I : List Byte) : State :=
  let s := xs [(1, 0xFF00000000000000)] (h0 fun h => { h with priv := .s })
  poke (scratchAt s 0xFF00000000000000) (A ++ I ++ frameMac s I) s

/-- KeySlotsTablesAndFrames: FRSTR of a frame with its MAC. -/
theorem test_meets_KeySlotsTablesAndFrames_frstr (A I : List Byte) (hA : A.length = 256) (hI : I.length = 0xEE0) :
    let frame := Memory.reads (framed A I).mem (scratchAt (framed A I) (rx 1 (framed A I))) 4096
    frameMac (framed A I) ((frame.drop 256).take 0xEE0) = frame.drop 0xFE0 := by
  intro frame
  have hM : (frameMac (framed A I) I).length = 32 := by simp [frameMac, padTo, Config.hmacSm3]
  have p := frame_parts A I _ hA hI hM
  have l : (A ++ I ++ frameMac (framed A I) I).length = 4096 := by rw [List.length_append, List.length_append, hA, hI, hM]
  have e : frame = (A ++ I ++ frameMac (framed A I) I).take 4096 :=
    Memory.reads_writes (m := State.reset.mem) _ (A ++ I ++ frameMac (framed A I) I) rfl (by omega)
  rw [e, p.1, p.2]

/-- KeySlotsTablesAndFrames: a frame's counts at both ends of their ranges. -/
theorem test_meets_KeySlotsTablesAndFrames_counts :
    (∀ n ∈ [0, 16], fieldAt (List.replicate 0x26 0 ++ leBytes 1 n ++ leBytes 1 (n / 2)) 0x26 1 = n)
    ∧ ∀ n ∈ [0, 16], fieldAt (List.replicate 0x26 0 ++ leBytes 1 n ++ leBytes 1 (n / 2)) 0x27 1 = n / 2 := by decide +kernel

/-- A field of a frame that lies in its first part. -/
theorem test_meets_KeySlotsTablesAndFrames_fields (A B : List Byte) (off : Nat) (h : off + 1 ≤ A.length) :
    fieldAt (A ++ B) off 1 = fieldAt A off 1 := by
  rw [fieldAt, fieldAt, List.drop_append_of_le_length (by omega), List.take_append_of_le_length (by rw [List.length_drop]; omega)]

/-- KeySlotsTablesAndFrames: the greatest handle with a usable entry, both ends of the moduli, a table of function values, and frames. -/
theorem test_meets_KeySlotsTablesAndFrames :
    Alone keyed ∧ CalmMemory keyed ∧ slotPending keyed 0 = false ∧ (rx 1 keyed).toNat < 256
    ∧ (let e := readEntry keyed (dieOfCore keyed.core.id) (rx 1 keyed).toNat; e.valid = 1 ∧ e.part = keyed.hart.part ∧ e.usable = true)
    ∧ keyBad keyed [entryPlace keyed (dieOfCore keyed.core.id) (rx 1 keyed).toNat] = false
    ∧ ((keyed.core.tables[(0 : Fin 4)]).valid = true → (keyed.core.tables[(0 : Fin 4)]).world = keyed.hart.world.val)
    ∧ (∀ r ∈ [3, 4], (rx (Fin.ofNat 32 r) keyed).toNat < 2 ^ 31 ∧ (rx (Fin.ofNat 32 r) keyed).toNat % 2 = 1 ∧ 17 ≤ (rx (Fin.ofNat 32 r) keyed).toNat)
    ∧ ((keyed.hart.keys[(0 : Fin 4)]).bound = true ∧ params.deg * params.l ≤ 8192 ∧ (rx 2 keyed).toNat % 2 = 0 ∧ inScratch (rx 2 keyed) (2 ^ params.logp))
    ∧ (Quiet (handler.onHart fun g => { g with held := none }) ∧ handler.hart.held = some {} ∧ handler.hart.lend = none ∧ handler.hart.priv ≠ .u
      ∧ refreshPending handler = false ∧ CalmMemory handler ∧ handler.Safe ∧ (rx 1 handler).toNat % 64 = 0 ∧ inScratch (rx 1 handler) 4096)
    ∧ ∀ A I, (framed A I).hart = (xs [(1, 0xFF00000000000000)] (h0 fun h => { h with priv := .s })).hart ∧ (framed A I).core = s0.core ∧ (framed A I).dev = s0.dev :=
  ⟨alone_of (by decide +kernel), calm_of (by decide +kernel) (by decide +kernel), by decide +kernel, by decide +kernel, by decide +kernel, by decide +kernel,
    by decide +kernel, by decide +kernel, by unfold inScratch; decide +kernel,
    ⟨quiet_of (by decide +kernel), by decide +kernel, by decide +kernel, by decide +kernel, by decide +kernel,
      calm_of (by decide +kernel) (by decide +kernel), by unfold State.Safe; decide +kernel, by decide +kernel, by unfold inScratch; decide +kernel⟩,
    fun _ _ => ⟨rfl, rfl, rfl⟩⟩

/-- A table register that fits the ciphertexts of `sealed`, and `accs` accumulators of the hart. -/
def refreshing (accs : List Acc) (passes : List CorePass) (halyard : List HalyardPass) : State :=
  { sealed with core := { sealed.core with tables := sealed.core.tables.set 0 { valid := true, ktag := 5, psid := 6, level := 2 }
                                           accs := accs, passes := passes }
                die := { sealed.die with passes := halyard } }

/-- An accumulator of the hart's C3, in pass 0. -/
def acc0 : Acc := { hart := 0, creg := 3, slot := 0, handle := 0, set := params, ktag := 5, psid := 6, world := 0, rot := [1, 2], a := [[], []]
                    b := [[], []], pass := some 0 }

/-- Pass 0 of the core, with elements in its buffer. -/
def pass0 (buffered : List (Nat × List Nat)) (step : Nat) (subscribed : Bool) : CorePass :=
  { id := 0, handle := 0, forming := true, subscribed := subscribed, buffered := buffered, step := step }

/-- The Halyard pass that serves it. -/
def halyard0 (issued : Nat) : HalyardPass :=
  { id := 0, handle := 0, open' := true, set := params, entryBad := false, issued := issued, subscribers := [(0, 0)] }

/-- No hart has an access under way. -/
def CalmHarts (s : State) : Prop := ∀ k ∈ s.hart :: s.harts, k.xfers = [] ∧ k.queries = [] ∧ ∀ j : Fin 4, k.streams[j].state ≠ .running

/-- RefreshesRunTheirPasses: room for a refresh, none and one pending, and a pass before its subscription, before its only element, at its arrival and at its end. -/
theorem test_meets_RefreshesRunTheirPasses :
    let s := refreshing [] [] []
    let T := s.core.tables[(0 : Fin 4)]
    let one := refreshing [acc0] [] []
    let subs := refreshing [acc0] [pass0 [] 0 false] []
    let issue := refreshing [acc0] [pass0 [] 0 true] [halyard0 0]
    let arrive := refreshing [acc0] [pass0 [(0, [7])] 0 true] [halyard0 1]
    let done := refreshing [acc0] [pass0 [] 1 true] [halyard0 1]
    (T.valid = true ∧ T.world = s.hart.world.val ∧ T.ktag = hdrKtag s.hart.chdr[1] ∧ T.psid = hdrPsid s.hart.chdr[1]
      ∧ fitsAll s 4 = true ∧ (params.n + 1) * params.l ≤ vlmaxr s.hart ∧ livePwords s.hart ≤ vlmaxr s.hart ∧ params.nvBoot ≤ params.nvMax
      ∧ params.nvBoot < 2 ^ 32 ∧ hdrNv s.hart.chdr[1] ≤ params.nvInmax ∧ accRoom s params = true ∧ (s.core.accs.filter (·.hart == s.hart.id)).length < 15)
    ∧ (s.core.accs.filter (·.hart == s.hart.id) = [] ∧ one.core.accs.filter (·.hart == one.hart.id) ≠ [] ∧ one.hart.tdeleg = 0)
    ∧ (corePass 0 subs = some (pass0 [] 0 false) ∧ dieOfCore subs.core.id = subs.die.id ∧ subs.die.passes = [] ∧ CalmHarts subs)
    ∧ (issue.die.passes = [halyard0 0] ∧ (halyard0 0).issued < max 1 (halyard0 0).set.n
      ∧ (halyard0 0).entryBad = false ∧ CalmHarts issue
      ∧ keyBad issue (elementPlaces issue issue.die.id params 0) = false ∧ issue.core.passes = [pass0 [] 0 true])
    ∧ (arrive.core.passes = [pass0 [(0, [7])] 0 true] ∧ arrive.core.accs = [acc0] ∧ acc0.pass = some 0 ∧ acc0.bad = false ∧ acc0.set = (halyard0 1).set
      ∧ 0 < acc0.set.n ∧ (halyard0 1).set.valid = 1)
    ∧ (max 1 (halyard0 1).set.n ≤ (pass0 [] 1 true).step ∧ done.core.accs = [acc0] ∧ acc0.hart = done.hart.id ∧ done.hart.binds = []
      ∧ coreOf done.hart.id = done.core.id
      ∧ CalmHarts done ∧ keyBad done (switchPlaces done params) = false) := by
  unfold CalmHarts; decide +kernel

/-- The states of the refresh claims are those of a hart alone. -/
theorem test_meets_RefreshesRunTheirPasses_alone : Alone (refreshing [] [] []) ∧ Alone (refreshing [acc0] [] []) :=
  ⟨alone_of (by decide +kernel), alone_of (by decide +kernel)⟩

/-- A transform block of two coefficients modulo 17, and a product block that accumulates. -/
def scb0 (kind prog : Nat) : Scb :=
  { kind := kind, flags := if kind = 2 then 1 else 0, logn := 1, q := 17, psi := 4, count := 1, prog := prog, src0 := 0xFF00000000000100
    str0 := 8, src1 := 0xFF00000000000200, str1 := 8, dst := 0xFF00000000000300, strd := 8 }

/-- Stream slot 2 in a state; X1 names the place of a block. -/
def streaming (st : SlotState) (kind prog : Nat) : State :=
  xs [(1, 0xFF00000000000040)] (h0 fun h => { h with streams := h.streams.set 2 { state := st, scb := scb0 kind prog } })

/-- A binding of V4 to strips of three words, of which the second lies partly past the count. -/
def bind4 : Binding := { v := 4, base := 0xFF00000000000100, estride := 8, count := 5, strip := 3, sewc := 2, pos := 0, fetched := [[1, 2, 3]] }

/-- StreamsAndStreamRegisters: an accepted block, slots in every state, a transform and a product at work, and a bound register. -/
theorem test_meets_StreamsAndStreamRegisters :
    let opens := poke (scratchAt s0 0xFF00000000000040) (scbBytes (scb0 0 0)) (streaming .empty 0 0)
    let binds := xs [(1, 0xFF00000000000040)] (h0 fun h => { h with binds := [bind4] })
    (scbOk (Memory.reads opens.mem (scratchAt opens (rx 1 opens)) 128) = true ∧ (rx 1 opens).toNat % 64 = 0 ∧ inScratch (rx 1 opens) 128
      ∧ (opens.hart.xfers = [] ∧ opens.hart.queries = [] ∧ ∀ j : Fin 4, opens.hart.streams[j].state ≠ .running))
    ∧ ((streaming .opened 0 0).hart.streams[(2 : Fin 4)].state = .opened ∧ (scb0 0 0).prog < (scb0 0 0).endAt ∧ (scb0 0 1).endAt ≤ (scb0 0 1).prog
      ∧ entriesHeld (streaming .opened 0 0) < 32)
    ∧ ((streaming .running 0 0).hart.streams[(2 : Fin 4)].state = .running ∧ (streaming .running 0 0).hart.xfers = [] ∧ (streaming .running 0 0).hart.queries = []
      ∧ coreOf (streaming .running 0 0).hart.id = (streaming .running 0 0).core.id ∧ passWork (streaming .running 0 0) = false
      ∧ (∀ g ∈ (streaming .running 0 0).harts, g.id ≠ 0 ∧ (coreOf g.id = 0 → ∀ j : Fin 4, g.streams[j].state ≠ .running))
      ∧ (∀ j : Fin 4, j ≠ 2 → (streaming .running 0 0).hart.streams[j].state ≠ .running) ∧ (streaming .done 0 1).hart.streams[(2 : Fin 4)].state = .done)
    ∧ (inScratch 0xFF00000000000100 8 ∧ inScratch 0xFF00000000000300 8 ∧ inScratch 0xFF00000000000204 4)
    ∧ (2 ^ (scb0 1 0).logn * 9 % (scb0 1 0).q = 1 ∧ (scb0 1 0).psi * 13 % (scb0 1 0).q = 1)
    ∧ ((binds.hart.binds.filter (·.v != 4)).length < 4 ∧ binds.hart.binds = [bind4] ∧ bind4.fetched.length < 8 ∧ binds.hart.held = none ∧ (h0 fun h => { h with held := some {} }).hart.held ≠ none
      ∧ ∀ i < bind4.strip, (bind4.count = 0 ∨ 3 + i < bind4.count) →
        inScratch (bind4.base + BitVec.ofNat 64 (3 + i) * bind4.estride) (2 ^ bind4.sewc) ∧ (bind4.base + BitVec.ofNat 64 (3 + i) * bind4.estride).toNat % 2 ^ bind4.sewc = 0) := by
  unfold inScratch; decide +kernel

/-- What the stream claims ask of memory and of the hart. -/
theorem test_meets_StreamsAndStreamRegisters_calm :
    Alone (streaming .opened 0 0) ∧ CalmPlaces (streaming .running 0 0) ∧ (streaming .running 0 0).Safe
    ∧ Alone ((h0 fun h => { h with binds := [bind4] }).onHart fun g => { g with binds := [] }) ∧ CalmMemory (h0 fun h => { h with binds := [bind4] }) :=
  ⟨alone_of (by decide +kernel), by unfold CalmPlaces; decide +kernel, by unfold State.Safe; decide +kernel, alone_of (by decide +kernel),
    calm_of (by decide +kernel) (by decide +kernel)⟩

/-- Registers for a copy: X4 a destination, X5 a signal or barrier address, X6 an amount, X1 a source, X2 a length, X3 a length of two rows. -/
def copying : State :=
  xs [(4, 0xFF00000000000100), (5, 0xFF00000000000400), (6, 1), (1, 0xFF00000000000200), (2, 16), (3, 0x200000010)] s0

/-- A transfer of 16 bytes. -/
def xfer0 (kind : XferKind) (landed : Bool) : Xfer :=
  { id := 0, kind := kind, dst := 0xFF00000000000100, src := 0xFF00000000000200, len := 16, rows := 1, dstStride := 0, srcStride := 0
    side := 0xFF00000000000400, dec := 1, priv := .u, ptbase := 0, world := 0, landed := landed }

/-- CopiesAreAcceptedAndPerformed: acceptance; a transfer before and after its bytes land, apart; a barrier; an engine fault found. -/
theorem test_meets_CopiesAreAcceptedAndPerformed :
    let going := fun kind landed => h0 fun h => { h with xfers := [xfer0 kind landed] }
    let fault := h0 fun h => { h with engFaults := [(0, { cause := 0x05, tval := 0x40 })] }
    (entriesHeld copying < 32 ∧ (rx 2 copying).toNat < 2 ^ 44
      ∧ (rx 3 copying).toNat % 2 ^ 32 * ((rx 3 copying).toNat / 2 ^ 32) < 2 ^ 44 ∧ (rx (4 + 1) copying).toNat % 8 = 0 ∧ (rx (4 + 1) copying).toNat % 64 = 0)
    ∧ ((∀ k : Fin 4, (going .cpy false).hart.streams[k].state ≠ .running) ∧ (going .cpy false).hart.queries = [] ∧ (going .puts true).hart.xfers = [xfer0 .puts true]
      ∧ (∀ i < 16, inScratch (xferSrc (xfer0 .cpy false) i) 1 ∧ inScratch (xferDst (xfer0 .cpy false) i) 1)
      ∧ (∀ i < 16, ∀ j < 16, xferDst (xfer0 .cpy false) i ≠ xferSrc (xfer0 .cpy false) j ∧ (i ≠ j → xferDst (xfer0 .cpy false) i ≠ xferDst (xfer0 .cpy false) j)))
    ∧ ((xfer0 .puts true).side.toNat % 64 = 0 ∧ inScratch (xfer0 .puts true).side 64
      ∧ BarrierIs (going .cpyb true) (scratchAt (going .cpyb true) 0xFF00000000000400) 0 0 0 0)
    ∧ (fault.hart.engFaults = [(0, { cause := 0x05, tval := 0x40 })] ∧ fault.hart.bound = true ∧ fault.hart.held = none ∧ fault.hart.engBusy = false) := by
  unfold BarrierIs inScratch; decide +kernel

/-- What the copy claims ask of memory and of the hart. -/
theorem test_meets_CopiesAreAcceptedAndPerformed_calm :
    Alone copying ∧ CalmPlaces (h0 fun h => { h with xfers := [xfer0 .cpyb true] }) ∧ (h0 fun h => { h with xfers := [xfer0 .cpyb true] }).Safe :=
  ⟨alone_of (by decide +kernel), by unfold CalmPlaces; decide +kernel, by unfold State.Safe; decide +kernel⟩

/-- A barrier at 0x40 of the scratchpad with EXPECT 2, PEND 1, BYTES 0 and PHASE 5; X1 names it at scope 6, X2 is its phase, X3 another. -/
def barrier0 : State :=
  poke (scratchAt s0 0xFF00000000000040) (leBytes 4 2 ++ leBytes 4 1 ++ leBytes 4 0 ++ leBytes 4 5) (xs [(1, 0xFF00000000000046), (2, 5), (3, 4)] s0)

/-- BarriersCountAndComplete: an arrival that completes the barrier, the greatest scope, its phase and another. -/
theorem test_meets_BarriersCountAndComplete :
    Alone barrier0 ∧ CalmMemory barrier0 ∧ barrier0.Safe ∧ inScratch (rx 1 barrier0 &&& ~~~63#64) 64
    ∧ BarrierIs barrier0 (scratchAt barrier0 (rx 1 barrier0 &&& ~~~63#64)) 2 1 0 5 ∧ (rx 1 barrier0).toNat % 64 < 7
    ∧ (rx 2 barrier0).toNat % 2 ^ 32 = 5 ∧ (rx 3 barrier0).toNat % 2 ^ 32 ≠ 5 ∧ barrier0.hart.tdeleg = 0 :=
  ⟨alone_of (by decide +kernel), calm_of (by decide +kernel) (by decide +kernel), by unfold State.Safe; decide +kernel,
    by unfold inScratch; decide +kernel, by unfold BarrierIs; decide +kernel, by decide +kernel⟩

/-! ### Work, Echo, scheduler and memory event claims -/

/-- A launch record of two harts at 0x4000 for queue 15. -/
def record0 : List Byte := leBytes 8 0x4000 ++ leBytes 8 0x123 ++ leBytes 8 0 ++ leBytes 2 2 ++ [0, 0, 15] ++ leBytes 3 0 ++ leBytes 8 0 ++ leBytes 24 0

/-- Queue 15 of partition 0, enabled, with a ring of four slots at 0x100000 and the counts given; core 0 is the partition's. -/
def queued (posted taken : Nat) (s : State) : State :=
  poke (queueKey s 0 15 0) (leBytes 8 0x100000 ++ [2] ++ leBytes 7 0 ++ leBytes 8 posted ++ leBytes 8 taken)
    (poke (partKey s 0 0x10) [1] (poke (partKey s 0 0) [1] s))

/-- X1 names queue 15 or pool 15 with a task, X2 the record at 0x40 of the scratchpad. -/
def pushing (n : Nat) (bs : List Byte) : State :=
  poke (scratchAt s0 0xFF00000000000040) bs (queued 7 3 (xs [(1, BitVec.ofNat 64 n), (2, 0xFF00000000000040)] s0))

/-- A task record of kind 1 with one tile. -/
def task0 : List Byte := leBytes 2 1 ++ leBytes 6 0 ++ leBytes 4 1 ++ leBytes 4 1 ++ leBytes 2 128 ++ leBytes 2 4096 ++ leBytes 44 0

/-- WorkAndGrottoAreHandedOut: WPUSH of a task and of a launch record, WQRY, and an answer for a pool with a record and a query. -/
theorem test_meets_WorkAndGrotto_push :
    let task := pushing 31 task0
    let launch := pushing 15 record0
    let pool : Pool := { part := 0, num := 15, records := [task0], nextGrant := 0, queries := [{ key := 0x200, hart := 0, order := 0 }] }
    let asked : State := { s0 with dev := { s0.dev with pools := [pool] } }
    (taskBad (Memory.reads task.mem (scratchAt task (rx 2 task)) 64) = false ∧ (rx 1 task).toNat / 16 = 1 ∧ (rx 2 task).toNat % 64 = 0
      ∧ inScratch (rx 2 task) 64)
    ∧ (recordReason launch 15 (Memory.reads launch.mem (scratchAt launch (rx 2 launch)) 64) = none ∧ (rx 1 launch).toNat = 15 ∧ launch.hart.part < 96
      ∧ logszOk (peek (queueKey launch 0 15 8) 1 launch) = true
      ∧ (let slot := peek (queueKey launch 0 15 0) 8 launch + 64 * (peek (queueKey launch 0 15 0x10) 8 launch % 2 ^ peek (queueKey launch 0 15 8) 1 launch)
         ringTrap launch slot (rx 2 launch) = none ∧ windowCore launch slot = none ∧ ∀ i < 64, ¬inPartBlock launch (slot + i)))
    ∧ (poolAt asked 0 15 = pool ∧ answerReady { key := 0x200, hart := 0, order := 0 } asked = true ∧ (poolAt task 0 15).queries = []
      ∧ (∀ k ∈ [0, 2], fieldAt (leBytes 2 k ++ task0.drop 2) 0 2 = k) ∧ pool.records = [task0] ∧ pool.queries = [{ key := 0x200, hart := 0, order := 0 }]
      ∧ ({ key := 0x200, hart := 0, order := 0, answer := some (leBytes 16 5) } : Query).answer = some (leBytes 16 5) ∧ (leBytes 16 5).length = 16) := by
  unfold inScratch inPartBlock; decide +kernel

/-- What the claims on work ask of the hart. -/
theorem test_meets_WorkAndGrotto_alone : Alone (pushing 31 task0) ∧ CalmMemory (pushing 31 task0) ∧ (pushing 15 record0).Safe ∧ Alone (pushing 15 record0)
    ∧ CalmMemory (pushing 15 record0) :=
  ⟨alone_of (by decide +kernel), calm_of (by decide +kernel) (by decide +kernel), by unfold State.Safe; decide +kernel, alone_of (by decide +kernel),
    calm_of (by decide +kernel) (by decide +kernel)⟩

/-- Three free units to a partition with quota 4 that is charged for one; X1 asks for 3 of them, X2 places no request on a plane, X3 names one. -/
def granting : State :=
  let s := poke (partKey s0 0 0x40) (leBytes 4 4) (xs [(1, 0x20001), (2, 0), (3, 0x00F0000000000000), (4, 1)] s0)
  { s with dev := { s.dev with units := [{ pod := 0, num := 0, part := some 0, shadow := none, isShadow := false, openat := false, lost := false }] } }

/-- WorkAndGrottoAreHandedOut: FARM at both ends of the strip length, FSTRIP of a farm, GALLOC up to the quota, GALLOC of one mirrored unit, GFREE of a unit, and WDONE. -/
theorem test_meets_WorkAndGrotto_hand :
    let farm : Farm := { num := 15, part := 0, launch := 0, trip := 10, strip := 4, next := 8 }
    let strips : State := { xs [(1, 15)] s0 with die := { s0.die with farms := [farm] } }
    freeFarm s0 s0.hart.part = some 0
    ∧ ((rx 1 strips).toNat < 64 ∧ (rx 1 strips).toNat / 16 = strips.die.id ∧ strips.die.farms = [farm] ∧ farm.part = strips.hart.part
      ∧ farm.num = (rx 1 strips).toNat % 16)
    ∧ ((rx 2 granting).toNat % 4 < granting.dev.pods ∧ ((rx 1 granting).toNat + 65535) / 65536 = 3
      ∧ chargedUnits granting granting.hart.part 0 + 3 ≤ quotaOf granting granting.hart.part 0 ∧ freeRun granting 0 3 0 = some 1
      ∧ chargedUnits granting granting.hart.part 0 + 2 * 1 ≤ quotaOf granting granting.hart.part 0 ∧ freeRun granting 0 1 0 = some 1
      ∧ 1 ≤ (shadowUnits granting 0 1 1).length ∧ openGranted granting 0 = true ∧ (768 : Nat).testBit 8 = true ∧ (768 : Nat).testBit 9 = true)
    ∧ ((rx 3 granting).toNat % 65536 = 0 ∧ inAperture (rx 3 granting).toNat = true ∧ ((rx 4 granting).toNat + 65535) / 65536 = 1
      ∧ inAperture ((rx 3 granting).toNat + 65536 - 1) = true)
    ∧ (∀ x ∈ s0.core.accs, x.hart ≠ s0.hart.id) := by decide +kernel

/-- Region 7 bound at the pc of `s0`, whose declaration has one input V1 and one output V2, in a state and with a count. -/
def echoing (st : Fin 4) (count : Nat) (openAt : Option EchoOpen) : State :=
  let s := poke (scratchAt s0 0xFF00000000001004) (leBytes 4 9 ++ leBytes 4 9) (h0 fun h => { h with apxctl := 0x80, apxrate := 4, echo := openAt })
  { s with core := { s.core with echo := s.core.echo.set 7 { state := st, bound := some 0xFF00000000001000, k := 1, j := 1, count := count } } }

/-- What a declaration read at the pc shows. -/
theorem readDecl_of {p : Word} {s : State} {w0 w1 : Nat}
    (h : (match readDecl p s with | .ok (a, b, t) => decide (a = w0) && decide (b = w1) && decide (t = s) | .error _ => false) = true) :
    readDecl p s = .ok (w0, w1, s) := by
  split at h
  · rename_i e
    rw [Bool.and_eq_true, Bool.and_eq_true, decide_eq_true_eq, decide_eq_true_eq, decide_eq_true_eq] at h
    rw [e, h.1.1, h.1.2, h.2]
  · cases h

/-- An open invocation with one sample of one input. -/
def open0 : EchoOpen := { region := 7, addr := 0xFF00000000001000, len := 3, outs := [2], vl := 4, inputs := [[1]], measure := false }

/-- EchoInvocationsResolve: a region that does not act, one in OBSERVE and one in ACTIVE whose count is no multiple of the rate, and an open invocation. -/
theorem test_meets_EchoInvocationsResolve :
    ¬(s0.hart.apxctl.getLsbD 7 = true ∧ s0.hart.ct = false)
    ∧ (∀ st : Fin 4, st = 1 ∨ st = 3 → (fun s : State =>
      (s.hart.apxctl.getLsbD 7 = true ∧ s.hart.ct = false) ∧ s.hart.surrogate = none ∧ (s.core.echo[(7 : Fin 8)]).bound = some s.hart.pc
        ∧ (s.core.echo[(7 : Fin 8)]).bad = false ∧ (s.core.echo[(7 : Fin 8)]).k = 1 ∧ (s.core.echo[(7 : Fin 8)]).j = 1
        ∧ (s.core.echo[(7 : Fin 8)]).state = st ∧ (s.core.echo[(7 : Fin 8)]).count % max 1 s.hart.apxrate.toNat ≠ 0 ∧ bitsOf s.hart.vtype.toNat 6 0 = 2)
        (echoing st 3 none))
    ∧ declOf 9 9 = some { ins := [1], outs := [2] } ∧ [(2 : Fin 32)].Nodup
    ∧ (let s := echoing 1 3 (some open0)
       s.hart.echo = some open0 ∧ open0.region = 7 ∧ open0.measure = false ∧ (s.core.echo[(7 : Fin 8)]).bound = some open0.addr
       ∧ open0.inputs.zip ((sampleElems open0.vl).map (valuesAt s.hart open0.outs)) ≠ []
       ∧ (s.core.echo[(7 : Fin 8)]).samples.length + (open0.inputs.zip ((sampleElems open0.vl).map (valuesAt s.hart open0.outs))).length < 64) := by
  decide +kernel

/-- EchoInvocationsResolve: the declaration is read, and the hart is alone. -/
theorem test_meets_EchoInvocationsResolve_alone :
    Alone (echoing 1 3 none) ∧ Alone (echoing 3 3 none) ∧ Alone (echoing 1 3 (some open0))
    ∧ readDecl (echoing 1 3 none).hart.pc (echoing 1 3 none) = .ok (9, 9, echoing 1 3 none)
    ∧ readDecl (echoing 3 3 none).hart.pc (echoing 3 3 none) = .ok (9, 9, echoing 3 3 none) :=
  ⟨alone_of (by decide +kernel), alone_of (by decide +kernel), alone_of (by decide +kernel), readDecl_of (by decide +kernel),
    readDecl_of (by decide +kernel)⟩

/-- A head of queue 15 with the record's launch, ready or not. -/
def head0 (ready : Bool) (dep : Nat) : Head :=
  { part := 0, queue := 15, launch := 9, record := { launchOf record0 with depaddr := dep }, ready := ready, order := 0, nextIndex := 1 }

/-- A record in the ring slot that is taken next. -/
def taking (bs : List Byte) : State := poke (0x100000 + 64 * 3) bs (queued 7 3 s0)

/-- SchedulerTakesBindsAndRetires: the hypotheses of every clause but one. -/
theorem test_meets_SchedulerTakesBindsAndRetires :
    let s := taking record0
    let bad := taking (leBytes 64 0)
    let waits : State := { queued 7 3 s0 with dev := { s0.dev with heads := [head0 false 0x200000] } }
    let binds : State := { queued 7 3 { State.reset with hart := Hart.fresh 0 } with dev := { s0.dev with heads := [head0 true 0] } }
    let live : LiveLaunch := { id := 9, part := 0, queue := 15, harts := 2, retired := 1, doneaddr := 0 }
    let retires : State :=
      { (h0 fun h => { h with retiring := true, launch := { h.launch with id := 9 } }) with dev := { s0.dev with launches := [live], admittedHosts := [1024] } }
    (s.dev.bad = [] ∧ s.dev.linksDown = [] ∧ s.dev.silentEndpoints = [] ∧ s.dev.devid < 1024 ∧ Memory.wf s.mem = true)
    ∧ (windowAdmits s 1023 = true ∧ logszOk (peek (queueKey s 0 15 8) 1 s) = true ∧ record0.length = 64 ∧ (readRecord s (0x100000 + 64 * (7 % 2 ^ 2))).isSome = true
      ∧ windowCore s (0x100000 + 64 * (7 % 2 ^ 2)) = none ∧ ∀ i < 64, ¬inPartBlock s (0x100000 + 64 * (7 % 2 ^ 2) + i))
    ∧ (partEnabled s 0 = true ∧ headOf s 0 15 = none ∧ readRecord s (0x100000 + 64 * (3 % 2 ^ 2)) = some record0 ∧ recordReason s 15 record0 = none
      ∧ lacksShare s (launchOf record0).world = false ∧ (launchOf record0).depaddr = 0)
    ∧ (readRecord bad (0x100000 + 64 * (3 % 2 ^ 2)) = some (leBytes 64 0) ∧ recordReason bad 15 (leBytes 64 0) = some 1
      ∧ (launchOf (leBytes 64 0)).doneaddr = 0)
    ∧ (headOf waits 0 15 = some (head0 false 0x200000) ∧ (readCounter waits 0 0x200000).1 = .value 0)
    ∧ (waits.dev.heads = [head0 false 0x200000] ∧ (head0 false 0x200000).nextIndex < (head0 false 0x200000).record.harts
      ∧ (partCores waits 0).contains waits.core.id = true ∧ waits.core.shadow0 = none ∧ waits.core.shadow1 = none)
    ∧ (binds.dev.heads = [head0 true 0] ∧ worldOk binds (head0 true 0).record.world = true ∧ partCores binds 0 = [coreOf binds.hart.id]
      ∧ freeSlot binds (coreOf binds.hart.id) = some binds.hart.id)
    ∧ (∀ g ∈ ([{ part := 0, next := 0 }] : List Governor), g.part = 0 → g.next ≤ s.dev.time.toNat)
    ∧ (retires.hart.bound = true ∧ retires.hart.retiring = true ∧ retires.hart.part = 0 ∧ retires.dev.launches = [live] ∧ live.id = retires.hart.launch.id
      ∧ retires.dev.admittedHosts.contains 1024 = true ∧ retires.dev.admittedHosts.contains 1025 = false) := by
  unfold inPartBlock; decide +kernel

/-- What a counter's place shows. -/
theorem target_of {p ga : Nat} {s : State} {g : Target × State} (h : (match counterTarget s p .atomic ga with | .ok x => decide (x = g) | .error _ => false) = true) :
    counterTarget s p .atomic ga = .ok g := by
  split at h
  · rename_i e; rw [e, of_decide_eq_true h]
  · cases h

/-- SchedulerTakesBindsAndRetires: a completion that is sent again, to a counter of the partition. -/
theorem test_meets_SchedulerTakesBindsAndRetires_resend :
    let s : State := { queued 7 3 s0 with dev := { s0.dev with resend := [(0x200000, 0, 15)] } }
    let g : Target := { rd := 0x200000, wr := [0x200000], attr := 0 }
    s.dev.resend = [(0x200000, 0, 15)] ∧ counterTarget s 0 .atomic 0x200000 = .ok (g, s) ∧ g.wr = [0x200000] ∧ g.e2e = [] ∧ inKeyStore 0x200000 = false
    ∧ ∀ i < 8, ¬inPartBlock s (0x200000 + i) :=
  ⟨rfl, target_of (by decide +kernel), rfl, rfl, by decide +kernel, by unfold inPartBlock; decide +kernel⟩

/-- A unit of pod 0 with its mirror, on a lost plane. -/
def pooled : State :=
  { s0 with dev := { s0.dev with lostPlanes := [(0, 0)], resyncPlanes := [(0, 32)]
                                 units := [{ pod := 0, num := 0, part := some 0, shadow := some 64, isShadow := false, openat := false, lost := false },
                                           { pod := 0, num := 64, part := some 0, shadow := none, isShadow := true, openat := false, lost := false }] } }

/-- A page at 0x4000 that S may read and write, behind tables at 0x10000. -/
def migrating : State := poke 0x14020 (leBytes 8 (0x0F + 0x15 * 2 ^ 16)) (mapCode 0x4000 (h0 fun h => { h with priv := .s }))

/-- What a walk finds. -/
theorem walk_of {s : State} {va : Word} {n : Nat} {ls : List Nat} {a : Nat} {l : Leaf}
    (h : (match walk s va n ls a with | .ok x => decide (x = l) | .error _ => false) = true) : walk s va n ls a = .ok l := by
  split at h
  · rename_i e; rw [e, of_decide_eq_true h]
  · cases h

/-- MemoryAndGrottoEventsAct: a link that is up, accesses that wait, planes that stand, are lost and come back, a freed unit, and an access of another endpoint that ends at the capacity. -/
theorem test_meets_MemoryAndGrottoEventsAct :
    let sent : MemWait := { who := .scalar, trap := { cause := 0x11, tval := 0 }, limit := 0, load := false, late := some (0, .store [1]) }
    let locked : MemWait := { who := .vector, trap := { cause := 0x12, tval := 0 }, limit := 0, load := true }
    let waits := fun w => h0 fun h => { h with waits := [w] }
    let unit5 : State := { s0 with dev := { s0.dev with units := [{ pod := 0, num := 5, part := some 1, shadow := none, isShadow := false, openat := true, lost := false }] } }
    let freed : State := { s0 with dev := { s0.dev with units := [{ pod := 0, num := 5, part := none, shadow := none, isShadow := false, openat := false, lost := false }] } }
    (23 ∉ s0.dev.linksDown ∧ Memory.wf s0.mem = true)
    ∧ ((waits sent).hart.waits = [sent] ∧ (waits locked).hart.waits = [locked] ∧ (waits { locked with redirect := true }).hart.waits = [{ locked with redirect := true }]
      ∧ sent.limit ≤ s0.dev.time.toNat ∧ sent.expired = false ∧ locked.expired = false)
    ∧ ((1 : Nat) < 1024 ∧ 1 ≠ unit5.dev.devid ∧ 0 < unit5.dev.pods ∧ unit5.dev.units.all (fun u => u.num == 5 && u.openat && !u.lost && u.part == some 1 && u.shadow.isNone)
      ∧ (0, planeOf (5 * 65536)) ∉ unit5.dev.lostPlanes)
    ∧ ((0, 63) ∉ pooled.dev.lostPlanes ∧ (0, 0) ∈ pooled.dev.lostPlanes ∧ (0, 32) ∈ pooled.dev.resyncPlanes ∧ podOf pooled.dev.devid = some 0
      ∧ (∃ u ∈ pooled.dev.units, u.pod = 0 ∧ u.part ≠ none) ∧ (∀ u ∈ pooled.dev.units, u.num < 2 ^ 25 ∧ ∀ sh ∈ u.shadow.toList, sh < 2 ^ 25))
    ∧ (∃ u ∈ freed.dev.units, u.pod = 0 ∧ u.num = 5 ∧ u.part = none)
    ∧ (s0.dev.capacity - 1 + [(7 : Byte)].length ≤ s0.dev.capacity ∧ s0.dev.capacity + [(7 : Byte)].length ≤ 0xD0000000000 ∧ 1 ≠ s0.dev.devid ∧ s0.dev.devid < 1024
      ∧ s0.dev.bad = [] ∧ s0.dev.linksDown = [] ∧ (s0.dev.capacity - s0.dev.shroudArea - 8) % 8 = 0
      ∧ s0.dev.capacity - s0.dev.shroudArea - 8 + 8 ≤ s0.dev.capacity - s0.dev.shroudArea ∧ s0.dev.shroudArea + 8 ≤ s0.dev.capacity) := by
  decide +kernel

/-- MemoryAndGrottoEventsAct: a freed unit with nothing put off, which is zeroed, and one that a store put off is still to touch, which waits. -/
theorem test_meets_MemoryAndGrottoEventsAct_unit :
    let x : SAccess := { req := reqOf s0 .store .scalar .neither, target := { rd := gaOf 3840 (5 * 65536), wr := [gaOf 3840 (5 * 65536)], attr := 0 }, va := 0, act := .store [1] }
    let key := gaOf (3840 + 0) (5 * 65536)
    (∃ k ∈ x.target.rd :: x.target.wr, key ≤ k ∧ k < key + 65536) ∧ x ∈ (h0 fun h => { h with sbuf := [x] }).hart.sbuf
    ∧ (s0.hart :: s0.harts).all (fun g => g.sbuf.isEmpty) = true := by
  decide +kernel

/-- MemoryAndGrottoEventsAct: a page to be moved; its first byte is copied to installed memory and refused past it. -/
theorem test_meets_MemoryAndGrottoEventsAct_page :
    let l : Leaf := { pte := 0x15000F, size := 4096, first := 0x14020 }
    walk migrating 0x4000 5 [5, 4, 3, 2, 1] (bitsOf migrating.hart.ptbase.toNat 59 16 * 4096) = .ok l ∧ bitsOf l.pte 11 8 = 0 ∧ bitAt l.pte 12 = false
    ∧ Memory.wf migrating.mem = true ∧ (0x30000 : Nat) % 4096 = 0 ∧ (runPage 0x4000 0x30000 4 1 none migrating).1 = some none
    ∧ (runPage 0x4000 0xC0000000000 4 4096 none migrating).1.any (·.isSome) = true :=
  ⟨walk_of (by decide +kernel), by decide +kernel⟩


/-- What an access resolves to. -/
theorem resolves_of {r : Req} {va : Word} {s : State} {p : Target → Bool} (h : (match resolve r va s with | .ok (x, _) => p x | .error _ => false) = true) :
    ∃ x u, resolve r va s = .ok (x, u) ∧ p x = true := by
  split at h
  · rename_i e; exact ⟨_, _, e, h⟩
  · cases h

/-- A page at 0x4000 of main memory of endpoint 1. -/
def farPage : State := poke 0x14020 (leBytes 8 (0x0F + (2 ^ 44 + 0x15000) / 4096 * 2 ^ 16)) migrating

/-- MemoryAndGrottoEventsAct: a store and an AMO that timed out, by an address that still leads to another endpoint. -/
theorem test_meets_MemoryAndGrottoEventsAct_late :
    (∃ x u, resolve (reqOf farPage .store .scalar .neither) 0x4000 farPage = .ok (x, u)
      ∧ (decide (x.e2e = []) && x.wr == [2 ^ 44 + 0x15000] && epOf (2 ^ 44 + 0x15000) != farPage.dev.devid) = true)
    ∧ ∃ x u, resolve (reqOf farPage .atomic .scalar .neither) 0x4000 farPage = .ok (x, u)
      ∧ (decide (x.e2e = []) && x.wr == [2 ^ 44 + 0x15000] && x.rd == 2 ^ 44 + 0x15000 && !inKeyStore (2 ^ 44 + 0x15000)) = true :=
  ⟨resolves_of (by decide +kernel), resolves_of (by decide +kernel)⟩

/-- R122, R166, R266: a signal of another endpoint takes its decrement off, and a CAS whose compare fails changes nothing. -/
theorem test_remote_signal_and_cas :
    (match exec (.remoteEndpointAccess (7, 0) 3 0x1000 (leBytes 8 (2 ^ 64 - 3))) s0 with | .next t => peek 0x1000 8 t == 3 | _ => false) = true
    ∧ (match exec (.remoteEndpointAccess (7, 0) 13 0x1000 (leBytes 4 5 ++ leBytes 4 9)) s0 with | .next t => peek 0x1000 4 t == 0 | _ => false) = true := by
  decide +kernel
/-! ### Fabric, clock, trust and step claims -/

/-- Port 63 as given, at SEQ 5 with slot 0 live. -/
def ported (up requested rekey : Bool) (retries : Nat) : State :=
  let d : LinkDir := { seq := 5, retries := retries, retrySeq := 5, requested := requested }
  { s0 with dev := { s0.dev with ports := s0.dev.ports.set 63 { up := up, send := d, recv := d, rekey := rekey } } }

/-- A flit of 240 bytes before its tag, of a TYPE, with a KEY bit and a SEQ. -/
def flit240 (type key seq : Nat) : List Byte := leBytes 1 type ++ leBytes 1 key ++ leBytes 6 0 ++ leBytes 8 seq ++ leBytes 224 0

/-- A flit whose tag verifies under a link slot. -/
noncomputable def flitOf (k : LinkSlot) (type seq : Nat) : List Byte :=
  let b := flit240 type 0 seq
  b ++ Config.flitTag k.key (leBytes 4 k.salt ++ leBytes 8 k.counter) (b.take 16) ((b.drop 16).take 224)

/-- FabricPortsAndKeys: a flit in sequence whose tag verifies, a data flit and a marker. -/
theorem test_meets_FabricPortsAndKeys_flit (k : LinkSlot) (type : Nat) :
    let f := flitOf k type 5
    f.length = 256 ∧ fieldAt f 1 1 % 2 = 0 ∧ fieldAt f 8 8 = 5 ∧ fieldAt f 0 1 = type % 256
    ∧ Config.flitTag k.key (leBytes 4 k.salt ++ leBytes 8 k.counter) (f.take 16) ((f.drop 16).take 224) = f.drop 240 := by
  intro f
  have b : (flit240 type 0 5).length = 240 := by simp [flit240]
  have take : ∀ off n, off + n ≤ 240 → (f.drop off).take n = ((flit240 type 0 5).drop off).take n := by
    intro off n h
    show List.take n (List.drop off (flit240 type 0 5 ++ _)) = _
    rw [List.drop_append_of_le_length (by omega), List.take_append_of_le_length (by rw [List.length_drop]; omega)]
  refine ⟨?_, ?_, ?_, ?_, ?_⟩
  · show (flit240 type 0 5 ++ _).length = 256
    rw [List.length_append, b]; simp [Config.flitTag]
  · have e : ((flit240 type 0 5).drop 1).take 1 = leBytes 1 0 := rfl
    rw [fieldAt, take 1 1 (by omega), e]; rfl
  · have e : ((flit240 type 0 5).drop 8).take 8 = leBytes 8 5 := rfl
    rw [fieldAt, take 8 8 (by omega), e]; rfl
  · have e : ((flit240 type 0 5).drop 0).take 1 = leBytes 1 type := rfl
    rw [fieldAt, take 0 1 (by omega), e]
    exact (leNat_leBytes _ _).trans (by simp)
  · have h := take 0 16 (by omega)
    rw [List.drop_zero, List.drop_zero] at h
    rw [h, take 16 224 (by omega)]
    show _ = List.drop 240 (flit240 type 0 5 ++ _)
    have z : (flit240 type 0 5).drop 240 = [] := List.drop_of_length_le (by omega)
    rw [List.drop_append_of_le_length (by omega), z, List.nil_append]

/-- FabricPortsAndKeys: flits already accepted and not good, both counts of retries, the states of the port, and counters on both sides of both limits. -/
theorem test_meets_FabricPortsAndKeys :
    let x := fun up requested rekey retries => (ported up requested rekey retries).dev.ports[(63 : Fin 64)]
    let counts : Nat → FabricPort := fun n => { send := { slot0 := { valid := true, counter := n } } }
    (∀ n ∈ [0xFFFFFFF00000, 0xFFFFFFFEFFFF], 0xFFFFFFF00000 ≤ (counts n).send.slot0.counter ∧ (counts n).send.requested = false
      ∧ (counts n).send.slot1.valid = false ∧ (counts n).send.live = 0 ∧ (counts n).up = true ∧ (counts n).send.slot0.counter < 0xFFFFFFFF0000)
    ∧ ¬0xFFFFFFF00000 ≤ (counts 0xFFFFFFEFFFFF).send.slot0.counter ∧ 0xFFFFFFFF0000 ≤ (counts 0xFFFFFFFF0000).send.slot0.counter ∧
    ((x true false false 7).up = true ∧ (x true false false 7).recv.seq = 5 ∧ (x true false false 7).recv.slot0.valid = true
      ∧ (x true false false 7).recv.live = 0 ∧ (x true false false 7).recv.fails.length < 15 ∧ (x true false false 8).recv.retries = 8
      ∧ (x true false false 7).recv.retries < 8 ∧ (x true false false 7).send.retrySeq = 5)
    ∧ fieldAt (flit240 0 0 4) 8 8 < 5 ∧ fieldAt (flit240 0 1 5) 8 8 = 5 ∧ fieldAt (flit240 0 1 5) 1 1 % 2 ≠ (0 : Fin 2).val
    ∧ (x false false true 0).rekey = true ∧ ((x false false false 0).up = false ∧ (x false false false 0).rekey = false)
    ∧ ((x true false false 7).send.seq < 2 ^ 64 ∧ (x true false false 7).queue = [] ∧ (x true false false 7).credits[(3 : Fin 4)] = 0)
    ∧ (x true true false 0).send.requested = true ∧ (1 : Fin 2) ≠ (x true true false 0).send.live ∧ (0 : Fin 2) = (x true true false 0).recv.live := by
  decide +kernel

/-- Die 0 of device 0 in a group with a member 5 and itself, with a clock as given. -/
def clocked (f : Clock → Clock) : State :=
  { h0 (fun h => { h with priv := .s }) with
    die := { s0.die with clock := f { gid := 3, freq := 1000, members := [{ num := 0, limit := 1000 }, { num := 5, limit := 1200 }] } } }

/-- ClockGroupsFollowTheirRules: a solitary die, members with and without a notice, shake-outs to be answered and to take effect, a silent member. -/
theorem test_meets_ClockGroupsFollowTheirRules :
    let known := fun (k : Clock) n a => k.members.find? (·.num == n) = some { num := n, limit := a }
    let c := (clocked id).die.clock
    let solo := ({ s0 with die := { s0.die with clock := { s0.die.clock with pending := [(2000, 0)] } } } : State).die.clock
    (clocked id).die.id = 0 ∧ (clocked id).dev.devid * 4 + 0 = 0 ∧ (clocked id).hart.priv ≠ .u
    ∧ (solo.gid = 0 ∧ solo.pending = [(2000, 0)] ∧ solo.freq ≤ 2250)
    ∧ (c.gid ≠ 0 ∧ known c 0 1000 ∧ known c 5 1200 ∧ c.shake = none ∧ c.freq < min c.monitor 2250 ∧ 900 < 1000 ∧ c.joining = none ∧ 0 ∉ c.silent ∧ 5 ∉ c.silent ∧ ∀ x ∈ c.sent, x.1 = 5 → x.2 + 1000000 ≤ 0)
    ∧ (let n := (clocked fun c => { c with notices := [{ member := 5, value := 900, time := 0 }] }).die.clock
       known n 5 1200 ∧ (clocked id).dev.time.toNat = 0 ∧ n.notices = [{ member := 5, value := 900, time := 0 }] ∧ n.shake = none)
    ∧ (let k := (clocked fun c => { c with shake := some { proposer := 0, answers := [(0, 1000)], commit := none } }).die.clock
       k.shake = some { proposer := 0, answers := [(0, 1000)], commit := none } ∧ (∀ x ∈ k.members, ∃ y ∈ (5, 1100) :: [(0, 1000)], y.1 = x.num)
       ∧ ¬∀ x ∈ k.members, ∃ y ∈ (0, 1100) :: ([(0, 1000)].filter fun y : Nat × Nat => y.1 != 0), y.1 = x.num)
    ∧ (let e : Shakeout := { proposer := 0, answers := [(0, 1000), (5, 1100)], commit := some 0 }
       (clocked fun c => { c with shake := some e }).die.clock.shake = some e ∧ e.commit = some 0 ∧ c.gid ≠ 0 ∧ (e.answers.map (·.1)).Nodup)
    ∧ (let l := (clocked fun c => { c with silent := [5] }).die.clock
       5 ∈ l.silent ∧ 0 ∉ l.silent ∧ known l 5 1200)
    ∧ ((∀ x ∈ c.members, 0 ≤ x.num) ∧ (∃ x ∈ c.members, x.num < 5) ∧ ∀ x ∈ c.members, x.num ≠ 5 → 0 ≤ x.num) := by
  decide +kernel

/-- ClockGroupsFollowTheirRules: an own limit that is pending already, one that is no higher than the clock, REEF of 4096, and a notice applied before a
shake-out of earlier effect. -/
theorem test_meets_ClockGroupsFollowTheirRules_limits :
    let c := (clocked id).die.clock
    min (clocked fun c => { c with monitor := 900 }).die.clock.monitor 2250 ≤ c.freq ∧ (rx 1 (xs [(1, 4096)] s0)).toNat = 4096
    ∧ (let low : Clock := { monitor := 1500, pending := [(1500, 9)] }
       low.gid = 0 ∧ min low.monitor 2250 < low.freq ∧ ∃ x ∈ low.pending, x.1 = min low.monitor 2250)
    ∧ (let w := (clocked fun c => { c with shake := some { proposer := 0, answers := [(0, 1000), (5, 1100)], commit := some 7 },
                                             applied := [{ member := 5, value := 900, time := 9 }] }).die.clock
       (∀ n ∈ c.applied, n.time ≤ 7) ∧ ∃ n ∈ w.applied, 7 < n.time ∧ ∀ n ∈ w.notices, 0 < n.time) := by
  decide +kernel

/-- ClockGroupsFollowTheirRules: a die that joins, evictions by the side of the lowest member, by one that hears nobody, and while the lowest is silent. -/
theorem test_meets_ClockGroupsFollowTheirRules_members :
    let c := (clocked id).die.clock
    let k : Clock := { gid := 3, members := [{ num := 1, limit := 1000 }, { num := 3, limit := 1000 }], silent := [1] }
    (∃ x ∈ c.members, x.num < 5 ∧ (∀ y ∈ c.members, x.num ≤ y.num) ∧ x.num ∉ c.silent)
    ∧ ((∀ x ∈ c.members, x.num ≠ 9) ∧ 9 ∉ c.silent ∧ c.members.length < 256 ∧ ∀ x ∈ c.members, 0 ≤ x.num)
    ∧ (let j := (clocked fun c => { c with joining := some 1, members := [{ num := 0, limit := 1000 }] }).die.clock
       j.joining ≠ none ∧ j.gid ≠ 0 ∧ j.silent = [] ∧ ∀ x ∈ [(5, 1200)], x.1 ≠ 0)
    ∧ (k.members.find? (·.num == 3) = some { num := 3, limit := 1000 } ∧ k.sent = []
      ∧ ∃ x ∈ k.members, x.num < 3 ∧ (∀ y ∈ k.members, x.num ≤ y.num) ∧ x.num ∈ k.silent) := by
  decide +kernel

/-- The REEF clause is of a hart alone. -/
theorem test_meets_ClockGroupsFollowTheirRules_alone : Alone (clocked id) := alone_of (by decide +kernel)

/-- A request of a CMD at slot 3 of the mailbox, with a payload, a context id of 7 and its DONE in the command window of endpoint 0. -/
def asking (cmd : Nat) (payload : List Byte) (f : Dev → Dev) : State :=
  let s : State := { State.reset with dev := f { State.reset.dev with mailbox := [3] } }
  poke (mailKey s 3 0x40) payload (poke (mailKey s 3 8) (leBytes 2 cmd ++ leBytes 2 0 ++ leBytes 4 payload.length ++ leBytes 8 windowOff ++ leBytes 8 7) s)

/-- A context 7 in a state. -/
def ctx7 (st : CtxState) (model : List Byte) (peers : List (List Byte)) : Context :=
  { id := 7, modelOwner := model, dataOwner := [], leaves := [], peers := peers, shareM := none, shareD := none, state := st, dest := []
    unconfirmed := st == .opened }

/-- A policy with two lists of one digest each. -/
def policy : List Byte := leBytes 64 0 ++ leBytes 2 1 ++ leBytes 2 1 ++ leBytes 4 0 ++ leBytes 64 0

/-- TrustRequestsAreServed: the requests stand at the head of the mailbox, well formed, and their DONE is no counter. -/
theorem test_meets_TrustRequestsAreServed :
    let ready : Nat → State → Bool := fun cmd s => let f := fun off n => peek (mailKey s 3 0 + off) n s
      s.dev.mailbox.head? == some 3 && f 0x08 2 == cmd && decide (f 0x0C 4 ≤ 4032) && peek (mailKey s 3 0 + 0x20) 32 s == 0 && decide (epOf (f 0x10 8) < 1024) && within (offOf (f 0x10 8)) windowOff 0x10000000
    let P : State → List Byte := fun s => Memory.reads s.mem (mailKey s 3 0 + 64) (peek (mailKey s 3 0 + 0x0C) 4 s)
    (ready 1 (asking 1 (leBytes 32 1) id) = true ∧ (asking 1 (leBytes 32 1) id).dev.firmware.activating = none
      ∧ (measurements (asking 1 (leBytes 32 1) id)).length ≤ 96)
    ∧ (let s := asking 1 (leBytes 32 1) fun d => { d with mailbox := [5, 3], firmware := { d.firmware with activating := some (leBytes 32 5, 2, 5) } }
       3 ∈ s.dev.mailbox ∧ s.dev.firmware.activating = some (leBytes 32 5, 2, 5) ∧ peek (mailKey s 3 0 + 8) 2 s = 1)
    ∧ (ready 2 (asking 2 policy id) = true ∧ (P (asking 2 policy id)).length = 0x48 + 32 * (fieldAt (P (asking 2 policy id)) 0x40 2 + fieldAt (P (asking 2 policy id)) 0x42 2))
    ∧ ready 3 (asking 3 (leBytes 200 1) id) = true ∧ ready 4 (asking 4 [] id) = true
    ∧ (let s := asking 5 ([1, 1] ++ leBytes 6 0 ++ leBytes 8 7) id
       ready 5 s = true ∧ (P s).length = 16 ∧ fieldAt (P s) 8 8 = 7 ∧ fieldAt (P s) 0 1 ≠ 0 ∧ fieldAt (P s) 1 1 ≤ 1)
    ∧ ready 6 (asking 6 (leBytes 64 2) id) = true ∧ ready 7 (asking 7 (leBytes 200 1) id) = true
    ∧ (let s := asking 8 (leBytes 8 0x1000 ++ leBytes 8 72) id
       ready 8 s = true ∧ (P s).length = 16 ∧ 72 ≤ fieldAt (P s) 8 8 ∧ fieldAt (P s) 0 8 + fieldAt (P s) 8 8 ≤ s.dev.capacity)
    ∧ ready 9 (asking 9 (leBytes 32 5) id) = true ∧ peek (mailKey (asking 9 (leBytes 32 5) id) 3 0 + 0x18) 8 (asking 9 (leBytes 32 5) id) = 7 := by
  decide +kernel

/-- TrustRequestsAreServed: contexts of each state, an owner that is the sender's digest, peers that admit a destination and that do not, images staged and activating. -/
theorem test_meets_TrustRequestsAreServed_state (share dest : List Byte) (n : Fin 16) :
    let o := Config.sm3 share
    let d := Config.sm3 dest
    (∀ st : CtxState, (ctx7 st [] []).id = 7 ∧ (ctx7 st [] []).state = st)
    ∧ ((ctx7 .opened o []).modelOwner = o ∧ (ctx7 .opened o []).modelOwner ≠ (ctx7 .opened o []).dataOwner ∧ (ctx7 .opened o []).shareM = none)
    ∧ (o ≠ (ctx7 .opened [] []).modelOwner ∧ o ≠ (ctx7 .opened [] []).dataOwner)
    ∧ (d ∈ (ctx7 .opened [] [d]).peers ∧ d ∉ (ctx7 .opened [] []).peers)
    ∧ ((ctx7 .opened [] []).unconfirmed = true ∧ (ctx7 .exported [] []).unconfirmed = false)
    ∧ (∀ h ∈ State.reset.hart :: State.reset.harts, h.bound = false)
    ∧ (let f : Firmware := { staged := some (leBytes 32 5, 2), activating := some (leBytes 32 5, 2, n) }
       f.staged = some (leBytes 32 5, 2) ∧ f.activating = some (leBytes 32 5, 2, n) ∧ (leBytes 32 5).length = 32 ∧ leBytes 32 6 ≠ leBytes 32 5) := by
  have len : ∀ m, Config.sm3 m ≠ [] := fun m e => by
    have h : (Config.sm3 m).length = 32 := by simp [Config.sm3]
    rw [e] at h; cases h
  refine ⟨fun _ => ⟨rfl, rfl⟩, ⟨rfl, len share, rfl⟩, ⟨len share, len share⟩, ⟨List.mem_singleton.2 rfl, List.not_mem_nil⟩, ⟨rfl, rfl⟩,
    by decide +kernel, rfl, rfl, by decide +kernel, by decide +kernel⟩

/-- TrustRequestsAreServed: a DONE counter in main memory. -/
theorem test_meets_TrustRequestsAreServed_counter :
    let s := asking 1 (leBytes 32 1) id
    let g : Target := { rd := 0x200000, wr := [0x200000], attr := 0 }
    counterTarget s 96 .atomic 0x200000 = .ok (g, s) ∧ g.wr = [0x200000] ∧ g.e2e = [] ∧ s.dev.bad = [] ∧ s.dev.linksDown = [] ∧ s.dev.silentEndpoints = []
    ∧ inKeyStore 0x200000 = false ∧ (0x200000 + 8 ≤ mailKey s 3 0 ∨ mailKey s 3 0 + 4096 ≤ 0x200000) ∧ ∀ i < 8, ¬inPartBlock s (0x200000 + i) :=
  ⟨target_of (by decide +kernel), rfl, rfl, rfl, rfl, rfl, by decide +kernel, by decide +kernel, by unfold inPartBlock; decide +kernel⟩

/-- The state of a request is safe. -/
theorem test_meets_TrustRequestsAreServed_safe : (asking 8 (leBytes 8 0x1000 ++ leBytes 8 72) id).Safe := by unfold State.Safe; decide +kernel

/-- ScalarFrame: an ADD, a BEQ and a FENCE.SV with no store put off answer a next state; a load by a leaf with the first mark to be set. -/
theorem test_meets_ScalarFrame :
    (∃ t, exec (.add 5 1 2) s0 = .next t) ∧ (∃ t, exec (.beq 1 2 4) s0 = .next t) ∧ (s0.hart.sbuf = [] ∧ s0.hart.lend = none ∧ ∃ t, exec (.fenceSv 0) s0 = .next t) ∧ (∃ t, exec (.ldw 5 1 0) (xs [(1, 0x4000)] migrating) = .next t)
    ∧ migrating.Safe ∧ migrating.hart.sbuf = [] ∧ migrating.dev.bad = [] ∧ migrating.dev.linksDown = [] ∧ canonical 0x4000 = true ∧ inWindow 0x4000 = false ∧ inAperture 0x4000 = false
    ∧ (match findLeaf migrating (reqOf migrating .load .scalar .clears) 0x4000 with | .ok (l, b) => b && !bitAt l.pte 12 | .error _ => false) = true :=
  ⟨⟨_, rfl⟩, ⟨_, rfl⟩, ⟨rfl, rfl, _, rfl⟩, ⟨_, rfl⟩, by unfold State.Safe; decide +kernel, by decide +kernel⟩

/-- A word at the pc of a hart whose turn it is. -/
def running (w : Nat) : State := poke (scratchAt s0 0xFF00000000001000) (leBytes 4 w) { s0 with turns := [0] }

/-- StepRunsTheDecodedInstruction: a word of E = 1 that decodes, and one that does not. -/
theorem test_meets_StepRunsTheDecodedInstruction :
    let at' := fun w => coreTick { clockTick (running w) with turns := [], defer := (clockTick (running w)).defer - 1 }
    let fetches : Nat → (Nat → Bool) → Bool := fun w f =>
      match reach { reqOf (at' w) .fetch .scalar .neither with bytes := 4 } (at' w).hart.pc (at' w) with
      | .ok (t, u) => decide (t.e2e = []) && f (t.value 4 u)
      | .error _ => false
    let w := 0b10000100010100100111111111111101
    (fetches w fun x => x.testBit 31 && (decode (bytesOfWord 4 x)).toOption == some (.addi 5 4 0x7FFD, [])) = true ∧ stepsPast (.addi 5 4 0x7FFD) = false
    ∧ (fetches 0xFFFFFFFF fun x => x.testBit 31 && (decode (bytesOfWord 4 x)).toOption == none) = true
    ∧ (clockTick (running w)).agenda = [] ∧ (running w).core.icache = [] ∧ engineDue (at' w) = false ∧ (running w).turns = (running w).hart.id :: [] ∧ (running w).hart.bound = true ∧ (running w).hart.retiring = false
    ∧ (running w).hart.replies = [] ∧ (running w).hart.vq = [] ∧ (running w).core.tokens ≠ 0 ∧ (running w).hart.lend = none
    ∧ (running w).hart.echo = none ∧ asyncDue (at' w) = none ∧ (running w).hart.pc.toNat % 4 = 0 := by decide +kernel

/-- StepRunsTheDecodedInstruction: a fetch that is refused, a timer and an event that are due, and a pre-emption not yet taken. -/
theorem test_meets_StepRunsTheDecodedInstruction_trap :
    let s := h0 fun h => { h with pc := 0x4000 }
    let v := coreTick { clockTick s with turns := [], defer := (clockTick s).defer - 1 }
    (match reach { reqOf v .fetch .scalar .neither with bytes := 4 } v.hart.pc v with | .error (.trap _ _) => true | _ => false) = true
    ∧ (clockTick { s0 with dev := { s0.dev with timers := [(0, .timeBeacon 1)] } }).dev.timers = (0, .timeBeacon 1) :: []
    ∧ v.hart.ahead = false ∧ v.hart.sbuf = [] ∧ (∀ x ∈ (clockTick s).dev.timers, (clockTick s).dev.time.toNat < x.1)
    ∧ ((h0 fun h => { h with preq := true }).hart.ie = true ∧ (h0 fun h => { h with preq := true }).hart.preq = true)
    ∧ (∀ p : Fin 64, (s.dev.ports[p]).send.slot0.counter < 0xFFFFFFEFFFFF ∧ (s.dev.ports[p]).send.slot1.counter < 0xFFFFFFEFFFFF)
    ∧ (clockTick { s0 with agenda := [Instr.timeBeacon 1] }).agenda = .timeBeacon 1 :: [] ∧ (clockTick { s0 with agenda := [Instr.timeBeacon 1] }).defer = 0 := by decide +kernel

/-- DecodeAndEncodeAgree: an instruction of every format whose operands are at the ends of their ranges. -/
theorem test_meets_DecodeAndEncodeAgree :
    (Instr.addi 31 31 0x7FFF).wellFormed = true ∧ encode (.addi 31 31 0x7FFF) = some 0b10000101111111111111111111111111
    ∧ (Instr.lui 0 0).wellFormed = true ∧ (encode (.lui 0 0)).isSome = true ∧ (Instr.pfxn 7 31 true).wellFormed = true
    ∧ (encode (.pfxn 7 31 true)).isSome = true
    ∧ (0xE3122700 : Nat) < 2 ^ 32 ∧ (decode (bytesOfWord 4 0xE3122700 ++ [7])).toOption.map (·.2) = some [7]
    ∧ (∀ m ∈ [0, 0x19, 0x1F, 0x2E, 0x2F, 0x3E], bitsOf (2 ^ 31 + m * 2 ^ 25) 30 25 = m) ∧ bitsOf 0xFE000000 30 25 = 0x3F ∧ (0xFE000000 : Nat).testBit 31 = true := by
  decide +kernel

/-- StepKeepsMemoryCanonical: a step of a safe state that stores. -/
theorem test_meets_StepKeepsMemoryCanonical :
    let s := running ((encode (.stw 5 1 0)).getD 0)
    s.Safe ∧ ∃ t, step s = .next t := ⟨by unfold State.Safe; decide +kernel, _, rfl⟩

end Sys2Proof.Machine.Tests
end

section
/-!
PROOFS. Addresses, page tables and the writes of system registers (05_memory.md): the marks that a translated access leaves
(O12), the region that an address reaches (O13), and what the writes of TLBINV, PREQ, VICTQ and GGROUP change (O21).
-/
namespace Sys2Proof.Machine.Addresses

/-! ### Bytes read back, and what two states share -/

/-- The bytes of a number poked at a key read back as that number, cut to its bytes. -/
theorem peek_poke_leBytes {s : State} (h : s.Safe) (a n x : Nat) : peek a n (poke a (leBytes n x) s) = x % 256 ^ n := by
  have len : (leBytes n x).length = n := leBytes_length n x
  have e : Memory.reads (poke a (leBytes n x) s).mem a n = leBytes n x := by
    rw [poke, Memory.reads_writes a (leBytes n x) h (Nat.le_of_eq len.symm), List.take_of_length_le (Nat.le_of_eq len)]
  rw [peek, e, leNat_leBytes]

theorem peek_of_mem_eq {s t : State} (h : t.mem = s.mem) (a n : Nat) : peek a n t = peek a n s := by rw [peek, peek, h]

theorem sameMemBut_of_mem_eq {s t : State} (h : t.mem = s.mem) (a n : Nat) : SameMemBut a n s t := fun _ _ => by rw [h]

theorem sameMemBut_poke (a : Nat) (bs : List Byte) (s : State) : SameMemBut a bs.length s (poke a bs s) :=
  fun _ out => Memory.read_writes_outside s.mem a bs out

/-! ### Repairs of a mirrored line (R421) -/

/-- With no failing block and no link down, check 4 fails nowhere. -/
theorem storageTrap_none {s : State} (bad : s.dev.bad = []) (links : s.dev.linksDown = []) (va : Word) (key w : Nat) :
    storageTrap s va key w = none := by
  simp [storageTrap, linkTrap, blockTrap, badAt, bad, links]

theorem repairMirror_calm {s : State} (bad : s.dev.bad = []) (links : s.dev.linksDown = []) (r : Req) (p m : Nat) :
    repairMirror r p m s = s := by
  simp [repairMirror, storageTrap_none bad links]

theorem copyLine_mem (src dst : Nat) (s : State) : (copyLine src dst s).mem =
    Memory.writes s.mem (dst / 256 * 256) (Memory.reads s.mem (src / 256 * 256) 256) := by
  simp only [copyLine, onDev_mem, poke]

theorem copyLine_safe {s : State} (h : s.Safe) (src dst : Nat) : (copyLine src dst s).Safe := by
  unfold State.Safe
  rw [copyLine_mem]
  exact Memory.wf_writes _ _ h

theorem repairMirror_safe {s : State} (h : s.Safe) (r : Req) (p m : Nat) : (repairMirror r p m s).Safe := by
  simp only [repairMirror]
  split
  · exact copyLine_safe h m p
  · split
    · exact copyLine_safe h p m
    · exact h

/-- The state that an access to a place leaves: as before, or after the repair of a mirrored line. -/
def Repaired (s u : State) : Prop := u = s ∨ ∃ r p m, u = repairMirror r p m s

theorem Repaired.safe {s u : State} (h : Repaired s u) (safe : s.Safe) : u.Safe := by
  obtain rfl | ⟨r, p, m, rfl⟩ := h
  · exact safe
  · exact repairMirror_safe safe r p m

theorem Repaired.eq_of_calm {s u : State} (h : Repaired s u) (bad : s.dev.bad = []) (links : s.dev.linksDown = []) : u = s := by
  obtain rfl | ⟨r, p, m, rfl⟩ := h
  · rfl
  · exact repairMirror_calm bad links r p m

theorem deny_ne_ok {α : Type} {c : Nat} {va : Word} {x : α} : deny c va ≠ .ok x := nofun

/-- What passes a test that denies otherwise goes on behind it. -/
theorem ok_of_ite_deny {α : Type} {p : Prop} [Decidable p] {c : Nat} {va : Word} {x : Except Stop α} {y : α}
    (h : (if p then deny c va else x) = .ok y) : x = .ok y := by
  split at h
  · exact absurd h deny_ne_ok
  · exact h

theorem grottoTarget_repaired {s u : State} {r : Req} {va : Word} {pod o : Nat} {t : Target}
    (h : grottoTarget s r va pod o = .ok (t, u)) : Repaired s u := by
  unfold grottoTarget at h
  split at h
  · exact absurd h deny_ne_ok
  replace h := ok_of_ite_deny (ok_of_ite_deny (ok_of_ite_deny h))
  extract_lets at h
  split at h
  · cases ok_of_ite_deny (ok_of_ite_deny h)
    exact .inl rfl
  · extract_lets at h
    have e : ite _ _ _ = u := congrArg Prod.snd (Except.ok.inj (ok_of_ite_deny (ok_of_ite_deny (ok_of_ite_deny h))))
    split at e
    · exact .inr ⟨_, _, _, e.symm⟩
    · exact .inl e.symm

theorem leftBy_ok {s : State} {r : Req} {ga : Nat} {x : Except Stop (Target × State)} {y : Target × State}
    (h : leftBy s r ga x = .ok y) : x = .ok y := by
  unfold leftBy at h
  split at h
  · cases h
  · exact h

theorem placeTarget_repaired {s u : State} {r : Req} {va : Word} {ga attr : Nat} {t : Target}
    (h : placeTarget s r va ga attr = .ok (t, u)) : Repaired s u := by
  unfold placeTarget at h
  split at h
  · replace h := ok_of_ite_deny h
    split at h
    · rename_i e
      cases h
      exact grottoTarget_repaired (leftBy_ok e)
    · cases h
  · cases ok_of_ite_deny (ok_of_ite_deny h)
    exact .inl rfl

/-! ### The marks of a page table entry (R115) -/

/-- R115: an entry with the marks of an access that does not sweep. -/
def markedPte (r : Req) (pte : Nat) : Nat :=
  let p := setBit pte 6 true
  let p := if bitAt pte 6 && r.use == .clears then setBit p 13 false else p
  if r.kind == .store || r.kind == .atomic then setBit p 7 true else p

theorem bitAt_setBit (img i : Nat) (b : Bool) (k : Nat) : bitAt (setBit img i b) k = if k = i then b else bitAt img k :=
  testBit_setBit img i b k

theorem markedPte_acc (r : Req) (pte : Nat) : bitAt (markedPte r pte) 6 = true := by
  simp [markedPte, apply_ite (bitAt · 6), bitAt_setBit]

theorem markedPte_dirty {r : Req} (h : r.kind = .store ∨ r.kind = .atomic) (pte : Nat) : bitAt (markedPte r pte) 7 = true := by
  have writes : (r.kind == .store || r.kind == .atomic) = true := by simpa using h
  simp [markedPte, writes, bitAt_setBit]

theorem markEntry_of_not_sweep {r : Req} (h : r.use ≠ .sweep) (l : Leaf) (s : State) :
    markEntry r l s = if markedPte r (peek l.first 8 s) = peek l.first 8 s then s
      else poke l.first (leBytes 8 (markedPte r (peek l.first 8 s))) s := by
  have noSweep : (r.use == .sweep) = false := by simpa using h
  simp [markEntry, markedPte, noSweep]

theorem markEntry_safe {r : Req} (h : r.use ≠ .sweep) (l : Leaf) {s : State} (safe : s.Safe) : (markEntry r l s).Safe := by
  rw [markEntry_of_not_sweep h]
  split
  · exact safe
  · exact safe.poke _ _

/-- The marks are made in the eight bytes of the span's first entry. -/
theorem markEntry_frame {r : Req} (h : r.use ≠ .sweep) (l : Leaf) (s : State) : SameMemBut l.first 8 s (markEntry r l s) := by
  rw [markEntry_of_not_sweep h]
  split
  · exact sameMemBut_of_mem_eq rfl _ _
  · simpa using sameMemBut_poke l.first (leBytes 8 (markedPte r (peek l.first 8 s))) s

/-- A bit below 64 of the marked entry is read back from the span's first entry. -/
theorem bitAt_markEntry {r : Req} (h : r.use ≠ .sweep) (l : Leaf) {s : State} (safe : s.Safe) {k : Nat} (lt : k < 64) :
    bitAt (peek l.first 8 (markEntry r l s)) k = bitAt (markedPte r (peek l.first 8 s)) k := by
  rw [markEntry_of_not_sweep h]
  split
  · rename_i same
    rw [same]
  · have cut : (256 : Nat) ^ 8 = 2 ^ 64 := by decide
    rw [peek_poke_leBytes safe, cut, bitAt, bitAt, Nat.testBit_mod_two_pow, decide_eq_true lt, Bool.true_and]

/-! ### What an access by the tables leaves (R113 to R115, R415) -/

theorem sendRequest_mem (r : Req) (t : Target) (s : State) : (sendRequest r t s).mem = s.mem := by
  unfold sendRequest
  refine List.foldlRecOn (motive := fun u : State => u.mem = s.mem) _ _ rfl fun u hu k _ => ?_
  split
  · exact hu
  · exact hu

theorem waitAccess_ne_ok {t : Trap} {r : Req} {s : State} {x : Target × State} : waitAccess t r s ≠ .ok x := by
  unfold waitAccess
  split <;> nofun

/-- An access that passes the interlock and checks 4 to 6 keeps its target, and memory is as its resolution left it. -/
theorem arrive_ok {r : Req} {va : Word} {s u : State} {x : Target × State} {t : Target} (h : arrive r va s x = .ok (t, u)) :
    t = x.1 ∧ u.mem = x.2.mem := by
  unfold arrive at h
  extract_lets w writes keys sent y at h
  have hy : y.mem = x.2.mem := by
    rw [apply_ite State.mem, sendRequest_mem, ite_self]
  split at h
  · cases h
  split at h
  · cases h
  split at h
  · split at h
    · exact absurd h deny_ne_ok
    · exact absurd h waitAccess_ne_ok
  split at h
  · split at h
    · exact absurd h deny_ne_ok
    · exact absurd h waitAccess_ne_ok
  · obtain ⟨rfl, rfl⟩ := Prod.mk.inj (Except.ok.inj h)
    exact ⟨rfl, hy⟩

/-- An access that passes all checks has been resolved, and memory is as its resolution left it. -/
theorem reach_ok {r : Req} {va : Word} {s u : State} {t : Target} (h : reach r va s = .ok (t, u)) :
    ∃ b v, resolve { r with atHome := b } va s = .ok (t, v) ∧ u.mem = v.mem := by
  unfold reach at h
  simp only at h
  split at h
  · cases h
  · rename_i x e
    obtain ⟨rfl, hm⟩ := arrive_ok h
    exact ⟨_, x.2, e, hm⟩

/-- An address in no region of its own, whose walk finds the leaf of an unreplicated page, is resolved to the place that the leaf
names, and the marks are left after what the place itself does. -/
theorem resolve_leaf_ok {r : Req} {va : Word} {s u : State} {l : Leaf} {t : Target} (canon : canonical va.toNat = true)
    (win : inWindow va.toNat = false) (ap : inAperture va.toNat = false) (leaf : findLeaf s r va = .ok (l, true))
    (plain : bitAt l.pte 12 = false) (h : resolve r va s = .ok (t, u)) :
    ∃ v, Repaired s v ∧ u = tlbInsert r va l (markEntry r l v) := by
  unfold resolve at h
  simp only [canon, win, ap, leaf, plain, Bool.not_true, Bool.false_eq_true, if_false, if_true] at h
  replace h := ok_of_ite_deny h
  split at h
  · cases h
  · rename_i t' v e
    cases h
    exact ⟨v, placeTarget_repaired e, rfl⟩

/-- Settles O12: the entry is marked after what the place itself repairs, and nothing later touches memory. -/
theorem translatedAccessSetsItsMarks : Obligations.TranslatedAccessSetsItsMarks := by
  unfold Obligations.TranslatedAccessSetsItsMarks
  intro s u r va l t safe use canon win ap leaf plain h
  obtain ⟨b, w, res, hmem⟩ := reach_ok h
  let q : Req := { r with atHome := b }
  have hq : q.use ≠ .sweep := use
  obtain ⟨v, rep, rfl⟩ := resolve_leaf_ok (r := q) canon win ap leaf plain res
  have mem : u.mem = (markEntry q l v).mem := hmem
  have vsafe : v.Safe := rep.safe safe
  refine ⟨(markEntry_safe hq l vsafe).of_mem_eq mem, fun bad links a out => ?_, ?_, fun writes => ?_⟩
  · have calm : v = s := rep.eq_of_calm bad links
    rw [mem, calm]
    exact markEntry_frame hq l s a out
  · rw [peek_of_mem_eq mem, bitAt_markEntry hq l vsafe (by decide)]
    exact markedPte_acc q _
  · rw [peek_of_mem_eq mem, bitAt_markEntry hq l vsafe (by decide)]
    exact markedPte_dirty (r := q) writes _

/-! ### The core-local window (R111, R119) -/

/-- R111: the addresses of the window are canonical, and their offset in it is what stands above its base. -/
theorem window_facts {va : Word} (lo : 0xFF00000000000000 ≤ va.toNat) (hi : va.toNat ≤ 0xFF000000FFFFFFFF) :
    canonical va.toNat = true ∧ inWindow va.toNat = true ∧ va.toNat % 2 ^ 32 = va.toNat - 0xFF00000000000000 := by
  simp only [canonical, inWindow, Bool.or_eq_true, beq_iff_eq]
  omega

/-- An address of the window goes where the window has it, and nothing is marked. -/
theorem resolve_window_ok {r : Req} {va : Word} {s : State} {t : Target} (canon : canonical va.toNat = true)
    (win : inWindow va.toNat = true) (h : windowTarget s r va = .ok t) : resolve r va s = .ok (t, s) := by
  simp [resolve, canon, win, h]

theorem resolve_window_error {r : Req} {va : Word} {s : State} {e : Stop} (canon : canonical va.toNat = true)
    (win : inWindow va.toNat = true) (h : windowTarget s r va = .error e) : resolve r va s = .error e := by
  simp [resolve, canon, win, h]

theorem windowTarget_scratch {s : State} {r : Req} {va : Word} {off : Nat} (e : va.toNat % 2 ^ 32 = off) (h : off < 0x100000) :
    windowTarget s r va = .ok { rd := scratchKey s (coreOf r.hart) off, wr := [scratchKey s (coreOf r.hart) off], attr := 0 } := by
  subst e
  exact if_pos h

theorem windowTarget_scalarData {s : State} {r : Req} {va : Word} {off : Nat} (e : va.toNat % 2 ^ 32 = off) (lo : 0x100000 ≤ off)
    (hi : off < 0x110000) (agent : r.agent = .scalar ∨ r.agent = .engine) :
    windowTarget s r va =
      .ok { rd := sdmKey (coreOf r.hart) (off - 0x100000), wr := [sdmKey (coreOf r.hart) (off - 0x100000)], attr := 0 } := by
  subst e
  exact (if_neg (Nat.not_lt.2 lo)).trans (if_pos ⟨hi, agent⟩)

theorem windowTarget_denied {s : State} {r : Req} {va : Word} {off : Nat} (e : va.toNat % 2 ^ 32 = off) (lo : 0x100000 ≤ off)
    (h : off < 0x110000 → ¬(r.agent = .scalar ∨ r.agent = .engine)) : windowTarget s r va = deny 7 va := by
  subst e
  exact (if_neg (Nat.not_lt.2 lo)).trans (if_neg fun k => h k.1 k.2)

/-- R122: the key of a scratchpad byte, written out. -/
theorem scratchKey_eq (s : State) (c off : Nat) : scratchKey s c off = s.dev.devid * 2 ^ 44 + 0xD0000000000 + c * 0x100000 + off := by
  simp only [scratchKey, gaOf, scratchOff, Nat.add_assoc]

/-! ### Addresses that are not canonical, and leaves that do not permit (R111, R114, R416) -/

/-- R111: bits 57 to 63 of a canonical address equal bit 56. -/
theorem getLsbD_of_canonical {va : Word} (h : canonical va.toNat = true) {i : Nat} (lo : 56 < i) (hi : i < 64) :
    va.getLsbD i = va.getLsbD 56 := by
  have high : ∀ k, va.getLsbD (56 + k) = (va.toNat / 2 ^ 56).testBit k := fun k => by
    rw [Nat.testBit_div_two_pow, Nat.add_comm, BitVec.getLsbD]
  obtain ⟨k, rfl⟩ := Nat.exists_eq_add_of_lt lo
  have all : ∀ k < 8, Nat.testBit 0xFF k = Nat.testBit 0xFF 0 := by decide
  rw [Nat.add_assoc, high, ← Nat.add_zero 56, high]
  obtain e | e : va.toNat / 2 ^ 56 = 0 ∨ va.toNat / 2 ^ 56 = 0xFF := by simpa [canonical] using h
  · rw [e, Nat.zero_testBit, Nat.zero_testBit]
  · rw [e, all _ (by omega)]

theorem resolve_not_canonical {r : Req} {va : Word} {s : State} (h : canonical va.toNat = false) :
    resolve r va s = deny (transCause r.kind) va := by
  simp [resolve, h]

/-- R114: without a permission that the access needs, the leaf does not permit it. -/
theorem not_permitted {r : Req} {pte : Nat}
    (h : (r.priv = .u ∧ bitAt pte 4 = false) ∨ ((r.kind = .load ∨ r.kind = .wait ∨ r.kind = .atomic) ∧ bitAt pte 1 = false)
      ∨ ((r.kind = .store ∨ r.kind = .atomic) ∧ bitAt pte 2 = false) ∨ (r.kind = .fetch ∧ bitAt pte 3 = false)) :
    permitted r pte = false := by
  obtain ⟨priv, usr⟩ | ⟨k | k | k, bit⟩ | ⟨k | k, bit⟩ | ⟨k, bit⟩ := h
  · simp [permitted, priv, usr]
  all_goals simp [permitted, k, bit]

/-- R114, R415: the permissions of a leaf are checked once its descriptor, where its page is replicated, is well formed. -/
theorem resolve_not_permitted {r : Req} {va : Word} {s : State} {l : Leaf} {b : Bool} (canon : canonical va.toNat = true)
    (win : inWindow va.toNat = false) (ap : inAperture va.toNat = false) (leaf : findLeaf s r va = .ok (l, b))
    (desc : bitAt l.pte 12 = true → descStop s r va (gapn l.pte) = none) (h : permitted r l.pte = false) :
    resolve r va s = deny 7 va := by
  have stop : (if bitAt l.pte 12 then descStop s r va (gapn l.pte) else none) = none := by
    split
    · rename_i repl
      exact desc repl
    · rfl
  simp [resolve, canon, win, ap, leaf, stop, h]

/-- Settles O13: the window first, then the canonical form, then the permissions of the leaf, in the order of R415. -/
theorem addressesReachTheirRegions : Obligations.AddressesReachTheirRegions := by
  unfold Obligations.AddressesReachTheirRegions
  intro s r va fails
  refine ⟨fun lo hi => ?_, fun ⟨i, above, below, ne⟩ => ?_, fun l b canon win ap leaf desc lacks => ?_⟩
  · obtain ⟨canon, win, e⟩ := window_facts lo hi
    intro off goes
    have denied : 0x100000 ≤ off → (off < 0x110000 → ¬(r.agent = .scalar ∨ r.agent = .engine)) → fails 7 := fun above h =>
      resolve_window_error canon win (windowTarget_denied e above h)
    refine ⟨fun h => ?_, fun above below agent => ?_, fun above below agent => ?_, fun above => ?_⟩
    · have t := windowTarget_scratch (s := s) (r := r) e h
      rw [scratchKey_eq] at t
      exact resolve_window_ok canon win t
    · exact resolve_window_ok canon win (windowTarget_scalarData e above below agent)
    · refine denied above fun _ served => ?_
      obtain k | k := agent <;> simp [k] at served
    · exact denied (by omega) fun below => by omega
  · have notCanon : canonical va.toNat = false :=
      Bool.eq_false_iff.2 fun canon => ne (getLsbD_of_canonical canon above below)
    have t := resolve_not_canonical (r := r) (s := s) notCanon
    show resolve r va s = _
    rw [t]
    cases r.kind <;> rfl
  · exact resolve_not_permitted canon win ap leaf desc (not_permitted lacks)

/-! ### What performing an access put off leaves of the TLBs (R116) -/

/-- Acts that each leave the TLBs as they are leave them so one after another. -/
theorem foldl_tlb {α : Type} {f : State → α → State} (h : ∀ u x, (f u x).dev.tlb = u.dev.tlb) (l : List α) (s : State) :
    (l.foldl f s).dev.tlb = s.dev.tlb :=
  List.foldlRecOn (motive := fun u : State => u.dev.tlb = s.dev.tlb) l f rfl fun u hu x _ => (h u x).trans hu

theorem poke_dev (a : Nat) (bs : List Byte) (s : State) : (poke a bs s).dev = s.dev := rfl

/-- A write to a partition block makes pokes, events, a timer and records of energy; the queues are named first, so that the
sixteen updates are not evaluated. -/
theorem partWrite_tlb (p off : Nat) (bs : List Byte) (s : State) : (partWrite p off bs s).dev.tlb = s.dev.tlb := by
  unfold partWrite
  generalize List.range 16 = queues
  extract_lets base idle accepts wrote en s1 s2 takes s3 s4 next
  have h1 : s1.dev.tlb = s.dev.tlb := foldl_tlb (fun u i => by rw [apply_ite State.dev, poke_dev, ite_self]) _ s
  have h2 : s2.dev.tlb = s1.dev.tlb := foldl_tlb (fun u n => by rw [apply_ite State.dev, poke_dev, poke_dev, ite_self]) _ s1
  have h3 : s3.dev.tlb = s.dev.tlb := by
    rw [← h1, ← h2, apply_ite State.dev, due_dev, ite_self]
  have h4 : s4.dev.tlb = s.dev.tlb := by
    rw [← h3, apply_ite State.dev, due_dev, ite_self]
  clear_value s4
  split
  · exact h4
  · exact h4

theorem mailPost_tlb (off : Nat) (s0 s : State) : (mailPost off s0 s).dev.tlb = s.dev.tlb := by
  unfold mailPost
  extract_lets slot
  split <;> rfl

theorem writeKey_tlb (key : Nat) (bs : List Byte) (s : State) : (writeKey key bs s).dev.tlb = s.dev.tlb := by
  unfold writeKey
  split
  · exact partWrite_tlb _ _ _ _
  · split
    · rw [mailPost_tlb, poke_dev]
    · rw [poke_dev]

theorem sealLine_tlb (c : SealedCopy) (v : Nat) (plain : List Byte) (s : State) : (sealLine c v plain s).dev.tlb = s.dev.tlb := rfl

theorem writeCopy_tlb (t : Target) (line : List Byte) (v : Nat) (bs : List Byte) (s : State) (key : Nat) :
    (writeCopy t line v bs s key).dev.tlb = s.dev.tlb := by
  unfold writeCopy
  split
  · exact writeKey_tlb _ _ _
  · exact sealLine_tlb _ _ _ _

theorem afterStore_dev (a : Agent) (hart : Option Nat) (key n : Nat) (s : State) : (afterStore a hart key n s).dev = s.dev := by
  unfold afterStore
  extract_lets u
  split <;> rfl

theorem writeTarget_tlb (r : Req) (t : Target) (va : Word) (bs : List Byte) (s : State) :
    (writeTarget r t va bs s).dev.tlb = s.dev.tlb := by
  unfold writeTarget
  extract_lets line s1 s2
  have h1 : s1.dev.tlb = s.dev.tlb := foldl_tlb (writeCopy_tlb t line _ bs) t.wr s
  have h2 : s2.dev.tlb = s1.dev.tlb := foldl_tlb (fun u k => by rw [afterStore_dev]) t.wr s1
  exact h2.trans h1

theorem perform_tlb (a : Act) (r : Req) (t : Target) (va : Word) (s : State) : (a.perform r t va s).dev.tlb = s.dev.tlb := by
  cases a with
  | store bs => exact writeTarget_tlb r t va bs s
  | rmw m d => exact writeTarget_tlb r t va _ s
  | load n signed d => rfl

theorem performAccess_tlb (s : State) (x : SAccess) : (performAccess s x).dev.tlb = s.dev.tlb := by
  unfold performAccess
  rw [wx_dev]
  split
  · exact perform_tlb _ _ _ _ _
  · rfl

theorem performBuffered_tlb (s : State) : (performBuffered s).dev.tlb = s.dev.tlb := foldl_tlb performAccess_tlb _ _

theorem focus_dev {h : Nat} {s t : State} (e : focus h s = some t) : t.dev = s.dev := by
  unfold focus at e
  split at e
  · cases e; rfl
  · split at e
    · cases e
    · cases e; simp

theorem asHart_tlb {f : State → State} (hf : ∀ u, (f u).dev.tlb = u.dev.tlb) (h : Nat) (s : State) :
    (asHart h f s).dev.tlb = s.dev.tlb := by
  unfold asHart
  split
  · rfl
  · rename_i t e
    have back : ((focus s.hart.id (f t)).getD (f t)).dev = (f t).dev := by
      cases k : focus s.hart.id (f t) with
      | none => rfl
      | some u => exact focus_dev k
    rw [back, hf, focus_dev e]

/-- R116: a write of TLBINV leaves of the TLBs what its selection keeps. -/
theorem mem_tlb_tlbInvalidate (all keepg : Bool) (vpn : Nat) (s : State) (e : TlbEntry) :
    e ∈ (tlbInvalidate all keepg vpn s).dev.tlb ↔
      e ∈ s.dev.tlb ∧ (if all then keepg && bitAt e.pte 5 else decide (e.page % 2 ^ 57 / e.size ≠ vpn * 4096 / e.size)) = true := by
  have kept := foldl_tlb (fun u n => asHart_tlb performBuffered_tlb n u) (translatedHarts s) s
  simp only [tlbInvalidate, tlbDrop, State.onDev, List.mem_filter, kept]

/-! ### Pre-emption requests (R393) -/

/-- A hart with its pre-emption request set where it is the one named. -/
def requested (n : Nat) (h : Hart) : Hart := if h.id = n then { h with preq := true } else h

theorem requested_id (n : Nat) (h : Hart) : (requested n h).id = h.id := by unfold requested; split <;> rfl

theorem requested_preq {n : Nat} {h : Hart} : (requested n h).preq = true ↔ h.id = n ∨ h.preq = true := by
  unfold requested; split <;> simp_all

/-- R393: the hart in focus may request the pre-emption of hart `n`. -/
def MayRequest (n : Nat) (s : State) : Prop :=
  ∃ h ∈ s.hart :: s.harts, h.bound = true ∧ h.id = n ∧ (h.part = s.hart.part ∨ s.hart.priv = .m)

theorem preqAct_of_mayRequest {n : Nat} {s : State} (h : MayRequest n s) :
    preqAct n s = { s with hart := requested n s.hart, harts := s.harts.map (requested n) } := by
  refine if_pos ?_
  obtain ⟨k, mem, bound, id, may⟩ := h
  have bd : k ∈ boundHarts s := List.mem_filter.2 ⟨mem, bound⟩
  obtain part | m := may
  · simp only [isPartHart, Bool.or_eq_true, List.any_eq_true]
    exact .inl ⟨k, bd, by simp [id, part]⟩
  · simp only [m, Bool.or_eq_true, Bool.and_eq_true, List.any_eq_true]
    exact .inr ⟨rfl, k, bd, by simp [id]⟩

theorem preqAct_of_not_mayRequest {n : Nat} {s : State} (h : ¬MayRequest n s) : preqAct n s = s := by
  refine if_neg fun c => h ?_
  simp only [isPartHart, Bool.or_eq_true, Bool.and_eq_true, List.any_eq_true, beq_iff_eq, boundHarts, List.mem_filter] at c
  obtain ⟨k, ⟨mem, bound⟩, id, part⟩ | ⟨m, k, ⟨mem, bound⟩, id⟩ := c
  · exact ⟨k, mem, bound, id, .inl part⟩
  · exact ⟨k, mem, bound, id, .inr m⟩

/-- R393: a request reaches the hart named, and no hart has a request that it did not have or is not named for. -/
theorem preqAct_frame (n : Nat) (s : State) : (preqAct n s).mem = s.mem
    ∧ ∀ h ∈ (preqAct n s).hart :: (preqAct n s).harts, h.preq = true →
      (∃ k ∈ s.hart :: s.harts, k.id = h.id ∧ k.preq = true) ∨ h.id = n := by
  by_cases may : MayRequest n s
  · rw [preqAct_of_mayRequest may]
    refine ⟨rfl, fun h mem set => ?_⟩
    obtain ⟨k, hk, rfl⟩ : ∃ k ∈ s.hart :: s.harts, requested n k = h := List.mem_map.1 mem
    rw [requested_id]
    exact (requested_preq.1 set).symm.imp (fun p => ⟨k, hk, rfl, p⟩) id
  · rw [preqAct_of_not_mayRequest may]
    exact ⟨rfl, fun h mem set => .inl ⟨h, mem, rfl, set⟩⟩

theorem preqAct_named {n : Nat} {s : State} (may : MayRequest n s) :
    ∀ h ∈ (preqAct n s).hart :: (preqAct n s).harts, h.id = n → h.preq = true := by
  rw [preqAct_of_mayRequest may]
  intro h mem id
  obtain ⟨k, -, rfl⟩ : ∃ k ∈ s.hart :: s.harts, requested n k = h := List.mem_map.1 mem
  exact requested_preq.2 (.inl ((requested_id n k).symm.trans id))

/-! ### Moves between clock groups (R324) -/

/-- The parts of the state and of the clock that this die's messages and timers leave as they are. -/
def SameGroup (s u : State) : Prop :=
  u.hart = s.hart ∧ u.mem = s.mem ∧ u.die.clock.gid = s.die.clock.gid ∧ u.die.clock.members = s.die.clock.members
    ∧ u.die.clock.joining = s.die.clock.joining

theorem tellDevice_onDev (ep : Nat) (s : State) : ∃ g, tellDevice ep s = s.onDev g := by
  unfold tellDevice
  split
  · exact ⟨id, rfl⟩
  · exact sendPacket_onDev _ _ _ _

theorem tell_sameGroup (f : Nat → Instr) (s : State) : SameGroup s (tell f s) := by
  unfold tell
  refine List.foldlRecOn (motive := fun u : State => SameGroup s u) _ _ ⟨rfl, rfl, rfl, rfl, rfl⟩ fun u hu ep _ => ?_
  obtain ⟨g, e⟩ := tellDevice_onDev ep u
  rw [e]
  exact hu

theorem limitChanged_solitary {s : State} (h : s.die.clock.gid = 0) : SameGroup s (limitChanged s) := by
  unfold limitChanged
  extract_lets c own t kept
  rw [if_pos h]
  split
  · exact ⟨rfl, rfl, rfl, rfl, rfl⟩
  · split <;> exact ⟨rfl, rfl, rfl, rfl, rfl⟩

/-- R324, R330, R331: a die that writes another group has left its own and asks to join the one written, if any. -/
theorem ggroupAct_moves {v : Nat} {s : State} (h : v ≠ s.die.clock.gid) :
    (ggroupAct v s).die.clock.gid = v ∧ (ggroupAct v s).die.clock.members = []
    ∧ (ggroupAct v s).die.clock.joining = (if v = 0 then none else some v) ∧ (ggroupAct v s).hart = s.hart
    ∧ (ggroupAct v s).mem = s.mem := by
  unfold ggroupAct
  rw [if_neg h]
  extract_lets self left asks
  obtain ⟨hart, mem, -⟩ : SameGroup s left := tell_sameGroup _ s
  have same : SameGroup asks (if v = 0 then limitChanged asks
      else inTime 200000 (.joinTimeout asks.die.id) (tell (fun d => .joinRequest d self (ownLimit asks.die.clock)) asks)) := by
    split
    · rename_i zero
      exact limitChanged_solitary zero
    · exact tell_sameGroup (fun d => .joinRequest d self (ownLimit asks.die.clock)) asks
  obtain ⟨hart', mem', gid, members, joining⟩ := same
  exact ⟨gid, members, joining, hart'.trans hart, mem'.trans mem⟩

/-- Settles O21: each write is its act, and performing what was put off leaves the TLBs alone. -/
theorem systemRegisterEvents : Obligations.SystemRegisterEvents := by
  unfold Obligations.SystemRegisterEvents
  intro s keepg vpn n v g
  refine ⟨⟨_, rfl, fun e => ?_⟩, ⟨_, rfl, fun e => ?_⟩, ⟨_, rfl, ?_⟩, ⟨_, rfl, rfl, rfl, rfl, rfl, rfl⟩, fun same => ?_, fun other => ?_⟩
  · simpa using mem_tlb_tlbInvalidate true keepg 0 s e
  · simpa using mem_tlb_tlbInvalidate false false vpn s e
  · obtain ⟨mem, frame⟩ := preqAct_frame n.val s
    refine ⟨mem, frame, fun may => preqAct_named may, fun none => preqAct_of_not_mayRequest ?_⟩
    rintro ⟨h, hmem, bound, id, may⟩
    obtain ⟨part, m⟩ := none h hmem id bound
    exact may.elim part m
  · exact congrArg Host.Outcome.next (if_pos same)
  · exact ⟨_, rfl, ggroupAct_moves other⟩

end Sys2Proof.Machine.Addresses
end
